-- ==== Sys2Proof/Word.lean ====
section
/-! DEFINITION. The word and byte types of the DZ4 module and the numbers its parts go by (R13, R15, R497). -/

namespace Sys2Proof

/-- A register word, 32 bits (R499). -/
abbrev Word := BitVec 32

/-- One byte of module memory. -/
abbrev Byte := BitVec 8

/-- A logical core of the module, 64 × die + 8 × cluster + core (R50). -/
abbrev CoreId := Fin 256
/-- A cluster of the module, 8 × die + cluster (R3). -/
abbrev ClusterId := Fin 32
/-- A compute die C0 to C3 (R13). -/
abbrev DieId := Fin 4
/-- A polder (R399). -/
abbrev PolderId := Fin 4
/-- A Punt engine, P0 or P1 (R75). -/
abbrev PuntId := Fin 2
/-- A stream class S0 to S3 (R67). -/
abbrev ClassId := Fin 4
/-- A landing object (R272). -/
abbrev LandingId := Fin 8192
/-- A host-visible landing (R272). -/
abbrev HostLandingId := Fin 1024
/-- A wait-list slot (R272). -/
abbrev SlotId := Fin 16
/-- A Ferry port (R6). -/
abbrev PortId := Fin 16
/-- A Ferry work queue (R313). -/
abbrev QueueId := Fin 32
/-- A transfer slot of a work queue (R315). -/
abbrev XidSlot := Fin 128
/-- A Sluice queue (R337). -/
abbrev SluiceId := Fin 8
/-- An Ethernet ingest port (R210). -/
abbrev IngestPort := Fin 2
/-- A stream channel (R213, R222). -/
abbrev ChannelId := Fin 512
/-- A logical Reedbed unit (R222). -/
abbrev ReedbedId := Fin 16
/-- A physical core of a cluster (R74). -/
abbrev PhysCore := Fin 9
/-- An SRAM die of a compute die (R173). -/
abbrev SramId := Fin 2
/-- A spare bank, A or B (R202). -/
abbrev SpareId := Fin 2
/-- A gather buffer (R421). -/
abbrev GatherId := Fin 16
/-- A register page (R497). -/
abbrev PageId := Fin 2048
/-- A page of 4 KiB of BAR0, and a byte of one (R416). -/
abbrev BarPage := Fin 8192
abbrev PageByte := Fin 4096
/-- A word of a register page. -/
abbrev WordId := Fin 1024
/-- An event counter of a page (R473). -/
abbrev EvId := Fin 8
/-- An LPDDR5X device of the module (R177). -/
abbrev DevId := Fin 32

end Sys2Proof
end

