-- ==== Sys2Proof/Machine/Float.lean ====
section
/-! DEFINITION. Number formats, conversions, the exact group sum and stochastic rounding (R18 to R47), over exact
dyadic values. -/

namespace Sys2Proof.Machine

/-- The element formats of R19. -/
inductive Fmt where
  | fp32 | bf16 | fp16 | e5m2 | e4m3 | e3m2 | e2m3 | e2m1 | int8 | int32
  deriving DecidableEq, Repr

/-- The exact value of an element: NaN, an infinity, or (−1)^neg × mant × 2^exp; a zero keeps its sign (R27). -/
inductive FVal where
  | nan
  | inf (neg : Bool)
  | fin (neg : Bool) (mant : Nat) (exp : Int)
  deriving DecidableEq, Repr

/-- Rounding modes of R27 and R31; stochastic rounding carries the hash value r of R44. -/
inductive Rnd where
  | rne
  | rz
  | sr (r : Nat)
  deriving DecidableEq, Repr

/-- The floating-point events of R21 and R29, as counts. -/
structure FpEvents where
  invalid  : Nat
  overflow : Nat
  nanLost  : Nat
  deriving DecidableEq, Repr

def FpEvents.none : FpEvents := ⟨0, 0, 0⟩
def FpEvents.add (a b : FpEvents) : FpEvents :=
  ⟨a.invalid + b.invalid, a.overflow + b.overflow, a.nanLost + b.nanLost⟩

/-- Width in bits (R19). -/
def Fmt.bits : Fmt → Nat
  | .fp32 | .int32 => 32
  | .bf16 | .fp16 => 16
  | .e5m2 | .e4m3 | .int8 => 8
  | .e3m2 | .e2m3 => 6
  | .e2m1 => 4

/-- Fraction bits of a floating format. -/
def Fmt.mbits : Fmt → Nat
  | .fp32 => 23 | .bf16 => 7 | .fp16 => 10 | .e5m2 => 2 | .e4m3 => 3 | .e3m2 => 2 | .e2m3 => 3 | .e2m1 => 1
  | .int8 => 6 | .int32 => 0

/-- Exponent bits of a floating format. -/
def Fmt.ebits : Fmt → Nat
  | .fp32 => 8 | .bf16 => 8 | .fp16 => 5 | .e5m2 => 5 | .e4m3 => 4 | .e3m2 => 3 | .e2m3 => 2 | .e2m1 => 2
  | .int8 => 0 | .int32 => 0

/-- Exponent of the smallest subnormal or step (R19, R34). -/
def Fmt.minExp : Fmt → Int
  | .fp32 => -149 | .bf16 => -133 | .fp16 => -24 | .e5m2 => -16 | .e4m3 => -9 | .e3m2 => -4 | .e2m3 => -3
  | .e2m1 => -1 | .int8 => -6 | .int32 => 0

/-- Encoding of the largest finite magnitude (R19). -/
def Fmt.maxField : Fmt → Nat
  | .fp32 => 0x7F7FFFFF | .bf16 => 0x7F7F | .fp16 => 0x7BFF | .e5m2 => 0x7B | .e4m3 => 0x7E | .e3m2 => 0x1F
  | .e2m3 => 0x1F | .e2m1 => 0x7 | .int8 => 127 | .int32 => 0x7FFFFFFF

/-- Whether the format has infinities (R19). -/
def Fmt.hasInf : Fmt → Bool
  | .fp32 | .bf16 | .fp16 | .e5m2 => true
  | _ => false

/-- The canonical NaN (R20); none for a format without NaN. -/
def Fmt.nan : Fmt → Option Nat
  | .fp32 => some 0x7FC00000 | .bf16 => some 0x7FC0 | .fp16 => some 0x7E00 | .e5m2 => some 0x7E
  | .e4m3 => some 0x7F
  | _ => none

/-- EMAX of R30. -/
def Fmt.emax : Fmt → Int
  | .e5m2 => 15 | .e4m3 => 8 | .e3m2 => 4 | .e2m3 => 2 | .e2m1 => 2 | _ => 0

/-- The two's-complement value of the low `w` bits of `n`. -/
def sint (w n : Nat) : Int :=
  if 2 ^ (w - 1) ≤ n % 2 ^ w then (n % 2 ^ w : Int) - (2 ^ w : Int) else (n % 2 ^ w : Int)

/-- The encoding of an integer in `w` two's-complement bits. -/
def uint (w : Nat) (i : Int) : Nat := (i % (2 ^ w : Int)).toNat

/-- The value of an integer times a power of two. -/
def FVal.ofInt (i : Int) (e : Int) : FVal := .fin (i < 0) i.natAbs e

def FVal.zero : FVal := .fin false 0 0
def FVal.one : FVal := .fin false 1 0

/-- The signed mantissa of a finite value at exponent `e` no greater than its own. -/
def FVal.at (e : Int) : FVal → Int
  | .fin n m x => (if n then -1 else 1) * (m * 2 ^ (x - e).toNat : Nat)
  | _ => 0

/-- The exact value of an encoding (R19, R26). -/
def Fmt.decode (f : Fmt) (b : Nat) : FVal :=
  match f with
  | .int8 => .ofInt (sint 8 b) (-6)
  | .int32 => .ofInt (sint 32 b) 0
  | f =>
    let w := f.bits
    let neg := b / 2 ^ (w - 1) % 2 == 1
    let mag := b % 2 ^ (w - 1)
    let e := mag / 2 ^ f.mbits
    let m := mag % 2 ^ f.mbits
    if f.hasInf && e == 2 ^ f.ebits - 1 then (if m = 0 then .inf neg else .nan)
    else if f == .e4m3 && mag == 0x7F then .nan
    else if e = 0 then .fin neg m f.minExp
    else .fin neg (2 ^ f.mbits + m) (f.minExp + (e - 1))

/-- FP32 word to value. -/
def f32 (w : Word) : FVal := Fmt.decode .fp32 w.toNat

/-- `m × 2^e` on the grid of step `2^g`: the lower grid index rounded up or not under `r` (R27, R42). -/
def roundGrid (r : Rnd) (m : Nat) (e g : Int) : Nat :=
  if g ≤ e then m * 2 ^ (e - g).toNat
  else
    let sh := (g - e).toNat
    let q := m / 2 ^ sh
    let rem := m % 2 ^ sh
    match r with
    | .rz => q
    | .rne =>
      if 2 ^ sh < 2 * rem ∨ (2 * rem = 2 ^ sh ∧ q % 2 = 1) then q + 1 else q
    | .sr h =>
      if rem = 0 then q
      else if 2 ^ 32 ≤ rem * 2 ^ 32 / 2 ^ sh + h then q + 1 else q

/-- The magnitude field that `m × 2^e` rounds to in a floating format, before the overflow test. -/
def Fmt.field (f : Fmt) (r : Rnd) (m : Nat) (e : Int) : Nat :=
  if m = 0 then 0
  else
    let top := (Nat.log2 m : Int) + e - f.mbits
    let g := if top < f.minExp then f.minExp else top
    (g - f.minExp).toNat * 2 ^ f.mbits + roundGrid r m e g

/-- The encoding of `v` under R27 and R28, with the events it counts (R21, R29, R127): OVERFLOW where a finite value
overflows a conversion that does not saturate, INVALID where it gives a NaN. -/
def Fmt.encode (f : Fmt) (r : Rnd) (sat : Bool) (v : FVal) : Nat × FpEvents :=
  match f with
  | .int8 =>
    match v with
    | .nan => (0, ⟨0, 0, 1⟩)
    | .inf n => (if n then uint 8 (-127) else 127, FpEvents.none)
    | .fin n m e =>
      let q := min (roundGrid r m e (-6)) 127
      (uint 8 (if n then -(q : Int) else q), FpEvents.none)
  | .int32 =>
    match v with
    | .nan => (0, ⟨0, 0, 1⟩)
    | .inf n => (if n then 0x80000000 else 0x7FFFFFFF, FpEvents.none)
    | .fin n m e =>
      let q := min (roundGrid r m e 0) (if n then 2 ^ 31 else 2 ^ 31 - 1)
      (uint 32 (if n then -(q : Int) else q), FpEvents.none)
  | f =>
    let s := fun (n : Bool) => if n then 2 ^ (f.bits - 1) else 0
    let big := fun (n : Bool) (ev : Nat) =>
      if sat then (s n + f.maxField, FpEvents.none)
      else if f.hasInf then (s n + (2 ^ f.ebits - 1) * 2 ^ f.mbits, (⟨0, ev, 0⟩ : FpEvents))
      else match f.nan with
        | some c => (c, ⟨1, ev, 0⟩)
        | none => (s n + f.maxField, FpEvents.none)
    match v with
    | .nan =>
      match f.nan with
      | some c => (c, FpEvents.none)
      | none => (0, ⟨0, 0, 1⟩)
    | .inf n => big n 0
    | .fin n m e =>
      let q := f.field r m e
      if f.maxField < q then big n 1 else (s n + q, FpEvents.none)

/-- RNE32 of R33. -/
def rne32 (v : FVal) : Word := BitVec.ofNat 32 (Fmt.encode .fp32 .rne false v).1

def FVal.isNan : FVal → Bool
  | .nan => true
  | _ => false

def FVal.isInf : FVal → Bool
  | .inf _ => true
  | _ => false

def FVal.isZero : FVal → Bool
  | .fin _ 0 _ => true
  | _ => false

def FVal.neg : FVal → FVal
  | .nan => .nan
  | .inf n => .inf (!n)
  | .fin n m e => .fin (!n) m e

def FVal.abs : FVal → FVal
  | .nan => .nan
  | .inf _ => .inf false
  | .fin _ m e => .fin false m e

/-- Exact sum; an exact cancellation is +0, two zeros of one sign keep it (R35, R36, R39). -/
def FVal.add : FVal → FVal → FVal
  | .nan, _ => .nan
  | _, .nan => .nan
  | .inf a, .inf b => if a = b then .inf a else .nan
  | .inf a, _ => .inf a
  | _, .inf b => .inf b
  | .fin n1 m1 e1, .fin n2 m2 e2 =>
    let e := if e1 ≤ e2 then e1 else e2
    let i := FVal.at e (.fin n1 m1 e1) + FVal.at e (.fin n2 m2 e2)
    if i = 0 then .fin (n1 && n2) 0 e else .ofInt i e

/-- Exact product; ∞ × 0 is NaN. -/
def FVal.mul : FVal → FVal → FVal
  | .nan, _ => .nan
  | _, .nan => .nan
  | .inf a, .inf b => .inf (a != b)
  | .inf a, .fin b m _ => if m = 0 then .nan else .inf (a != b)
  | .fin a m _, .inf b => if m = 0 then .nan else .inf (a != b)
  | .fin a m e, .fin b n g => .fin (a != b) (m * n) (e + g)

/-- The value times 2^k. -/
def FVal.scale (k : Int) : FVal → FVal
  | .fin n m e => .fin n m (e + k)
  | v => v

/-- `a < b` on values that are no NaN; −0 and +0 are equal. -/
def FVal.lt : FVal → FVal → Bool
  | .nan, _ => false
  | _, .nan => false
  | .inf a, .inf b => a && !b
  | .inf a, _ => a
  | _, .inf b => !b
  | .fin n1 m1 e1, .fin n2 m2 e2 =>
    let e := if e1 ≤ e2 then e1 else e2
    FVal.at e (.fin n1 m1 e1) < FVal.at e (.fin n2 m2 e2)

/-- The same number (−0 equals +0); NaN equals nothing. -/
def FVal.same (a b : FVal) : Bool := !a.isNan && !b.isNan && !a.lt b && !b.lt a

/-- The value an element takes under an E8M0 scale `x` (R22 to R24). -/
def scaled (x : Nat) (v : FVal) : FVal := if x = 0xFF then .nan else v.scale ((x : Int) - 127)

/-! The exact group sum. -/

/-- The term (a × b) / 2^L of R33, an exact integer for operands of the two formats whose weight is `l`. -/
def groupTerm (l : Int) (a b : FVal) : Int := (FVal.mul a b).at l

/-- S of R33 and R35 for one group: operand values before scaling, weight exponent `l`, scale encodings. -/
def groupSum (l : Int) (a b : List FVal) (xa xb : Nat) : FVal :=
  let ps := List.zipWith FVal.mul a b
  if a.any FVal.isNan || b.any FVal.isNan || xa = 0xFF || xb = 0xFF || ps.any FVal.isNan then .nan
  else
    let pos := ps.any (· == .inf false)
    let neg := ps.any (· == .inf true)
    if pos && neg then .nan
    else if pos then .inf false
    else if neg then .inf true
    else
      .ofInt ((List.zipWith (groupTerm l) a b).foldl (· + ·) 0) (l + xa + xb - 254)

/-- `acc + S` rounded once (R33, R35, R36): a group whose S is exactly zero leaves the accumulator's value as it is, a NaN in
its canonical form (R20). INVALID counts a NaN that neither `acc` nor `s` was (R127). -/
def accumulate (acc : Word) (s : FVal) : Word × FpEvents :=
  if s.isZero then (if (f32 acc).isNan then 0x7FC00000 else acc, FpEvents.none)
  else
    let v := (f32 acc).add s
    let r := Fmt.encode .fp32 .rne false v
    let bad := v.isNan && !(f32 acc).isNan && !s.isNan
    (BitVec.ofNat 32 r.1, ⟨if bad then 1 else 0, r.2.overflow, 0⟩)

/-- L of R34. -/
def groupWeight (fa fb : Fmt) : Int := fa.minExp + fb.minExp

/-- Pairings of R32. -/
def pairable (fa fb : Fmt) : Bool :=
  match fa, fb with
  | .bf16, .bf16 | .fp16, .fp16 | .int8, .int8 => true
  | .e5m2, g | .e4m3, g | .e3m2, g | .e2m3, g | .e2m1, g =>
    g == .e5m2 || g == .e4m3 || g == .e3m2 || g == .e2m3 || g == .e2m1
  | _, _ => false

/-! MX blocks. -/

/-- The largest magnitude of a list of values. -/
def amax (vs : List FVal) : FVal :=
  vs.foldl (fun m v => if m.lt v.abs then v.abs else m) FVal.zero

/-- ⌊log2 v⌋ of a nonzero finite magnitude. -/
def floorLog2 : FVal → Int
  | .fin _ m e => (Nat.log2 m : Int) + e
  | _ => 0

/-- X of R30 for a block of values, in the low 8 bits. Bit 8 is set where every value is zero: its elements are +0. -/
def mxScale (f : Fmt) (vs : List FVal) : Nat :=
  if vs.any fun v => v.isNan || v.isInf then 0xFF
  else
    let m := amax vs
    if m.isZero then 0x17F
    else
      let e := floorLog2 m - f.emax
      let e := if e < -127 then -127 else if 127 < e then 127 else e
      (e + 127).toNat

/-- The encoding of one element of a block for which `mxScale` gave `x` (R30): always saturating; 0 in a block that reads as
NaN and in a block of zeros, whose −0 becomes +0. -/
def mxElem (f : Fmt) (x : Nat) (r : Rnd) (v : FVal) : Nat × FpEvents :=
  if x = 0xFF ∨ 0x100 ≤ x then (0, FpEvents.none)
  else f.encode r true (v.scale (127 - (x : Int)))

/-! Stochastic rounding: the hash of R44. -/

def srMA : Word := 0x7A3C5E2D
def srMB : Word := 0x5B1D64C3
def srMC : Word := 0x3C6EF1A7
def srK0 : Word := 0x6C8E9CF5

def srMix1 (x : Word) : Word :=
  let x := x ^^^ (x >>> 16)
  let x := x * srMA
  x ^^^ (x >>> 15)

def srMix2 (x : Word) : Word :=
  let x := x ^^^ (x >>> 16)
  let x := x * srMB
  let x := x ^^^ (x >>> 15)
  let x := x * srMC
  x ^^^ (x >>> 16)

/-- s of R44: the seed of a tensor, a step and a span of 2^32 indices. -/
def srSeed (key : BitVec 64) (step tid : Word) (hi : BitVec 8) : Word :=
  let s1 := srMix1 (key.truncate 32 ^^^ step ^^^ srK0)
  srMix1 (s1 ^^^ (key.extractLsb' 32 32) ^^^ tid ^^^ (hi.zeroExtend 32 <<< 24))

/-- r of R44 for element index `idx` (R43, 40 bits). -/
def srHash (key : BitVec 64) (step tid : Word) (idx : Nat) : Nat :=
  (srMix2 (srSeed key step tid (BitVec.ofNat 8 (idx / 2 ^ 32)) ^^^ BitVec.ofNat 32 idx)).toNat

end Sys2Proof.Machine
end

