-- ==== Sys2Proof/Machine/Cause.lean ====
section
/-! DEFINITION. The Causeway number format: anchors, grid integers, flag words and the final rounding (R319 to R323). -/

namespace Sys2Proof.Machine

/-- The anchor byte one element asks for (R319); the anchor of a block is the largest over its elements. -/
def anchorOf : FVal → Nat
  | .nan => 0xFF
  | .inf _ => 0xFF
  | .fin _ m e =>
    if m = 0 then 0
    else
      let l : Int := Nat.log2 m + e
      if 128 ≤ l then 0xFF else (max 1 (min 254 (l + 127))).toNat

/-- Anchor of a list of elements. -/
def anchorAll (vs : List FVal) : Nat := vs.foldl (fun a v => max a (anchorOf v)) 0

/-- F of R320: 48 for C64, 32 for C48. -/
def cwF (c48 : Bool) : Nat := if c48 then 32 else 48

/-- `m × 2^e` rounded to an integer, ties to even. -/
def rneInt (m : Nat) (e : Int) : Nat :=
  if 0 ≤ e then m * 2 ^ e.toNat
  else
    let d := 2 ^ (-e).toNat
    let q := m / d
    let r := m % d
    if 2 * r < d ∨ (2 * r = d ∧ q % 2 = 0) then q else q + 1

/-- The grid integer of a finite contribution in a block of anchor `a` (R320). -/
def cwInt (c48 : Bool) (a : Nat) : FVal → Int
  | .fin n m e =>
    let q : Int := rneInt m (e + (cwF c48 - 1 : Nat) - ((a : Int) - 126))
    if n then -q else q
  | _ => 0

/-- The flag word of a contribution in a block of anchor 0xFF (R323). -/
def cwFlag : FVal → Nat
  | .nan => 1
  | .inf n => if n then 4 else 2
  | .fin n m e =>
    let l : Int := Nat.log2 m + e
    if m ≠ 0 ∧ 128 ≤ l then (if n then 4 else 2) else 0

/-- What one contribution adds to a partial in a block of anchor `a`: a grid integer, or its flags. -/
def cwWord (c48 : Bool) (a : Nat) (v : FVal) : Int :=
  if a = 0xFF then (cwFlag v : Int) else if a = 0 then 0 else cwInt c48 a v

/-- Combine two partials of a block (R321, R323). -/
def cwJoin (a : Nat) (x y : Int) : Int := if a = 0xFF then ((x.toNat ||| y.toNat : Nat) : Int) else x + y

/-- The value of a block element's final partial (R322, R323). -/
def cwValue (c48 : Bool) (a : Nat) (s : Int) : FVal :=
  if a = 0 then FVal.zero
  else if a = 0xFF then
    let f := s.toNat % 8
    if f = 2 then .inf false else if f = 4 then .inf true else .nan
  else if s = 0 then FVal.zero
  else .fin (s < 0) s.natAbs ((a : Int) - 126 - (cwF c48 : Int) + 1)

/-- The encoding written for a block element: SR does not act on the results of R323. -/
def cwResult (c48 : Bool) (a : Nat) (s : Int) (f : Fmt) (r : Rnd) (sat : Bool) : Nat × FpEvents :=
  f.encode (if a = 0xFF then .rne else r) sat (cwValue c48 a s)

end Sys2Proof.Machine
end

