-- ==== Sys2Proof/Config.lean ====
section
/-! DEFINITION. What the spec leaves open: free values, drawn at a counter or applied to operands. They have no body, so
no proof can lean on a value. -/

namespace Sys2Proof.Config

/-- A byte the spec leaves open, drawn at a counter (log entry 5). -/
opaque freeByte : Nat → Byte

/-- A word the spec leaves open, drawn at a counter (log entry 5). -/
opaque freeWord : Nat → Word

/-- Byte `j` of a weight group beyond the end of its stream's extent: the spec names no value, and it is one value in every
execution (R9, R108; log entry 5). -/
opaque weightPad : Nat → Byte

/-- A plain FP8 moment of a Sluice job that overflows saturates: R338 gives SAT no say in it (R28, R345; log entry 42). -/
opaque plainMomentSat : Bool

/-- Properties of a coded video stream that the table of R221 names, and any other (`other`). -/
inductive VideoTool where
  | simpleProfile | mainProfile | framePicture | fieldPicture | frameDct | fieldDct | profile422 | iso11172
  | constrainedBaseline | high | paff | mbaff | cavlc | cabac | extended | fmo | aso | high10 | svc | mvc
  | main10 | tiles | wavefronts | sao | rangeExtensions | scc | scalable | multiview
  | filmGrain | largeScaleTile | chroma420 | chroma422 | chroma444 | monochrome | other
  deriving DecidableEq, Repr, Inhabited

/-- A coding unit of a picture: left, top, width and height in luma samples. -/
structure CodingUnit where
  x : Nat
  y : Nat
  w : Nat
  h : Nat
  deriving DecidableEq, Repr, Inhabited

/-- A slice or a tile group: its first byte in the elementary stream and its bytes, an error that parsing it detects (R226),
the coded pictures that it predicts from, in decoding order, and its coding units. One that is absent from its picture has no
bytes and an error. -/
structure VideoSlice where
  start : Nat
  bytes : Nat
  bad   : Bool
  refs  : List Nat
  units : List CodingUnit
  deriving DecidableEq, Repr, Inhabited

/-- A coded picture, a frame or one field, as its headers describe it. -/
structure CodedPicture where
  /-- First byte of its headers and of the parameter sets it activates, their bytes, and an error in them; bytes of the
  whole coded picture; decoding time in units of 1/90,000 s. -/
  start    : Nat
  bytes    : Nat
  bad      : Bool
  size     : Nat
  time     : Nat
  /-- Intra picture; B picture; a sequence header comes with it; IDR picture, IRAP picture or key frame; with a recovery
  point SEI, the coded pictures from this one to the recovery point. -/
  intra    : Bool
  bidir    : Bool
  seqHead  : Bool
  rap      : Bool
  recover  : Option Nat
  /-- RASL picture, of the IRAP picture of this number. -/
  rasl     : Option Nat
  /-- Place in display order; the standard outputs it; it is a reference. -/
  order    : Nat
  shown    : Bool
  isRef    : Bool
  /-- A field picture: the top field; the second field of the frame that the coded picture before it opened. -/
  field    : Option Bool
  second   : Bool
  topFirst : Bool
  /-- Luma extents of the frame, bit depth, what it uses of R221, reference pictures held, picture slots needed,
  matrix_coefficients and full-range flag where the stream gives them. -/
  w        : Nat
  h        : Nat
  depth    : Nat
  tools    : List VideoTool
  held     : Nat
  slots    : Nat
  matrix   : Option Nat
  full     : Option Bool
  slices   : List VideoSlice
  /-- All coding units of the picture. -/
  units    : List CodingUnit
  deriving DecidableEq, Repr, Inhabited

/-- Decoded samples, rows from the top: luma, Cb, Cr. -/
structure Planes where
  y  : List Nat
  cb : List Nat
  cr : List Nat
  deriving DecidableEq, Repr, Inhabited

/-- The syntax of ISO/IEC 13818-2, ITU-T H.264, ITU-T H.265 and AV1: the coded pictures of an elementary stream in decoding
order, a function of the codec and of the bytes. The spec names these standards and does not state them (log entry 43). -/
opaque videoPictures : Nat → List Byte → List CodedPicture

/-- Their decoding processes, the IDCT of ISO/IEC 23002-1 among them: the samples of a coded picture, a function of the codec,
of the bytes, of its number and of the decoded coded pictures before it (log entry 43). -/
opaque videoSamples : Nat → List Byte → Nat → List (Option Planes) → Planes

/-- What stands before the DIK certificate in certificate slot 0 (R445): the framing of DSP0274 with the certificates of the
vendor root and the provisioning authority. The spec states neither (log entry 48). The operands are the two certificates
that follow. -/
opaque chainHead : List Byte → List Byte → List Byte

/-- The AK certificate that the hub firmware issues (R444), of the DIK's private key and the AK's public key. -/
opaque akCert : Nat → List Byte → List Byte

/-- The message digest that an SPDM signature covers, a function of the transport, the request and the answer (DSP0274; log
entry 48). -/
opaque spdmDigest : Bool → List Byte → List Byte → Nat

end Sys2Proof.Config
end

