-- ==== Sys2Proof/Machine/Sparse.lean ====
section
/-! DEFINITION. Sparse arrays: lists of (index, value) pairs in one canonical form, indices strictly rising and no entry
equal to what an unlisted index reads as. Every array of the machine's state is one of these. -/

namespace Sys2Proof.Machine

/-- A sparse array; the default of an unlisted index is given where it is read. -/
abbrev Sparse (α : Type) := List (Nat × α)

variable {α : Type}

/-- The value at index `k`; an unlisted index reads as `d k`. -/
def sget (d : Nat → α) : Sparse α → Nat → α
  | [], k => d k
  | e :: r, k => if e.1 = k then e.2 else sget d r k

/-- `l` without its entries at index `k`. -/
def sdrop : Sparse α → Nat → Sparse α
  | [], _ => []
  | e :: r, k => if e.1 = k then sdrop r k else e :: sdrop r k

/-- Put `(k, v)` before the first entry of a greater index. -/
def sins (k : Nat) (v : α) : Sparse α → Sparse α
  | [] => [(k, v)]
  | e :: r => if k < e.1 then (k, v) :: e :: r else e :: sins k v r

/-- Write `v` at index `k`, keeping the canonical form. -/
def sset [DecidableEq α] (d : Nat → α) (l : Sparse α) (k : Nat) (v : α) : Sparse α :=
  if v = d k then sdrop l k else sins k v (sdrop l k)

/-- Write every pair of `us` in order. -/
def ssetMany [DecidableEq α] (d : Nat → α) (l : Sparse α) (us : List (Nat × α)) : Sparse α :=
  us.foldl (fun l u => sset d l u.1 u.2) l

/-- Every index of `l` lies above `k`. -/
def sabove (k : Nat) : Sparse α → Bool
  | [] => true
  | e :: r => k < e.1 && sabove k r

/-- The canonical form: indices strictly rising, no entry equal to its default. -/
def swf [DecidableEq α] (d : Nat → α) : Sparse α → Bool
  | [] => true
  | e :: r => sabove e.1 r && (e.2 != d e.1) && swf d r

end Sys2Proof.Machine
end

