-- ==== Sys2Proof/Syntax.lean ====
section
/-! DEFINITION. The commands of the block: one constructor of `Instr` for each row of spec/opcode_table.json, and the
types of their operands. A value that a step takes from outside the module (a reading, a crossing, a datagram, a host
line, a hardware error) is an operand of that step's command. -/

namespace Sys2Proof

/-- A hardware error that the environment injects into the step that meets it (R54, R104, R138, R169, R176, R182, R243). -/
inductive HwErr where
  /-- No error. -/
  | none
  /-- A pool parity error: the core whose pool it is, the physical bank, row and byte (R54). -/
  | poolParity (core : CoreId) (pbank row byte : Nat)
  /-- ME errors of one ACLK (R104): KIND of R106, the group, and the logical row and column of each cell that reports. A
  group not below KG stands for the drain. -/
  | me (kind group : Nat) (cells : List (Nat × Nat))
  /-- VE errors of one ACLK (R138): KIND of R139, and the tile, row and byte of each. -/
  | ve (kind : Nat) (places : List (Nat × Nat × Nat))
  /-- A parity error in a layout engine's buffer (R169), with the position concerned. -/
  | layout (pos : Nat)
  /-- An SST parity error, of a data byte in a line of the block or of the side word (R176). -/
  | sst (line : Fin 64) (side : Bool)
  /-- An uncorrectable LPDDR5X error, on the link or on the device (R182). -/
  | lpUncorrectable (onDie : Bool)
  /-- A corrected LPDDR5X error, on the link or on the device (R182). -/
  | lpCorrected (onDie : Bool)
  /-- A parity error in another unit (R243, R350, R419, R479). -/
  | unit
  deriving DecidableEq, Repr

/-- An engine that runs its own instruction stream (R245). -/
inductive EngineId where
  /-- ME, MVP, VE or stream unit (0 to 3) of a core. -/
  | core (c : CoreId) (e : Fin 4)
  /-- Stepstone, P0, P1 or Silt (0 to 3) of a cluster. -/
  | clu (c : ClusterId) (e : Fin 4)
  deriving DecidableEq, Repr

/-- A unit that soundings or the self-test examine (R395, R402). -/
inductive SoundUnit where
  | core (c : ClusterId) (phys : PhysCore)
  | reedbed (d : DieId) (phys : Fin 5)
  | sstSpare (d : DieId) (sram : SramId) (spare : SpareId)
  | poolSpare (c : CoreId) (spare : SpareId)
  /-- A unit without a spare: Stepstone, Punt, Silt, hash engine, Swing, Sluice. -/
  | plain (d : DieId) (num : Nat)
  /-- The spare lane of a Ferry port. -/
  | lane (p : PortId)
  deriving DecidableEq, Repr

/-- A host signal line as the module reads it (R289). -/
structure HostLine where
  stotal  : Word
  atotal  : BitVec 16
  waitv   : Word
  wseq    : BitVec 16
  vec     : BitVec 11
  timeout : BitVec 20
  deriving DecidableEq, Repr

/-- A Ferry crossing (R295), less its CRC, which its layout in bytes forms. `sym` is no part of it: the symbol errors that the
receiver has met in its codewords, by physical lane (R293); one that is sent has none. -/
structure Crossing where
  vc      : BitVec 3
  kind    : BitVec 4
  last    : Bool
  dst     : BitVec 12
  src     : BitVec 12
  seq     : BitVec 12
  xid     : BitVec 12
  fill    : BitVec 2
  payload : List Byte
  sym     : List Nat
  deriving DecidableEq, Repr

/-- A logical lane of a Ferry port (R293). -/
abbrev Lane := Fin 8

/-- Why a received crossing is discarded (R297). -/
inductive DiscardWhy where
  /-- An uncorrectable codeword, with the symbol errors on each physical lane (R293). -/
  | fec (sym : List Nat)
  /-- The 268 bytes as received, and the symbols corrected in them: their CRC fails, their KIND is reserved, or their SEQ is
  not the one expected. -/
  | bytes (raw : List Byte) (sym : List Nat)
  deriving DecidableEq, Repr

/-- The target of a firmware update (R452 FWU_TARGET). -/
inductive FwTarget where
  | hub | die | cert
  deriving DecidableEq, Repr

/-- A transport of SPDM requests (R445). -/
inductive Transport where
  | doe | smbus
  deriving DecidableEq, Repr

/-- The readings a throttle evaluation takes (R459): watts, units of 10 mV, units of 10 mA, °C. -/
structure PowerReport where
  power : Nat
  vin   : Nat
  iin   : Nat
  tj    : Nat
  deriving DecidableEq, Repr

/-- The energy each die's regulators report for 100 µs, in microjoules (R432). -/
structure EnergyReport where
  die0 : Nat
  die1 : Nat
  die2 : Nat
  die3 : Nat
  hub  : Nat
  deriving DecidableEq, Repr

/-- The mode a CXL link trained to (R414, R433). -/
structure LinkMode where
  rate    : BitVec 3
  flit256 : Bool
  width   : BitVec 5
  deriving DecidableEq, Repr

/-- What the shutdown self-test finds if it runs to its end (R405, R407): units and banks that fail, in order; units and
banks tested; LPDDR5X rows repaired; pages marked for retirement; whether a failing row finds no repair resource; test
time in units of 1,024 SCLK. -/
structure TestReport where
  fails    : List SoundUnit
  tested   : Nat
  rows     : Nat
  marked   : Nat
  pprFull  : Bool
  duration : Nat
  deriving DecidableEq, Repr

/-- The commands: one constructor per row of the table, in the table's order. -/
inductive Instr where
  /-- MMA (R88): An ME MMA instruction fires and streams its operand groups through the array into an accumulator set,
  draining the set if DRN is 1. -/
  | mma (core : CoreId) (hw : HwErr)
  /-- DRAIN (R89): An ME DRAIN instruction fires and writes an accumulator set through its store descriptor. -/
  | drain (core : CoreId) (hw : HwErr)
  /-- VLOAD (R109): An MVP VLOAD fills the vector buffer from the pool. -/
  | vload (core : CoreId) (hw : HwErr)
  /-- PASS (R107): An MVP PASS streams weight columns and writes FP32 results for up to four vectors. -/
  | pass (core : CoreId) (hw : HwErr)
  /-- VE_LD (R130): A VE LD decodes a tile from the pool or module memory into a tile register. -/
  | veLd (core : CoreId) (hw : HwErr)
  /-- VE_ST (R131): A VE ST encodes a tile register through a store descriptor. -/
  | veSt (core : CoreId) (hw : HwErr)
  /-- EW_ADD (R124): VE elementwise A + B. -/
  | ewAdd (core : CoreId) (hw : HwErr)
  /-- EW_SUB (R124): VE elementwise A − B. -/
  | ewSub (core : CoreId) (hw : HwErr)
  /-- EW_MUL (R124): VE elementwise A × B. -/
  | ewMul (core : CoreId) (hw : HwErr)
  /-- EW_FMA (R124): VE elementwise A × B + C with one rounding. -/
  | ewFma (core : CoreId) (hw : HwErr)
  /-- EW_MAX (R124): VE elementwise larger of A and B. -/
  | ewMax (core : CoreId) (hw : HwErr)
  /-- EW_MIN (R124): VE elementwise smaller of A and B. -/
  | ewMin (core : CoreId) (hw : HwErr)
  /-- EW_ABS (R124): VE elementwise |A|. -/
  | ewAbs (core : CoreId) (hw : HwErr)
  /-- EW_NEG (R124): VE elementwise −A. -/
  | ewNeg (core : CoreId) (hw : HwErr)
  /-- EW_MOV (R124): VE elementwise copy of A. -/
  | ewMov (core : CoreId) (hw : HwErr)
  /-- EXP2 (R126): VE correctly rounded 2^A. -/
  | vExp2 (core : CoreId) (hw : HwErr)
  /-- LOG2 (R126): VE correctly rounded log2 A. -/
  | vLog2 (core : CoreId) (hw : HwErr)
  /-- RCP (R126): VE correctly rounded 1/A. -/
  | vRcp (core : CoreId) (hw : HwErr)
  /-- RSQRT (R126): VE correctly rounded 1/√A. -/
  | vRsqrt (core : CoreId) (hw : HwErr)
  /-- SQRT (R126): VE correctly rounded √A. -/
  | vSqrt (core : CoreId) (hw : HwErr)
  /-- RED_SUM (R128): VE fixed-tree sum reduction along an axis. -/
  | redSum (core : CoreId) (hw : HwErr)
  /-- RED_MAX (R128): VE fixed-tree maximum reduction along an axis. -/
  | redMax (core : CoreId) (hw : HwErr)
  /-- RED_MIN (R128): VE fixed-tree minimum reduction along an axis. -/
  | redMin (core : CoreId) (hw : HwErr)
  /-- CMP_LT (R125): VE compare A < B giving 1.0 or +0. -/
  | cmpLt (core : CoreId) (hw : HwErr)
  /-- CMP_LE (R125): VE compare A ≤ B giving 1.0 or +0. -/
  | cmpLe (core : CoreId) (hw : HwErr)
  /-- CMP_EQ (R125): VE compare A = B giving 1.0 or +0. -/
  | cmpEq (core : CoreId) (hw : HwErr)
  /-- CMP_NE (R125): VE compare A ≠ B giving 1.0 or +0. -/
  | cmpNe (core : CoreId) (hw : HwErr)
  /-- SEL (R125): VE select of B where A is nonzero, else C. -/
  | sel (core : CoreId) (hw : HwErr)
  /-- ARM (R187): A stream-unit ARM reads a stream descriptor, arms the stream and its watch comparators and clears the
  ring. -/
  | arm (core : CoreId) (hw : HwErr)
  /-- DISARM (R193): A stream-unit DISARM stops issuing, waits for requests in flight, clears the ring and frees
  comparators. -/
  | disarm (core : CoreId)
  /-- PERMUTE (R149): A Stepstone PERMUTE copies a tensor tile by tile into permuted order. -/
  | permute (clu : ClusterId) (hw : HwErr)
  /-- STEPSTONE_TILE (R150): After the previous tile's writes complete, Stepstone starts the read phase of the next tile. -/
  | stepstoneTile (clu : ClusterId) (hw : HwErr)
  /-- NARROW (R153): A Stepstone NARROW copies elements one at a time for DZ3 compatibility. -/
  | narrow (clu : ClusterId) (hw : HwErr)
  /-- GATHER (R158): A Punt GATHER writes destination slices from indexed source slices. -/
  | gather (clu : ClusterId) (eng : PuntId) (hw : HwErr)
  /-- SCATTER (R158): A Punt SCATTER writes indexed destination slices from source slices. -/
  | scatter (clu : ClusterId) (eng : PuntId) (hw : HwErr)
  /-- SILT_OPEN (R164): A Silt OPEN starts a session, clearing accumulators and optionally anchoring the destination. -/
  | siltOpen (clu : ClusterId) (hw : HwErr)
  /-- SILT_ANCHOR_OP (R164): A Silt ANCHOR folds contribution magnitudes into block anchors. -/
  | siltAnchorOp (clu : ClusterId) (hw : HwErr)
  /-- SILT_ADD (R164): A Silt ADD rounds contributions to the anchor grid and adds them to element accumulators. -/
  | siltAdd (clu : ClusterId) (hw : HwErr)
  /-- SILT_CLOSE (R164): A Silt CLOSE rounds every accumulator once and writes the destination. -/
  | siltClose (clu : ClusterId) (hw : HwErr)
  /-- INSTRUCTION_FETCH (R252): The die's instruction fetch path refills engine input queues from the SST in round-robin
  order. -/
  | instructionFetch (die : DieId) (hw : HwErr := .none)
  /-- FENCE (R64): Once an instruction's writes are accepted, its fence sets valid bits, posts tokens and retires the
  instruction. -/
  | fence (eng : EngineId)
  /-- PREFETCH_REQUEST (R191): The stream unit issues the next S0 prefetch request of the lowest-numbered armed stream
  that has room. -/
  | prefetchRequest (core : CoreId)
  /-- SLOT (R253): Each 4-NCLK slot of the time wheel moves the OUT and IN transfers that the slot tables reserve. -/
  | slot
  /-- REQUEST_COMPLETE (R68): A memory request completes when its read data is written or its write acknowledged,
  verifying check values and setting ring valid bits. -/
  | requestComplete (core : CoreId) (cls : ClassId) (hw : HwErr)
  /-- STEP_ABANDONED (R400): In the SCLK after a fault the polder's engines stop, RUN clears and STATE becomes 2. -/
  | stepAbandoned (pol : PolderId)
  /-- STEP_BOUNDARY (R251): When every engine has retired and nothing is outstanding, the step number advances, commits
  apply, substitution and the Staithe cut start. -/
  | stepBoundary (pol : PolderId)
  /-- STEP_START (R251): After the cut, streams are disarmed and engines restart on the next wheel-turn boundary,
  latching the gate table. -/
  | stepStart (pol : PolderId)
  /-- REFRESH_REQUEST (R199): The refresh timer expires and requests a module hold. -/
  | refreshRequest
  /-- HOLD_START (R264): Eight SCLK after a hold request, every unit and wheel stops. -/
  | holdStart
  /-- REFRESH_COMPLETE (R264): The refresh reports completion 278 SCLK after its hold began. -/
  | refreshComplete
  /-- HOLD_END (R264): Four SCLK after the cause completes, every unit resumes and held completions take effect. -/
  | holdEnd
  /-- MOVE_COMPLETE (R391): A Withy or pool-bank move finishes copying state to its new physical unit. -/
  | moveComplete (core : CoreId) (errs : List Nat)
  /-- COW_COPY_DONE (R371): The copy-on-write hold has copied every stalled granule and reports completion. -/
  | cowCopyDone (hw : HwErr := .none)
  /-- SIGNAL_GATE_FIRE (R279): A signal gate consumes its token and sends a local or remote signal. -/
  | signalGateFire (core : CoreId)
  /-- WAIT_GATE_FIRE (R279): A wait gate consumes its token and sends a registration to its landing. -/
  | waitGateFire (core : CoreId)
  /-- SIGNAL (R274): The landing unit applies a signal, advancing COUNT and GEN and scanning the wait list. -/
  | signal
  /-- REGISTRATION (R275): The landing unit enters a waiter into its slot and scans the wait list. -/
  | registration
  /-- RELEASE_POST (R282): Twelve SCLK after a release, the gate posts its RTOK token. -/
  | releasePost
  /-- LANDING_TIMEOUT (R284): A wait outlasts its timeout, leaves its slot and faults or records. -/
  | landingTimeout (n : LandingId) (slot : SlotId)
  /-- HOST_SNOOP (R426): A host write snoops a cached host signal line away from the module. -/
  | hostSnoop (n : HostLandingId)
  /-- HOST_SIGNAL_LINE_READ (R289): The module re-reads a host signal line and applies the new signals, advances and
  host wait. -/
  | hostSignalLineRead (n : HostLandingId) (line : HostLine)
  /-- CROSSING_TIME (R301): At each crossing time the protocol engine sends a control, TC0, sliced or idle crossing. -/
  | crossingTime (port : PortId)
  /-- CONTROL (R298): A received control crossing returns acknowledgements, NAK and credits. -/
  | control (port : PortId) (x : Crossing)
  /-- HEAD (R316): A received HEAD opens a PUT or collective stream, checked against windows or the collective identity. -/
  | head (port : PortId) (x : Crossing)
  /-- DATA (R316): A received DATA crossing is written at the target or forwarded. -/
  | data (port : PortId) (x : Crossing)
  /-- REMOTE_SIGNAL (R316): A received SIGNAL crossing is accepted for an open landing or refused. -/
  | remoteSignal (port : PortId) (x : Crossing)
  /-- ENDACK (R317): An ENDACK completes a PUT, signalling LDONE and the remote signal. -/
  | endack (port : PortId) (x : Crossing)
  /-- REFUSE (R316): A REFUSE makes the source raise OUT_OF_WINDOW with the refused address. -/
  | refuse (port : PortId) (x : Crossing)
  /-- CW_EXP (R325): A received anchor crossing joins the exponent phase of a collective. -/
  | cwExp (port : PortId) (x : Crossing)
  /-- CW_DATA (R326): A received Causeway partial is added to and forwarded, or kept and rounded by the owner. -/
  | cwData (port : PortId) (x : Crossing)
  /-- BARRIER_CROSSING (R331): A received BARRIER arrival is combined and flooded along its line. -/
  | barrierCrossing (port : PortId) (x : Crossing)
  /-- FREEZE_CROSSING (R467): A received FREEZE of a new generation is flooded and requests a freeze. -/
  | freezeCrossing (port : PortId) (x : Crossing)
  /-- THAW_CROSSING (R469): A received THAW is flooded and schedules the divider restart. -/
  | thawCrossing (port : PortId) (x : Crossing)
  /-- ACK_TIMER (R303): The oldest unacknowledged crossing goes 1.6 µs without acknowledgement and a retry starts. -/
  | ackTimer (port : PortId)
  /-- LANE_SWAP (R304): After the third failed retry the named lane moves onto the spare and retransmission restarts. -/
  | laneSwap (port : PortId) (lane : Option Lane)
  /-- LINK_SILENCE (R305): A port that receives no valid crossing for 1.6 µs is declared down. -/
  | linkSilence (port : PortId)
  /-- PUT (R315): A work queue PUT reads local lines and sends them to a module. -/
  | put (q : QueueId)
  /-- ALLREDUCE (R327): A work queue runs the exponent phase, reduce-scatter and all-gather. -/
  | allreduce (q : QueueId)
  /-- REDUCE_SCATTER (R326): A work queue runs a ring reduce-scatter in Causeway format. -/
  | reduceScatter (q : QueueId)
  /-- ALLGATHER (R327): A work queue passes owners' shards round the rings. -/
  | allgather (q : QueueId)
  /-- RESHARD (R332): A work queue permutes a sharded tensor by its shard map. -/
  | reshard (q : QueueId)
  /-- BARRIER (R331): A work queue starts a pod-wide barrier. -/
  | barrier (q : QueueId)
  /-- FERRY_TIMEOUT (R317): A PUT goes E2E_TO without ENDACK or REFUSE and faults. -/
  | ferryTimeout (q : QueueId) (slot : XidSlot)
  /-- ADAMW (R342): A Sluice queue runs an AdamW update job. -/
  | adamw (q : SluiceId) (hw : HwErr)
  /-- LION (R343): A Sluice queue runs a Lion update job. -/
  | lion (q : SluiceId) (hw : HwErr)
  /-- SGD (R344): A Sluice queue runs an SGD with momentum update job. -/
  | sgd (q : SluiceId) (hw : HwErr)
  /-- BATCH_DESCRIPTOR (R206): The ingest sequencer claims a batch, draws permuted samples and assigns them to channels. -/
  | batchDescriptor (hw : HwErr := .none)
  /-- WHARF_DATA (R215): A received DATA datagram is placed in its channel buffer or dropped. -/
  | wharfData (port : IngestPort) (frame : List Byte)
  /-- WHARF_FAIL (R216): A received FAIL ends the sample as MISSING. -/
  | wharfFail (port : IngestPort) (frame : List Byte)
  /-- RTO_EXPIRY (R216): A READ timer expires and the missing ranges are re-requested. -/
  | rtoExpiry (ch : ChannelId) (tag : Nat)
  /-- ENTROPY_TIME_SLICE (R222): At each 4,096-NCLK slice boundary the entropy engine passes to the next ready channel. -/
  | entropyTimeSlice (unit : ReedbedId) (hw : HwErr)
  /-- PICTURE_COMPLETE (R224): A decoded picture's output turn arrives, its decode output stream is armed and
  frame-to-patch runs. -/
  | pictureComplete (ch : ChannelId) (hw : HwErr)
  /-- PQ_POS (R242): A write of PQ_POS starts a probe evaluation of π(p). -/
  | pqPos (p : Word) (hw : HwErr := .none)
  /-- REPLAY_INJECT (R487): In replay mode a recorded host write or signal is applied once the polder reaches its step. -/
  | replayInject (pol : PolderId)
  /-- TRACE_DRAIN (R478): The trace buffer drains records to its ring. -/
  | traceDrain (hw : HwErr)
  /-- SNAPNOW (R480): A write of SNAPNOW triggers a counter snapshot. -/
  | snapnow
  /-- SNAPSHOT_LATCH (R480): Four SCLK after a trigger the selected counters are latched into a SNAPSHOT record. -/
  | snapshotLatch
  /-- GO (R492): GO starts the polder's manifest job, hashing and optionally signing. -/
  | go (pol : PolderId) (hw : HwErr)
  /-- GRANULE_COPY (R370): The Staithe engine copies the next uncopied granule and sends it to the buddy. -/
  | granuleCopy (pol : PolderId) (hw : HwErr)
  /-- RESTORE (R378): RESTORE checks and loads a shard into a polder. -/
  | restore (pol : PolderId) (hw : HwErr)
  /-- SEND (R382): SEND copies a complete shard to a pod address. -/
  | send (pol : PolderId) (hw : HwErr)
  /-- ABANDON (R382): ABANDON abandons the polder's step in progress. -/
  | abandon (pol : PolderId)
  /-- LOAD (R248): LOAD starts the loader, which checks, hashes and places a program image. -/
  | load (pol : PolderId)
  /-- SOUNDING_CYCLE (R395): A sounding cycle runs known-answer kernels on an idle unit and updates its wear state. -/
  | soundingCycle (unit : SoundUnit) (passed : Bool)
  /-- AGE_SAMPLE (R396): Every 1 ms the ageing monitor of each physical core is sampled. -/
  | ageSample (clu : ClusterId) (phys : PhysCore) (age : Byte)
  /-- SHADOW_COPY (R389): The SST shadow copier copies a bank row into its spare in an idle NCLK. -/
  | shadowCopy (die : DieId) (sram : SramId) (spare : SpareId) (hw : HwErr)
  /-- DRAIN_POLDER (R401): DRAIN takes a polder out of service at its next step boundary. -/
  | drainPolder (pol : PolderId)
  /-- ADMIT (R402): ADMIT runs admission soundings and returns a drained polder to service. -/
  | admission (pol : PolderId) (fails : List SoundUnit)
  /-- SHUTDOWN (R404): SHUTDOWN starts the shutdown self-test. -/
  | shutdown (rep : TestReport)
  /-- CANCEL (R406): CANCEL stops the self-test once the region under test is restored. -/
  | cancel
  /-- ENG_EN (R409): ENG_EN runs a self-test program in BLANK or RETURN. -/
  | engEn (v : Word)
  /-- CXL_MEM_READ (R418): A host CXL.mem read is served through the HDM window or the readout window. -/
  | cxlMemRead (off : Nat) (hw : HwErr)
  /-- CXL_MEM_WRITE (R421): A host CXL.mem write is gathered or written through the HDM window. -/
  | cxlMemWrite (off : Nat) (be : BitVec 64) (data : BitVec 512)
  /-- GATHER_FLUSH (R421): A gather buffer idle for 2 µs is written to memory. -/
  | gatherFlush (buf : GatherId)
  /-- CXL_RESET (R422): CXL Reset abandons every polder and returns program pages to STATE 0. -/
  | cxlReset
  /-- CONVENTIONAL_RESET (R422): A conventional reset of the CXL port resets the port and clears HOST_EN. -/
  | conventionalReset
  /-- FWU_START (R441): FWU_START verifies and writes a firmware image or certificate to flash. -/
  | fwuStart
  /-- PLDM_FIRMWARE_UPDATE (R441): A PLDM for Firmware Update transfer writes a firmware bank. -/
  | pldmFirmwareUpdate (tgt : FwTarget) (image : List Byte)
  /-- SVN_COMMIT (R442): SVN_COMMIT raises the anti-rollback counters and blows revoke fuses. -/
  | svnCommit
  /-- PROVISION (R443): PROVISION burns the device secret, derives the DIK and advances to PROVISIONED. -/
  | provision
  /-- LC_GO (R451): LC_GO submits a lifecycle token for checking. -/
  | lcGo
  /-- GET_VERSION (R445): SPDM GET_VERSION request. -/
  | getVersion (tr : Transport)
  /-- GET_CAPABILITIES (R445): SPDM GET_CAPABILITIES request. -/
  | getCapabilities (tr : Transport)
  /-- NEGOTIATE_ALGORITHMS (R445): SPDM NEGOTIATE_ALGORITHMS request. -/
  | negotiateAlgorithms (tr : Transport)
  /-- GET_DIGESTS (R445): SPDM GET_DIGESTS request for slot 0. -/
  | getDigests (tr : Transport)
  /-- GET_CERTIFICATE (R445): SPDM GET_CERTIFICATE request for slot 0. -/
  | getCertificate (tr : Transport) (off : Nat) (len : Nat)
  /-- CHALLENGE (R445): SPDM CHALLENGE signed with the alias key. -/
  | challenge (tr : Transport) (nonce : List Byte)
  /-- GET_MEASUREMENTS (R447): SPDM GET_MEASUREMENTS returns the measurement blocks. -/
  | getMeasurements (tr : Transport) (sign : Bool) (nonce : List Byte)
  /-- PWR_EN_ASSERT (R457): PWR_EN asserted brings up the rails in order and releases reset. -/
  | pwrEnAssert
  /-- PWR_EN_DEASSERT (R457): PWR_EN deasserted takes the rails down in reverse order. -/
  | pwrEnDeassert
  /-- UNDERVOLTAGE (R458): Input below 38.5 V for 20 µs powers the module down. -/
  | undervoltage
  /-- OVERVOLTAGE (R458): Input above 52.0 V powers the module down. -/
  | overvoltage
  /-- THERMAL_TRIP (R458): A die reaching 115 °C logs a trip and powers the module down. -/
  | thermalTrip
  /-- PLL_LOCK (R453): The root PLL first locks, starting dividers, wheels and TIMESTAMP. -/
  | pllLock
  /-- LOSS_OF_LOCK (R453): Loss of root PLL lock resets the module. -/
  | lossOfLock
  /-- BOOT (R461): After reset the boot sequence verifies firmware, trains memory and releases dies. -/
  | boot (fails : List SoundUnit)
  /-- MRST_N (R460): MRST_N low for 1 µs resets the module with rails kept. -/
  | mrstN
  /-- MODULE_RESET (R460): A write of MODULE_RESET resets the module. -/
  | moduleReset
  /-- WDOG_KICK (R471): A write of WDOG_KICK restarts the watchdog. -/
  | wdogKick
  /-- WATCHDOG_EXPIRY (R460): The hub firmware watchdog expires and resets the module. -/
  | watchdogExpiry
  /-- THROTTLE_EVAL (R459): Each millisecond the power and temperature throttle targets are re-evaluated. -/
  | throttleEval (rep : PowerReport)
  /-- THROTTLE_N (R459): THROTTLE_N asserted glides the root to THROTTLE_FLOOR. -/
  | throttleN (low : Bool)
  /-- GLIDE (R456): The root PLL glides towards its target frequency without losing lock. -/
  | glide
  /-- ENERGY_REPORT (R432): Every 100 µs regulator power reports are integrated into ENERGY. -/
  | energyReport (rep : EnergyReport)
  /-- FREEZE_N (R462): FREEZE_N low with PIN_FN 0 requests a freeze. -/
  | freezeN (low : Bool)
  /-- SYNC_EDGE (R470): A FREEZE_N edge with PIN_FN 1 latches SYNC_STAMP and triggers a counter snapshot. -/
  | syncEdge
  /-- FREEZE (R462): A write of FREEZE requests a freeze. -/
  | freeze
  /-- FREEZE_EDGE (R463): At the freeze edge every functional divider stops and the readout window opens. -/
  | freezeEdge
  /-- THAW (R469): A write of THAW floods a THAW of the current generation. -/
  | thaw
  /-- THAW_RESTART (R469): Sixteen QCLK after THAW the dividers restart in phase. -/
  | thawRestart (qclk : Nat)
  /-- SLACK_SCAN (R465): The debug-port SLACK_SCAN instruction shifts out a frozen flop chain. -/
  | slackScan (chain : BitVec 16)
  /-- CHECK (R506): A write of CHECK starts checking the commit set. -/
  | check
  /-- CHECK_DONE (R506): CHECK completes and reports the first inconsistency or none. -/
  | checkDone
  /-- APPLY (R508): A write of APPLY checks the commit set and arms it for its apply edge. -/
  | apply
  /-- APPLY_EDGE (R509): On the apply edge every dirty page copies its staged ST bits live. -/
  | applyEdge
  /-- ABORT (R510): ABORT removes an armed commit's waiter and keeps the staged images. -/
  | abort
  /-- ATIMEOUT_EXPIRY (R510): A landing-mode commit waits beyond ATIMEOUT and times out. -/
  | atimeoutExpiry
  /-- DISCARD_ALL (R510): DISCARD_ALL copies live ST fields into every staged image. -/
  | discardAll
  /-- DISCARD (R500): DISCARD copies a page's live ST fields into its staged image. -/
  | discard (page : PageId)
  /-- CLR_ALL (R500): CLR_ALL sets a page's event counters to zero. -/
  | clrAll (page : PageId)
  /-- EVSEL_CLR (R473): CLR of EVSELn sets EVCNTn to zero. -/
  | evselClr (page : PageId) (n : EvId)
  /-- PAGE_MAP_EFFECT (R180): A page-map entry write takes effect for translation 64 SCLK later. -/
  | pageMapEffect
  /-- READ_CLEAR (R499): A read of an RC field returns it and clears it. -/
  | readClear (page : BarPage) (o : PageByte)
  /-- COUNTER_LO_READ (R267): Reading a 48-bit counter's LO word latches its HI word. -/
  | counterLoRead (page : PageId) (word : WordId)
  /-- REGISTER_WRITE (R504): A write to a register with no row of its own updates live fields and staged images. -/
  | registerWrite (off : BitVec 25) (v : Word)
  /-- VIN_RISE (R458): After an undervoltage shutdown, the input rising above 39.5 V with PWR_EN still asserted restarts
  power-up. -/
  | vinRise
  /-- REFCLK_PRESENT (R457): REFCLK appearing while the rails are good releases the module reset that its absence held. -/
  | refclkPresent
  /-- TEMPERATURE_MODE_CHANGE (R199): An LPDDR5X device's temperature mode register starts or stops asking for a doubled
  refresh rate, which halves or restores the refresh interval and sets or clears HOT. -/
  | temperatureModeChange (dev : DevId) (hot : Bool)
  /-- PORT_UP (R300): A Ferry port with PORT_EN set finishes training, enters PSTATE up and loads its credit counters
  with the allocation of R299. -/
  | portUp (port : PortId)
  /-- CXL_LINK_RETURN (R422): The CXL link trains up again after a conventional reset or link-down, so mirror lines,
  phase records and MSI-X are no longer dropped. -/
  | cxlLinkReturn (link : LinkMode)
  /-- DISCARDED_CROSSING (R297): A received crossing with an uncorrectable codeword, a failed CRC, a reserved KIND or an
  unexpected SEQ is discarded, counted in BAD_CROSS and answered with a NAK. -/
  | discardedCrossing (port : PortId) (why : DiscardWhy)
  /-- FRAME_DROPPED (R211): A received Ethernet frame that fails address, tag, length, FCS, protocol, port or checksum
  filtering, or meets a full receive buffer, is dropped and counted. -/
  | frameDropped (port : IngestPort) (frame : List Byte)
  deriving DecidableEq, Repr

end Sys2Proof
end

