-- ==== Sys2Proof/Machine/BoardUnits.lean ====
section
/-! DEFINITION. The records of the module's power, clocks, fuses, flash, self-test, attestation and manifest jobs. -/

namespace Sys2Proof.Machine

/-- The fuse array (R436): LC count, the four key slots' hashes, revoke fuses, counters, device secret. -/
structure Fuses where
  lc      : Nat
  keys    : List (List Byte)
  revoked : Nat
  svnHub  : Nat
  svnDie  : Nat
  secret  : Nat
  deriving DecidableEq, Repr

/-- Fuses of a part before provisioning (log entry 6). -/
def Fuses.blank : Fuses := ⟨0, List.replicate 4 (List.replicate 32 0), 0, 0, 0, 0⟩

/-- A flash bank (R436, R441): hub image, die image, write count. -/
structure Bank where
  hub   : List Byte
  die   : List Byte
  count : Nat
  deriving DecidableEq, Repr

/-- An entry of the flash log: a self-test record of R407, or a trip entry of R458. -/
inductive LogEntry where
  | test (bytes : List Byte)
  | trip
  deriving DecidableEq, Repr

/-- The flash (R396, R407, R408, R436): banks A and B, identity certificate, repair table (wear states of cores by
9 × cluster + core and of Reedbed units by 1,000 + 5 × die + unit, spares and units marked FAILED), log, newest entry last,
and power-ons since the newest test record. -/
structure Flash where
  a      : Bank
  b      : Bank
  cert   : List Byte
  wear   : Sparse Nat
  bad    : List (Nat × Nat × Nat)
  failed : List SoundUnit
  log    : List LogEntry
  ons    : Nat
  deriving DecidableEq, Repr

/-- Flash as nothing has written it (log entry 6). -/
def Flash.blank : Flash := ⟨⟨[], [], 0⟩, ⟨[], [], 0⟩, [], [], [], [], [], 1⟩

/-- The running firmware (R439, R440, R442): hub image's BODY_DIGEST and REVOKE, BODY_DIGEST of each die's firmware, empty
for a held die, and whether an update has written die firmware since the boot. The hub image is empty while none runs. -/
structure Running where
  hub    : List Byte
  revoke : Nat
  dies   : List (List Byte)
  fresh  : Bool
  deriving DecidableEq, Repr

def Running.none : Running := ⟨[], 0, [[], [], [], []], false⟩

/-- Power (R457, R458): PWR_EN asserted, rails up, REFCLK seen, shut down by undervoltage, shut down until PWR_EN is cycled,
whether the session before ended in a thermal trip, and the LC count in force since the power-on (R450). -/
structure Power where
  en    : Bool
  rails : Bool
  ref   : Bool
  under : Bool
  cycle : Bool
  trip  : Bool
  lc    : Option Nat
  deriving DecidableEq, Repr

/-- Throttle requests (R459): codes that power and temperature ask for, THROTTLE_N asserted, and milliseconds each has been
allowed to rise. -/
structure Throttle where
  pwr   : Nat
  tmp   : Nat
  pin   : Bool
  pwrMs : Nat
  tmpMs : Nat
  deriving DecidableEq, Repr

def Throttle.none : Throttle := ⟨0, 0, false, 0, 0⟩

/-- A shutdown self-test in progress: what it will find, and SCLK since it began. -/
structure SelfTestJob where
  rep  : TestReport
  sclk : Nat
  deriving DecidableEq, Repr

/-- What the SPDM responder answers (R445), less the framing of DSP0274. -/
inductive SpdmReply where
  | version
  | capabilities
  | algorithms
  | digests (d : List Byte)
  /-- A portion of the chain, and how many bytes remain. -/
  | certificate (part : List Byte) (left : Nat)
  /-- Digest of the chain, the responder's nonce, signature. -/
  | challengeAuth (chain nonce sig : List Byte)
  /-- Measurement blocks by ascending index, nonce, signature where asked for. -/
  | measurements (blocks : List (List Byte)) (nonce sig : List Byte)
  | error
  deriving DecidableEq, Repr

/-- A manifest job in progress (R489 to R494): polder, descriptor, weight and input regions with CVM, PD, step at GO, leaf
digests so far, and whether a hardware error awaits its reads. -/
structure MfJob where
  pol  : Nat
  desc : List Byte
  ws   : List (Nat × Nat × Bool)
  is   : List (Nat × Nat × Bool)
  pd   : List Byte
  step : Nat
  wl   : List (List Byte)
  il   : List (List Byte)
  bad  : Bool
  deriving DecidableEq, Repr

end Sys2Proof.Machine
end

