-- ==== Sys2Proof/Machine/Units.lean ====
section
/-! DEFINITION. The records that State is made of: one for each unit whose state no register shows whole. -/

namespace Sys2Proof.Machine

/-- An engine's instruction stream (R112, R114, R145, R187, R246, R252). -/
structure Engine where
  /-- Input queue, at most 8 instructions, head first. -/
  queue : List (BitVec 256)
  /-- Index within the section of the queue's head. -/
  head  : Nat
  /-- SST address at which the INSTR section is held. -/
  base  : Nat
  /-- Instructions of the section; 0 without a section. -/
  len   : Nat
  deriving DecidableEq, Repr

/-- The engine of a part without an INSTR section. -/
def Engine.idle : Engine := ⟨[], 0, 0, 0⟩

/-- An instruction fired and not retired (R57, R64): its claims and its posts as (core, granule) and (core, counter). -/
structure Inflight where
  id     : Nat
  eng    : Nat
  pc     : Nat
  /-- The instruction's OPC. -/
  opc    : Nat
  claims : List (Nat × Nat)
  posts  : List (Nat × Nat)
  /-- The instruction has work left besides its outstanding requests. -/
  busy   : Bool
  /-- The instruction met a fault and does not complete. -/
  failed : Bool
  deriving DecidableEq, Repr

/-- An instruction in progress over several commands: an MMA, VLOAD or LD that waits for ring data, a PASS that waits for
weights, an LD that waits for its requests, a PERMUTE between tiles. `aPos` and `bPos` are ring read positions at its start, `desc` the store descriptor it
read when it fired, for a PASS the results that its output buffer holds (R110). -/
structure Job where
  instr : BitVec 256
  pc    : Nat
  id    : Nat
  next  : Nat
  aPos  : Nat
  bPos  : Nat
  desc  : List Byte
  /-- An MMA has still to load C_init, an LD to read its source or to issue its requests. -/
  init  : Bool
  deriving DecidableEq, Repr

/-- Where the data of a read request goes. -/
inductive ReqDest where
  /-- A write, or data that is read and discarded. -/
  | none
  /-- Data of a KIND 0 stream, from data byte `b`. -/
  | ring (stream b : Nat)
  /-- The scale unit of group `g` of a stream. -/
  | scale (stream g : Nat)
  /-- Data of a KIND 1 stream, from data byte `b`. -/
  | weights (stream b : Nat)
  /-- A read for group `g` of a Swing stream, of its scale line or of its data; the last read of the group delivers it. -/
  | swing (stream g : Nat) (scale last : Bool)
  /-- A load's staging buffer, at a pool offset. -/
  | staging (off : Nat)
  /-- The unit's command has moved the data already; `tag` numbers the piece of work it belongs to. -/
  | made (tag : Nat)
  deriving DecidableEq, Repr

/-- Why a stream request is suppressed or its granule void (R194, R286). -/
inductive Void where
  | unmapped | window | staleTag
  deriving DecidableEq, Repr

/-- Who holds the slots of a transfer (R254): the network port 0 to 10 of a die, and the owner code in its tables. -/
structure Owner where
  die  : Nat
  port : Nat
  own  : Nat
  deriving DecidableEq, Repr

/-- A memory request (R67, R68) with its progress through the slot tables (R253 to R258): of a core's class S0 to S3, or,
with class 4, of a unit that has none. -/
structure Req where
  id    : Nat
  core  : Nat
  cls   : Nat
  own   : Owner
  /-- Engine code of R502 and instruction index, for faults. -/
  eng   : Nat
  pc    : Nat
  /-- The in-flight instruction it belongs to; 0 for a stream. -/
  owner : Nat
  write : Bool
  addr  : Nat
  len   : Nat
  cvm   : Bool
  /-- Bytes to write with their enables. -/
  bytes : List (Option Byte)
  dest  : ReqDest
  void  : Option Void
  /-- OUT transfers still to take; a command has gone when it took its first. -/
  outs  : Nat
  sent  : Bool
  /-- Root-clock time at which its data or acknowledgement is ready, once sent. -/
  ready : Nat
  /-- IN transfers still to take. -/
  ins   : Nat
  /-- Transfers that have reached the hub and not yet crossed to the target's die, and those that wait there at the hub
  link's port (R258). -/
  hub   : Nat
  far   : Nat
  /-- Data read at the target, and the outcome of its check: 0 passed, 2 mismatch, 3 absent (R185, R202). -/
  data  : List Byte
  fail  : Nat
  deriving DecidableEq, Repr

/-- Every transfer of the request has been made. -/
def Req.moved (r : Req) : Bool := r.outs == 0 && r.ins == 0 && r.hub == 0 && r.far == 0

/-- A transfer in a delivery buffer (R253): the request it belongs to, the destination it passes on to (a core's pool, or
8 + core for its weight queue), and the bytes that have still to leave. -/
structure Passing where
  id   : Nat
  dest : Nat
  left : Nat
  deriving DecidableEq, Repr

/-- A stream descriptor (R188). -/
structure StreamDesc where
  kind  : Nat
  swing : Bool
  cvm   : Bool
  scl   : Bool
  fmt   : Nat
  rgn   : Nat
  rbase : Nat
  src   : Nat
  run   : Nat
  cnt1  : Nat
  str1  : Nat
  cnt2  : Nat
  str2  : Nat
  ssrc  : Nat
  sstr  : Nat
  swd   : Nat
  deriving DecidableEq, Repr

/-- A Swing descriptor (R154). -/
structure SwingDesc where
  fmt     : Nat
  mx      : Bool
  lanes   : Nat
  rowstr  : Nat
  src     : Nat
  ssrc    : Nat
  srowstr : Nat
  kg      : Nat
  deriving DecidableEq, Repr

/-- An armed stream (R187 to R195). Positions count data bytes or scale groups in the order of R189. -/
structure Stream where
  desc    : StreamDesc
  sw      : SwingDesc
  armed   : Bool
  /-- Data bytes for which a request was issued, and scale groups likewise. -/
  issued  : Nat
  sIssued : Nat
  /-- Swing reads issued within group `issued / GB`. -/
  swRow   : Nat
  /-- Data bytes arrived. -/
  arrived : Nat
  /-- Read position of the consumer, and granules released. -/
  pos     : Nat
  released : Nat
  /-- Void granules (KIND 0) or groups (KIND 1) with their first suppressed address and reason. -/
  voids   : List (Nat × Nat × Void)
  /-- Scale lines held: group, bytes, first suppressed address. -/
  scales  : List (Nat × List Byte × Option (Nat × Void))
  /-- KIND 1: bytes arrived of a group not yet whole. -/
  weights : List Byte
  /-- Swing: source bytes of the group being read, and why its scale line is void. -/
  rows    : Sparse Byte
  sVoid   : Option (Nat × Void)
  /-- Comparators taken (R195): number, first and last byte. -/
  comps   : List (Nat × Nat × Nat)
  /-- DISARMs that wait: the in-flight instructions they belong to. -/
  ending  : List Nat
  deriving DecidableEq, Repr

/-- A group in an MVP weight queue (R108): its stream, whether it is MX, its packed elements, its scale byte, and why it is
void. -/
structure WGroup where
  stream : Nat
  mx     : Bool
  elems  : List Byte
  scale  : Nat
  void   : Option (Nat × Void)
  deriving DecidableEq, Repr

def StreamDesc.zero : StreamDesc := ⟨0, false, false, false, 0, 0, 0, 0, 0, 0, 0, 0, 0, 0, 0, 0⟩
def SwingDesc.zero : SwingDesc := ⟨0, false, 0, 0, 0, 0, 0, 0⟩
def Stream.idle : Stream :=
  ⟨.zero, .zero, false, 0, 0, 0, 0, 0, 0, [], [], [], [], none, [], []⟩

/-- An allocation window (R250): the grantee is a core 0 to 255, or 256 for the ingest sequencer. -/
structure Window where
  who   : Nat
  base  : Nat
  bytes : Nat
  rd    : Bool
  wr    : Bool
  deriving DecidableEq, Repr

/-- A Silt session (R163, R164). Accumulators, counts and anchors by destination element and block. -/
structure Silt where
  open_   : Bool
  adding  : Bool
  c48     : Bool
  init    : Bool
  /-- The destination descriptor as OPEN read it. -/
  dst     : List Byte
  acc     : Sparse Int
  cnt     : Sparse Nat
  anchor  : Sparse Nat
  deriving DecidableEq, Repr

def Silt.closed : Silt := ⟨false, false, false, false, [], [], [], []⟩

/-- The common time wheel (R253): slots since the wheels started, and whether they turn. -/
structure Wheel where
  slots : Nat
  turns : Bool
  deriving DecidableEq, Repr

/-- Causes of a module hold, in the order of R263. -/
inductive HoldCause where
  | refresh | retry | cow | substitution
  deriving DecidableEq, Repr

def HoldCause.code : HoldCause → Nat
  | .refresh => 0 | .retry => 1 | .cow => 2 | .substitution => 3

/-- Module holds (R263 to R265): requests waiting, the request within its lead, the hold in force, SCLK spent in it and
whether its cause has completed. -/
structure Hold where
  waiting : List HoldCause
  lead    : Option HoldCause
  now     : Option HoldCause
  sclk    : Nat
  done    : Bool
  deriving DecidableEq, Repr

def Hold.none : Hold := ⟨[], .none, .none, 0, false⟩

/-- What a polder keeps beside its pages (R251, R268, R382, R394, R400). -/
structure Polder where
  /-- A fault has been raised, or ABANDON written, and the step is not yet abandoned. -/
  fault    : Bool
  /-- The step boundary has been reached and the engines have not restarted. -/
  boundary : Bool
  /-- RUN was set by an APPLY and the first step has not started. -/
  starting : Bool
  /-- Engines may fire: they have restarted at a turn boundary and no boundary or abandoning has followed. -/
  live     : Bool
  /-- Steps since the last rotation. -/
  rotation : Nat
  /-- The boundary's cut waits for the moves of a substitution. -/
  cutDue   : Bool
  /-- SCLK that the boundary has waited for a snapshot (R373). -/
  bwait    : Nat
  /-- TIMESTAMP at which the pending fault was raised: the engines stop in the SCLK after it (R268). -/
  since    : Nat
  /-- Engines whose instruction raised a pending fault, as register page and engine code; they stop at once. -/
  downs    : List (Nat × Nat)
  deriving DecidableEq, Repr

def Polder.idle : Polder := ⟨false, false, false, false, 0, false, 0, 0, []⟩

/-- Who waits at a landing (R275, R288). -/
inductive WaitWho where
  | gate (core g : Nat)
  | sequencer
  | commit
  | freeze
  /-- A host wait, by its WSEQ and vector. -/
  | host (wseq vec : Nat)
  | workq (q : Nat)
  | sluice (q : Nat)
  deriving DecidableEq, Repr

/-- A waiter in a wait-list slot (R275): claimer or threshold, SCLK of its timeout left; none waits for ever. -/
structure Waiter where
  who   : WaitWho
  claim : Bool
  v     : Word
  left  : Option Nat
  deriving DecidableEq, Repr

/-- A landing object (R272). `last` is the word at offset 0x08; waiters by ascending slot. -/
structure Landing where
  count   : Word
  gen     : BitVec 16
  last    : Word
  signals : Word
  waiters : List (Nat × Waiter)
  deriving DecidableEq, Repr

def Landing.reset : Landing := ⟨0, 0, 0, 0, []⟩

/-- An operation of the landing unit (R274, R275, R289). -/
inductive LandingOp where
  | signal (n inc : Nat) (adv : Bool) (last : Word)
  | register (n slot : Nat) (w : Waiter)
  deriving DecidableEq, Repr

/-- A landing operation on its way: the SCLK it reaches the unit and its place in the order of R277. -/
structure QueuedOp where
  due  : Nat
  rank : Nat
  op   : LandingOp
  deriving DecidableEq, Repr

/-- A gate entry as latched (R278). -/
structure Gate where
  kind    : Nat
  adv     : Bool
  remote  : Bool
  tok     : Nat
  rtok    : Nat
  widx    : Nat
  modid   : Nat
  landing : Nat
  inc     : Nat
  v       : Nat
  vstep   : Nat
  timeout : Nat
  deriving DecidableEq, Repr

def Gate.off : Gate := ⟨0, false, false, 0, 0, 0, 0, 0, 0, 0, 0, 0⟩

/-- What the module keeps of a host-visible landing's host lines (R289, R290, R426): whether its baseline has been taken,
cached or not, last-seen totals, and bytes 0x14 to 0x16 of the mirror line. -/
structure HostLines where
  based  : Bool
  cached : Bool
  stotal : Nat
  atotal : Nat
  wseq   : Nat
  endSeq : Nat
  endHow : Nat
  deriving DecidableEq, Repr

def HostLines.reset : HostLines := ⟨false, false, 0, 0, 0, 0, 0⟩

end Sys2Proof.Machine
end

