-- ==== Sys2Proof/Machine/HubUnits.lean ====
section
/-! DEFINITION. The records of the hub's units: Ferry ports and work queues, Towpath, snapshots, freeze and Staithe. -/

namespace Sys2Proof.Machine

/-- A Ferry port (R299 to R305). -/
structure Port where
  /-- Output queues in order of entry; a crossing's VC names its queue. -/
  out      : List Crossing
  /-- Retry buffer, oldest first (R302), and how many of it a retry has still to send. -/
  retry    : List Crossing
  resend   : Nat
  /-- Crossings of the retry in progress that are not yet acknowledged. -/
  unacked  : Nat
  credits  : List Nat
  txSeq    : Nat
  rxSeq    : Nat
  /-- Crossing times since the port came up (R294, R301). -/
  times    : Nat
  /-- An acknowledgement or credits are due; a NAK is due; a NAK has been sent and its retransmission has not arrived. -/
  ackDue   : Bool
  nakDue   : Bool
  nakSent  : Bool
  freed    : List Nat
  /-- Crossings kept in the receive buffer (R265, R300, R468). -/
  rxBuf    : List Crossing
  /-- The crossing sent last. -/
  last     : Option Crossing
  /-- Symbol errors of the receiver by physical lane since its losses began (R304). -/
  syms     : List Nat
  deriving DecidableEq, Repr

/-- Credits of R299. -/
def vcCredits : List Nat := [96, 96, 480, 480, 400, 400, 48, 48]
def Port.fresh : Port := ⟨[], [], 0, 0, vcCredits, 0, 0, 0, false, false, false, [0, 0, 0, 0, 0, 0, 0, 0], [], none, []⟩

/-- A port whose link restarts: its retry buffer and output queues are discarded, what it has received stays (R305). -/
def Port.cleared (o : Port) : Port := { Port.fresh with rxBuf := o.rxBuf }

/-- A PUT being received (R316). -/
structure RxStream where
  src     : Nat
  xid     : Nat
  base    : Nat
  lines   : Nat
  tag     : Nat
  tagen   : Bool
  dcvm    : Bool
  /-- Lines written so far and the bytes received; its last crossing has come. -/
  next    : Nat
  refused : Bool
  data    : List Byte
  ended   : Bool
  deriving DecidableEq, Repr

/-- A PUT in flight (R315, R317): its slot, its ring index, whether its last crossing has been queued, its descriptor. A PUT to
the module itself stands here while its write waits for a copy. -/
structure Put where
  slot  : Nat
  idx   : Nat
  whole : Bool
  desc  : List Byte
  deriving DecidableEq, Repr

/-- A stream of a collective (R326), or the pieces from one rank of a RESHARD: whether its HEAD has come, the blocks or
pieces received, and the bytes of the next one. -/
structure CStream where
  head  : Bool
  got   : Nat
  bytes : List Byte
  deriving DecidableEq, Repr

/-- A collective or RESHARD in flight on a queue (R324 to R332). -/
structure Coll where
  desc    : List Byte
  idx     : Nat
  cseq    : Nat
  /-- Run key and step of the claim. -/
  key     : BitVec 64
  step    : Nat
  /-- The anchors of every block are final, or none is needed. -/
  mant    : Bool
  anchors : List Nat
  /-- Exponent phase: messages received and the bytes of the next one. -/
  expGot  : Nat
  expBuf  : List Byte
  streams : List CStream
  /-- Streams on which the first messages have gone. -/
  begun   : List Nat
  /-- Blocks, or pieces, written at DST. -/
  written : Nat
  /-- Module identities in rank order. -/
  members : List Nat
  deriving DecidableEq, Repr

/-- A Ferry work queue's state beyond its registers (R313). -/
structure WorkQ where
  puts   : List Put
  sent   : Nat
  coll   : Option Coll
  /-- BARRIER in progress: ring index, descriptor, dimension reached. -/
  bar    : Option (Nat × List Byte × Nat)
  gen    : Nat
  /-- Completed descriptors that wait for earlier ones in ring order: index, transfer slot, bytes. -/
  ended  : List (Nat × Nat × List Byte)
  /-- Transfer slots whose remote signal of RSEN was sent last. -/
  told   : List Nat
  deriving DecidableEq, Repr

def WorkQ.idle : WorkQ := ⟨[], 0, none, none, 0, [], []⟩

/-- Barrier arrivals seen (R331): queue, generation, dimension, direction (true for towards higher coordinates), count. -/
structure BarSeen where
  q    : Nat
  gen  : Nat
  dim  : Nat
  plus : Bool
  n    : Nat
  deriving DecidableEq, Repr

/-- A Bapen record in the trace buffer (R479, R481). -/
structure TraceRec where
  towpath : Bool
  polder  : Nat
  bytes   : List Byte
  deriving DecidableEq, Repr

/-- Towpath of a polder (R479, R485, R486). -/
structure Towpath where
  /-- Records lost since the last admitted one, and the step of the first. -/
  lost     : Nat
  lostStep : Nat
  /-- Host records of the step so far. -/
  hostOrd  : Nat
  /-- Verify: offset of the oldest record not yet matched, and later ones that are. -/
  pos      : Nat
  used     : List Nat
  /-- Verify: remote inputs of the step. -/
  remote   : List (Nat × List Byte)
  /-- Completed ingest samples held until every earlier sample has been written: ordinal, KEY, payload. -/
  samples  : List (Nat × Nat × List Byte)
  /-- Ordinal of the next sample to be written, and of the next sample to be drawn. -/
  nextSamp : Nat
  drawn    : Nat
  deriving DecidableEq, Repr

def Towpath.idle : Towpath := ⟨0, 0, 0, 0, [], [], [], 0, 0⟩

/-- Slack freeze beside its registers (R462, R467, R469). -/
structure FreezeSt where
  /-- TIMESTAMP of the request. -/
  asked  : Option Nat
  /-- Generations thawed. -/
  thawed : List Nat
  /-- A generation has been seen: FGEN is the last. -/
  known  : Bool
  /-- The slot-13 waiter is registered. -/
  waiter : Bool
  /-- FREEZE_N is low; the pin must be high before it triggers again. -/
  pinUsed : Bool
  deriving DecidableEq, Repr

def FreezeSt.none : FreezeSt := ⟨.none, [], false, false, false⟩

/-- A Sluice job between its claim and the signal of its completion (R338 to R349): queue, ring index, comparator slot,
descriptor, run key and step of the claim, GS, next parameter block, and whether its writes are done. -/
structure SluiceJob where
  q     : Nat
  idx   : Nat
  slot  : Nat
  desc  : List Byte
  key   : BitVec 64
  step  : Nat
  gs    : Word
  next  : Nat
  ended : Bool
  /-- A block in flight: die and unit, and its elements. -/
  flight : Option (Nat × Nat × Nat)
  deriving DecidableEq, Repr

/-- A Wharf READ outstanding (R215, R216): tag, range within the sample, datagrams received, requests made of the range
so far, and the port that sent it. -/
structure Read where
  tag   : Nat
  off   : Nat
  len   : Nat
  got   : List Nat
  tries : Nat
  port  : Nat
  deriving DecidableEq, Repr

/-- A decoded picture that a channel holds: its slot and its number. -/
structure Pic where
  slot : Nat
  k    : Nat
  deriving DecidableEq, Repr

/-- A stream channel with a sample in progress (R206, R215 to R230). -/
structure Chan where
  /-- The batch's number and ring index, s, π(p), sample-table entry. -/
  no     : Nat
  batch  : Nat
  s      : Nat
  index  : Nat
  entry  : List Byte
  /-- READs outstanding, and ranges that wait to be requested: offset, bytes, requests so far. -/
  reads  : List Read
  todo   : List (Nat × Nat × Nat)
  /-- Bytes of the sample requested so far; ranges received beyond the consumed prefix; bytes consumed. -/
  asked  : Nat
  have_  : List (Nat × Nat)
  raw    : List Byte
  /-- Decoding has begun: pictures of the stream, pictures written to slots, slots held. -/
  dec    : Bool
  total  : Nat
  next   : Nat
  pics   : List Pic
  /-- Used pictures with concealment, their coding units, index of the first. -/
  cpics  : Nat
  cus    : Nat
  firstc : Nat
  /-- The sample met a fault and stands; it is over but for writes still held back. -/
  failed : Bool
  isOver : Bool
  /-- Replay has found no more of the sample's content and has said so. -/
  lacks  : Bool
  deriving DecidableEq, Repr

/-- A batch the sequencer has claimed (R204 to R209): a number of its own, ring index, descriptor, frame-to-patch descriptor, polder and run key,
number of its first sample in the polder's order of R484, samples taken by each channel, samples complete. -/
structure Batch where
  no    : Nat
  idx   : Nat
  desc  : List Byte
  pdesc : List Byte
  pol   : Nat
  key   : BitVec 64
  ord   : Nat
  taken : Sparse Nat
  ndone : Nat
  deriving DecidableEq, Repr

/-- A datagram that an ingest port transmits (R212): next-hop MAC address, VID of a tag, addresses as words, ports, UDP
checksum, DSCP, UDP payload. -/
structure NetOut where
  port    : Nat
  mac     : Nat
  vid     : Option Nat
  v6      : Bool
  src     : List Nat
  dst     : List Nat
  sport   : Nat
  dport   : Nat
  check   : Nat
  dscp    : Nat
  payload : List Byte
  deriving DecidableEq, Repr

/-- A snapshot in progress (R366 to R376). -/
structure Snap where
  area    : Nat
  step    : Nat
  /-- Body granules in shard order, with CVM. -/
  body    : List (Nat × Bool)
  /-- Granule digests by number. -/
  digests : Sparse (List Byte)
  /-- Number of the next granule to be sent to the buddy, 0 for the state record, and those not yet acknowledged. -/
  next    : Nat
  unacked : List Nat
  /-- The area is complete, its header written; the header has been sent. -/
  whole   : Bool
  header  : Bool
  active  : Bool
  deriving DecidableEq, Repr

def Snap.none : Snap := ⟨0, 0, [], [], 0, [], false, false, false⟩

/-- A SEND in progress (R382): shard and pod addresses, body granules, and its progress as that of a snapshot. -/
structure SendJob where
  src     : Nat
  dst     : Nat
  nbody   : Nat
  digests : List Byte
  next    : Nat
  unacked : List Nat
  header  : Bool
  deriving DecidableEq, Repr

def SendJob.none : SendJob := ⟨0, 0, 0, [], 0, [], false⟩

/-- Number of a shard's header among its granules. -/
def headerNo : Nat := 0xFFFFFFFF

/-- A transfer of the Staithe engine to another module (R374, R382): slot, polder, granule, whether it belongs to a SEND. -/
structure StPut where
  slot : Nat
  pol  : Nat
  g    : Nat
  send : Bool
  deriving DecidableEq, Repr

/-- A commit between its CHECK and its apply edge (R506 to R510): whether an APPLY started the check, and AMODE and
APOLDER as the check took them; `due` with AMODE 3 is ATIME. -/
structure Commit where
  apply : Bool
  mode  : Nat
  pol   : Nat
  due   : Nat
  deriving DecidableEq, Repr

/-- A move that an APPLY started (R387 to R392): logical core, outgoing and incoming physical core, the bytes it carries
with their new readout addresses, whether state is carried at all, whether it is a core move, and whether it runs under a
substitution hold. -/
structure Move where
  core  : Nat
  src   : Nat
  dst   : Nat
  data  : List (Nat × Byte)
  banks : List Nat
  carry : Bool
  whole : Bool
  held  : Bool
  deriving DecidableEq, Repr

/-- A load of a program image that waits (R387, R429, R505): its polder, whether it has placed its sections, and the words
it is to stage, with the windows it grants and the initial counts of landings. -/
structure LoadJob where
  pol     : Nat
  started : Bool
  words   : List (Nat × Nat × Word)
  windows : List Window
  counts  : List (Nat × Nat)
  deriving DecidableEq, Repr

/-- A gather buffer (R421): its number, the block it gathers, and the bytes it holds by offset, ascending. -/
structure GatherBuf where
  buf   : Nat
  block : Nat
  data  : List (Nat × Byte)
  deriving DecidableEq, Repr

end Sys2Proof.Machine
end

