-- ==== Sys2Proof/Machine/RegTable.lean ====
section
/-! DEFINITION. The register pages of R497 and every field of every page, from the register tables of the spec: its
offset, its replication, its bits, its access code of R17 and its reset value. -/

namespace Sys2Proof.Machine

/-- Access codes (R17). -/
inductive Access where
  | rw | ro | wo | w1c | rc | st | rwl
  deriving DecidableEq, Repr

/-- One register field: the offset of its first word, its replication as (stride, count) pairs, its bits, its access code
and its reset value. -/
structure FieldSpec where
  base  : Nat
  rep   : List (Nat × Nat)
  hi    : Nat
  lo    : Nat
  acc   : Access
  reset : Nat
  deriving DecidableEq, Repr

/-- The TYPE of a register page (R497). -/
inductive PageKind where
  | commit
  | holds
  | landings
  | clocks
  | slack
  | security
  | reliab
  | polders
  | selfTest
  | cxl
  | hubAcct
  | trace
  | manifest
  | routing
  | workQ
  | sluiceQ
  | wharf
  | ingest
  | dieLink
  | ferry
  | program
  | phase
  | staithe
  | acct
  | core
  | cluster
  | die
  deriving DecidableEq, Repr


/-! Fields of the common area (R500, R473, R502). -/

/-- R473 EVSEL_EVENT: Event code, from the table of R475 -/
def Reg.Common.EVSEL_EVENT : FieldSpec := ⟨0x20, [(0x4, 8)], 11, 0, .rw, 0x0⟩
/-- R473 EVSEL_EN: 1: EVCNTn counts -/
def Reg.Common.EVSEL_EN : FieldSpec := ⟨0x20, [(0x4, 8)], 16, 16, .rw, 0x0⟩
/-- R473 EVSEL_HOLDX: 1: occurrences in a cycle in which a hold is in force are not counted -/
def Reg.Common.EVSEL_HOLDX : FieldSpec := ⟨0x20, [(0x4, 8)], 17, 17, .rw, 0x0⟩
/-- R473 EVSEL_SNAP: 1: EVCNTn is included in counter snapshots -/
def Reg.Common.EVSEL_SNAP : FieldSpec := ⟨0x20, [(0x4, 8)], 18, 18, .rw, 0x0⟩
/-- R473 EVSEL_CLR: Writing 1 sets EVCNTn to zero -/
def Reg.Common.EVSEL_CLR : FieldSpec := ⟨0x20, [(0x4, 8)], 19, 19, .wo, 0x0⟩
/-- R473 EVSEL_OVF: EVCNTn has wrapped since OVF was last cleared -/
def Reg.Common.EVSEL_OVF : FieldSpec := ⟨0x20, [(0x4, 8)], 20, 20, .w1c, 0x0⟩
/-- R500 INDEX: Page index of R497 -/
def Reg.Common.INDEX : FieldSpec := ⟨0x0, [], 11, 0, .ro, 0⟩
/-- R500 TYPE: TYPE of R497 -/
def Reg.Common.TYPE : FieldSpec := ⟨0x0, [], 19, 12, .ro, 0⟩
/-- R500 DIE: 0–3 C0–C3, 4 hub -/
def Reg.Common.DIE : FieldSpec := ⟨0x0, [], 22, 20, .ro, 0⟩
/-- R500 CLU: Cluster; 0 for other pages -/
def Reg.Common.CLU : FieldSpec := ⟨0x0, [], 25, 23, .ro, 0⟩
/-- R500 INST: Logical core, port, polder or ingest port number; 0 otherwise -/
def Reg.Common.INST : FieldSpec := ⟨0x0, [], 29, 26, .ro, 0⟩
/-- R500 LAYOUT: Version of this page's layout -/
def Reg.Common.LAYOUT : FieldSpec := ⟨0x4, [], 15, 0, .ro, 0x1⟩
/-- R500 STEPPING: Silicon stepping: high nibble the letter, as 0xA for A, and low nibble the number. The DZ4-M44-A
described by this manual is stepping A0 and reads 0xA0. Another stepping reads its own value and is described by the
manual of that stepping -/
def Reg.Common.STEPPING : FieldSpec := ⟨0x4, [], 23, 16, .ro, 0xa0⟩
/-- R500 FAULT: Copy of VALID of FAULT_CAPTURE0 -/
def Reg.Common.FAULT_008 : FieldSpec := ⟨0x8, [], 0, 0, .ro, 0x0⟩
/-- R500 DIRTY: The staged image holds writes not yet applied -/
def Reg.Common.DIRTY : FieldSpec := ⟨0x8, [], 1, 1, .ro, 0x0⟩
/-- R500 CHECKFAIL: The last CHECK named this page -/
def Reg.Common.CHECKFAIL : FieldSpec := ⟨0x8, [], 2, 2, .ro, 0x0⟩
/-- R500 FROZEN: A Slack freeze is in force -/
def Reg.Common.FROZEN : FieldSpec := ⟨0x8, [], 3, 3, .ro, 0x0⟩
/-- R500 SHARED: Hub page under R498 -/
def Reg.Common.SHARED : FieldSpec := ⟨0x8, [], 4, 4, .ro, 0⟩
/-- R500 POLDER: Polder of the page; 0 when SHARED -/
def Reg.Common.POLDER : FieldSpec := ⟨0x8, [], 6, 5, .ro, 0⟩
/-- R500 DISCARD: Writing 1 copies the live ST fields into the staged image and clears DIRTY; ignored while a commit is
checking or armed, under R510 -/
def Reg.Common.DISCARD : FieldSpec := ⟨0xC, [], 0, 0, .wo, 0x0⟩
/-- R500 CLR_ALL: Writing 1 sets EVCNT0–7 to zero -/
def Reg.Common.CLR_ALL : FieldSpec := ⟨0xC, [], 1, 1, .wo, 0x0⟩
/-- R500 EVSTOP: 1: EVCNT0–7 do not count -/
def Reg.Common.EVSTOP : FieldSpec := ⟨0xC, [], 2, 2, .rw, 0x0⟩
/-- R500 EVCNT: Event counters -/
def Reg.Common.EVCNT : FieldSpec := ⟨0x40, [(0x4, 16)], 31, 0, .ro, 0x0⟩
/-- R500 FAULT: Fault record valid -/
def Reg.Common.FAULT_080 : FieldSpec := ⟨0x80, [], 0, 0, .ro, 0x0⟩
/-- R500 OVF: Any OVF of EVSEL0–7 is set -/
def Reg.Common.OVF : FieldSpec := ⟨0x80, [], 1, 1, .ro, 0x0⟩
/-- R500 EVENT: A condition that this page's chapter names as raising its interrupt has occurred -/
def Reg.Common.EVENT : FieldSpec := ⟨0x80, [], 2, 2, .w1c, 0x0⟩
/-- R500 ENABLE: Bit i enables bit i of INTR_STATUS -/
def Reg.Common.ENABLE : FieldSpec := ⟨0x84, [], 2, 0, .rw, 0x0⟩
/-- R502 FC_CODE: Fault code of R269 or of the hardware-error table below -/
def Reg.Common.FC_CODE : FieldSpec := ⟨0x10, [], 7, 0, .ro, 0x0⟩
/-- R502 FC_ENGINE: 0 ME, 1 MVP, 2 VE, 3 stream unit, 4 Stepstone, 5 P0, 6 P1, 7 Silt, 8 landing agent, 9 hub queue, 10
Reedbed or ingest sequencer, 11 Sluice, 12 memory controller, 13 Ferry port, 14 loader or Staithe engine, 15 other hub
unit -/
def Reg.Common.FC_ENGINE : FieldSpec := ⟨0x10, [], 11, 8, .ro, 0x0⟩
/-- R502 FC_CORE: Logical core of the engine, or home core of the queue or cluster engine -/
def Reg.Common.FC_CORE : FieldSpec := ⟨0x10, [], 14, 12, .ro, 0x0⟩
/-- R502 FC_UNIT: Gate, queue, port, channel or unit number; 0 otherwise -/
def Reg.Common.FC_UNIT : FieldSpec := ⟨0x10, [], 19, 15, .ro, 0x0⟩
/-- R502 FC_PRIMARY: Primary fault under R268 -/
def Reg.Common.FC_PRIMARY : FieldSpec := ⟨0x10, [], 28, 28, .ro, 0x0⟩
/-- R502 FC_NOABANDON: The fault abandoned no step -/
def Reg.Common.FC_NOABANDON : FieldSpec := ⟨0x10, [], 29, 29, .ro, 0x0⟩
/-- R502 FC_MULTI: A further fault was raised in this page while VALID was set -/
def Reg.Common.FC_MULTI : FieldSpec := ⟨0x10, [], 30, 30, .w1c, 0x0⟩
/-- R502 FC_VALID: A record is held; writing 1 clears all four words -/
def Reg.Common.FC_VALID : FieldSpec := ⟨0x10, [], 31, 31, .w1c, 0x0⟩
/-- R502 FC_PC: Index of the instruction within its INSTR section; 0xFFFF_FFFF where no instruction applies -/
def Reg.Common.FC_PC : FieldSpec := ⟨0x14, [], 31, 0, .ro, 0x0⟩
/-- R502 FC_ADDR_LO: Address or value named by the catalogue, bits [31:0] -/
def Reg.Common.FC_ADDR_LO : FieldSpec := ⟨0x18, [], 31, 0, .ro, 0x0⟩
/-- R502 FC_ADDR_HI: Bits [47:32] -/
def Reg.Common.FC_ADDR_HI : FieldSpec := ⟨0x1C, [], 15, 0, .ro, 0x0⟩
/-- R502 FC_STEP: Bits [15:0] of the polder's step number; 0 for hub faults of no polder -/
def Reg.Common.FC_STEP : FieldSpec := ⟨0x1C, [], 31, 16, .ro, 0x0⟩
/-- Fields of the Common page, part 0. -/
def Reg.Common.fields0 : List FieldSpec :=
  [Reg.Common.EVSEL_EVENT, Reg.Common.EVSEL_EN, Reg.Common.EVSEL_HOLDX,
   Reg.Common.EVSEL_SNAP, Reg.Common.EVSEL_CLR, Reg.Common.EVSEL_OVF,
   Reg.Common.INDEX, Reg.Common.TYPE, Reg.Common.DIE,
   Reg.Common.CLU, Reg.Common.INST, Reg.Common.LAYOUT,
   Reg.Common.STEPPING, Reg.Common.FAULT_008, Reg.Common.DIRTY,
   Reg.Common.CHECKFAIL, Reg.Common.FROZEN, Reg.Common.SHARED,
   Reg.Common.POLDER, Reg.Common.DISCARD, Reg.Common.CLR_ALL,
   Reg.Common.EVSTOP, Reg.Common.EVCNT, Reg.Common.FAULT_080]
/-- Fields of the Common page, part 1. -/
def Reg.Common.fields1 : List FieldSpec :=
  [Reg.Common.OVF, Reg.Common.EVENT, Reg.Common.ENABLE,
   Reg.Common.FC_CODE, Reg.Common.FC_ENGINE, Reg.Common.FC_CORE,
   Reg.Common.FC_UNIT, Reg.Common.FC_PRIMARY, Reg.Common.FC_NOABANDON,
   Reg.Common.FC_MULTI, Reg.Common.FC_VALID, Reg.Common.FC_PC,
   Reg.Common.FC_ADDR_LO, Reg.Common.FC_ADDR_HI, Reg.Common.FC_STEP]
/-- Every field of the Common page. -/
def Reg.Common.fields : List FieldSpec := Reg.Common.fields0 ++ Reg.Common.fields1


/-! Fields of the Commit page. -/

/-- R512 CHECK: Start a CHECK -/
def Reg.Commit.CHECK : FieldSpec := ⟨0x100, [], 0, 0, .wo, 0x0⟩
/-- R512 APPLY: Start an APPLY -/
def Reg.Commit.APPLY : FieldSpec := ⟨0x100, [], 1, 1, .wo, 0x0⟩
/-- R512 ABORT: Abort an armed commit -/
def Reg.Commit.ABORT : FieldSpec := ⟨0x100, [], 2, 2, .wo, 0x0⟩
/-- R512 DISCARD_ALL: Under R510 -/
def Reg.Commit.DISCARD_ALL : FieldSpec := ⟨0x100, [], 3, 3, .wo, 0x0⟩
/-- R512 AMODE: Under R508 -/
def Reg.Commit.AMODE : FieldSpec := ⟨0x104, [], 1, 0, .rw, 0x0⟩
/-- R512 APOLDER: Polder for AMODE 1 -/
def Reg.Commit.APOLDER : FieldSpec := ⟨0x104, [], 3, 2, .rw, 0x0⟩
/-- R512 ALANDING: Landing for AMODE 2 -/
def Reg.Commit.ALANDING : FieldSpec := ⟨0x108, [], 12, 0, .rw, 0x0⟩
/-- R512 AV: Threshold for AMODE 2 -/
def Reg.Commit.AV : FieldSpec := ⟨0x10C, [], 31, 0, .rw, 0x0⟩
/-- R512 ATIMEOUT: Timeout for AMODE 2, units of 1,024 SCLK, from 0x0_0001 -/
def Reg.Commit.ATIMEOUT : FieldSpec := ⟨0x110, [], 19, 0, .rw, 0xfffff⟩
/-- R512 ATIME_LO: ATIME bits [31:0] -/
def Reg.Commit.ATIME_LO : FieldSpec := ⟨0x114, [], 31, 0, .rw, 0x0⟩
/-- R512 ATIME_HI: Bits [63:32] -/
def Reg.Commit.ATIME_HI : FieldSpec := ⟨0x118, [], 31, 0, .rw, 0x0⟩
/-- R512 CSTATE: 0 idle, 1 checking, 2 consistent, 3 inconsistent, 4 armed, 5 applied, 6 aborted, 7 timed out -/
def Reg.Commit.CSTATE : FieldSpec := ⟨0x120, [], 2, 0, .ro, 0x0⟩
/-- R512 LATE: The last timestamp APPLY took effect late -/
def Reg.Commit.LATE : FieldSpec := ⟨0x120, [], 3, 3, .ro, 0x0⟩
/-- R512 NDIRTY: Pages with DIRTY set -/
def Reg.Commit.NDIRTY : FieldSpec := ⟨0x120, [], 25, 16, .ro, 0x0⟩
/-- R512 CPAGE: Page of the first inconsistency -/
def Reg.Commit.CPAGE : FieldSpec := ⟨0x124, [], 11, 0, .ro, 0x0⟩
/-- R512 CWORD: Its live word offset [11:2] -/
def Reg.Commit.CWORD : FieldSpec := ⟨0x124, [], 21, 12, .ro, 0x0⟩
/-- R512 CBIT: Lowest bit of the field -/
def Reg.Commit.CBIT : FieldSpec := ⟨0x124, [], 26, 22, .ro, 0x0⟩
/-- R512 CREASON: Under R507 -/
def Reg.Commit.CREASON : FieldSpec := ⟨0x124, [], 30, 27, .ro, 0x0⟩
/-- R512 APPLY_STAMP_LO: TIMESTAMP at the last E, bits [31:0] -/
def Reg.Commit.APPLY_STAMP_LO : FieldSpec := ⟨0x128, [], 31, 0, .ro, 0x0⟩
/-- R512 APPLY_STAMP_HI: Bits [63:32] -/
def Reg.Commit.APPLY_STAMP_HI : FieldSpec := ⟨0x12C, [], 31, 0, .ro, 0x0⟩
/-- R512 LOCKED_WRITES: Writes ignored under R505 and R510, saturating -/
def Reg.Commit.LOCKED_WRITES : FieldSpec := ⟨0x130, [], 31, 0, .rc, 0x0⟩
/-- R512 APPLIES: Commits applied, saturating -/
def Reg.Commit.APPLIES : FieldSpec := ⟨0x134, [], 31, 0, .rc, 0x0⟩
/-- R512 RUN_KEY_LO: Run key of polder p, bits [31:0] -/
def Reg.Commit.RUN_KEY_LO : FieldSpec := ⟨0x180, [(0x8, 4)], 31, 0, .st, 0x0⟩
/-- R512 RUN_KEY_HI: Bits [63:32] -/
def Reg.Commit.RUN_KEY_HI : FieldSpec := ⟨0x184, [(0x8, 4)], 31, 0, .st, 0x0⟩
/-- R512 STEP: Step number of polder p; the live value advances under R251 -/
def Reg.Commit.STEP : FieldSpec := ⟨0x1A0, [(0x4, 4)], 31, 0, .st, 0x0⟩
/-- Fields of the Commit page, part 0. -/
def Reg.Commit.fields0 : List FieldSpec :=
  [Reg.Commit.CHECK, Reg.Commit.APPLY, Reg.Commit.ABORT,
   Reg.Commit.DISCARD_ALL, Reg.Commit.AMODE, Reg.Commit.APOLDER,
   Reg.Commit.ALANDING, Reg.Commit.AV, Reg.Commit.ATIMEOUT,
   Reg.Commit.ATIME_LO, Reg.Commit.ATIME_HI, Reg.Commit.CSTATE,
   Reg.Commit.LATE, Reg.Commit.NDIRTY, Reg.Commit.CPAGE,
   Reg.Commit.CWORD, Reg.Commit.CBIT, Reg.Commit.CREASON,
   Reg.Commit.APPLY_STAMP_LO, Reg.Commit.APPLY_STAMP_HI, Reg.Commit.LOCKED_WRITES,
   Reg.Commit.APPLIES, Reg.Commit.RUN_KEY_LO, Reg.Commit.RUN_KEY_HI]
/-- Fields of the Commit page, part 1. -/
def Reg.Commit.fields1 : List FieldSpec :=
  [Reg.Commit.STEP]
/-- Every field of the Commit page. -/
def Reg.Commit.fields : List FieldSpec := Reg.Commit.fields0 ++ Reg.Commit.fields1


/-! Fields of the Holds page. -/

/-- R267 ACTIVE: A hold is in force -/
def Reg.Holds.ACTIVE : FieldSpec := ⟨0x100, [], 0, 0, .ro, 0x0⟩
/-- R267 CAUSE: Cause of the hold in force: 0 refresh, 1 link retry, 2 copy-on-write, 3 substitution -/
def Reg.Holds.CAUSE : FieldSpec := ⟨0x100, [], 2, 1, .ro, 0x0⟩
/-- R267 LEAD: A request is within its 8 SCLK of lead -/
def Reg.Holds.LEAD : FieldSpec := ⟨0x100, [], 3, 3, .ro, 0x0⟩
/-- R267 PENDING: Bit 4 + c: a request of cause c is waiting -/
def Reg.Holds.PENDING : FieldSpec := ⟨0x100, [], 7, 4, .ro, 0x0⟩
/-- R267 LAST_LEN: Length of the most recent hold, SCLK -/
def Reg.Holds.LAST_LEN : FieldSpec := ⟨0x104, [], 31, 0, .ro, 0x0⟩
/-- R267 COUNT_LO: Holds of cause c, bits [31:0] -/
def Reg.Holds.COUNT_LO : FieldSpec := ⟨0x110, [(0x10, 4)], 31, 0, .ro, 0x0⟩
/-- R267 COUNT_HI: Bits [47:32] -/
def Reg.Holds.COUNT_HI : FieldSpec := ⟨0x114, [(0x10, 4)], 15, 0, .ro, 0x0⟩
/-- R267 SCLK_LO: SCLK spent in holds of cause c, bits [31:0] -/
def Reg.Holds.SCLK_LO : FieldSpec := ⟨0x118, [(0x10, 4)], 31, 0, .ro, 0x0⟩
/-- R267 SCLK_HI: Bits [47:32] -/
def Reg.Holds.SCLK_HI : FieldSpec := ⟨0x11C, [(0x10, 4)], 15, 0, .ro, 0x0⟩
/-- Fields of the Holds page, part 0. -/
def Reg.Holds.fields0 : List FieldSpec :=
  [Reg.Holds.ACTIVE, Reg.Holds.CAUSE, Reg.Holds.LEAD,
   Reg.Holds.PENDING, Reg.Holds.LAST_LEN, Reg.Holds.COUNT_LO,
   Reg.Holds.COUNT_HI, Reg.Holds.SCLK_LO, Reg.Holds.SCLK_HI]
/-- Every field of the Holds page. -/
def Reg.Holds.fields : List FieldSpec := Reg.Holds.fields0


/-! Fields of the Landings page. -/

/-- R292 HL_BASE_LO: Mirror lines, address [31:0]; [11:0] zero -/
def Reg.Landings.HL_BASE_LO : FieldSpec := ⟨0x100, [], 31, 0, .st, 0x0⟩
/-- R292 HL_BASE_HI: Address [63:32] -/
def Reg.Landings.HL_BASE_HI : FieldSpec := ⟨0x104, [], 31, 0, .st, 0x0⟩
/-- R292 HS_BASE_LO: Host signal lines, address [31:0]; [11:0] zero -/
def Reg.Landings.HS_BASE_LO : FieldSpec := ⟨0x108, [], 31, 0, .st, 0x0⟩
/-- R292 HS_BASE_HI: Address [63:32] -/
def Reg.Landings.HS_BASE_HI : FieldSpec := ⟨0x10C, [], 31, 0, .st, 0x0⟩
/-- R292 HOST_EN: Host lines in use. Cleared by a conventional reset of the CXL port under R422. Setting it from 0 takes
a new baseline under R289 -/
def Reg.Landings.HOST_EN : FieldSpec := ⟨0x110, [], 0, 0, .st, 0x0⟩
/-- R292 WL_SEL: Landing whose wait list is shown -/
def Reg.Landings.WL_SEL : FieldSpec := ⟨0x120, [], 12, 0, .rw, 0x0⟩
/-- R292 W_DIE: Slot i: waiter's die, 4 H -/
def Reg.Landings.W_DIE : FieldSpec := ⟨0x140, [(0x8, 16)], 2, 0, .ro, 0x0⟩
/-- R292 W_CLU: Cluster -/
def Reg.Landings.W_CLU : FieldSpec := ⟨0x140, [(0x8, 16)], 5, 3, .ro, 0x0⟩
/-- R292 W_CORE: Logical core -/
def Reg.Landings.W_CORE : FieldSpec := ⟨0x140, [(0x8, 16)], 8, 6, .ro, 0x0⟩
/-- R292 W_GATE: Gate, or hub agent slot -/
def Reg.Landings.W_GATE : FieldSpec := ⟨0x140, [(0x8, 16)], 13, 9, .ro, 0x0⟩
/-- R292 W_KIND: 0 core gate, 1 hub agent, 2 host; 3 reserved -/
def Reg.Landings.W_KIND : FieldSpec := ⟨0x140, [(0x8, 16)], 15, 14, .ro, 0x0⟩
/-- R292 W_CLAIM: Claimer -/
def Reg.Landings.W_CLAIM : FieldSpec := ⟨0x140, [(0x8, 16)], 16, 16, .ro, 0x0⟩
/-- R292 W_LEFT: Timeout remaining, units of 32,768 SCLK, saturating; 0x7FFF for a waiter that has no timeout -/
def Reg.Landings.W_LEFT : FieldSpec := ⟨0x140, [(0x8, 16)], 31, 17, .ro, 0x0⟩
/-- R292 W_V: Threshold in force -/
def Reg.Landings.W_V : FieldSpec := ⟨0x144, [(0x8, 16)], 31, 0, .ro, 0x0⟩
/-- R292 ERR: A landing error has been recorded -/
def Reg.Landings.ERR : FieldSpec := ⟨0x1C0, [], 0, 0, .w1c, 0x0⟩
/-- R292 MULTI: More than one since ERR was last cleared; the fields hold the first -/
def Reg.Landings.MULTI : FieldSpec := ⟨0x1C0, [], 1, 1, .w1c, 0x0⟩
/-- R292 KIND: 0 timeout, 1 stale tag, 2 slot occupied, 3 claimers and value waiters mixed on one list, recorded for
refused host registrations under R289 -/
def Reg.Landings.KIND : FieldSpec := ⟨0x1C0, [], 3, 2, .ro, 0x0⟩
/-- R292 LANDING: Landing -/
def Reg.Landings.LANDING : FieldSpec := ⟨0x1C0, [], 16, 4, .ro, 0x0⟩
/-- R292 SLOT: Slot -/
def Reg.Landings.SLOT : FieldSpec := ⟨0x1C0, [], 20, 17, .ro, 0x0⟩
/-- R292 TW_BASE: Window w: base address [31:12] -/
def Reg.Landings.TW_BASE : FieldSpec := ⟨0x200, [(0x10, 32)], 31, 12, .st, 0x0⟩
/-- R292 TW_BASE_HI: Base address [47:32] -/
def Reg.Landings.TW_BASE_HI : FieldSpec := ⟨0x204, [(0x10, 32)], 15, 0, .st, 0x0⟩
/-- R292 LEN: Blocks, minus one -/
def Reg.Landings.LEN : FieldSpec := ⟨0x208, [(0x10, 32)], 17, 0, .st, 0x0⟩
/-- R292 TW_LANDING: Bound landing -/
def Reg.Landings.TW_LANDING : FieldSpec := ⟨0x208, [(0x10, 32)], 30, 18, .st, 0x0⟩
/-- R292 EN: Window enabled -/
def Reg.Landings.EN : FieldSpec := ⟨0x208, [(0x10, 32)], 31, 31, .st, 0x0⟩
/-- R292 TOFF: First tag-store entry -/
def Reg.Landings.TOFF : FieldSpec := ⟨0x20C, [(0x10, 32)], 17, 0, .st, 0x0⟩
/-- Fields of the Landings page, part 0. -/
def Reg.Landings.fields0 : List FieldSpec :=
  [Reg.Landings.HL_BASE_LO, Reg.Landings.HL_BASE_HI, Reg.Landings.HS_BASE_LO,
   Reg.Landings.HS_BASE_HI, Reg.Landings.HOST_EN, Reg.Landings.WL_SEL,
   Reg.Landings.W_DIE, Reg.Landings.W_CLU, Reg.Landings.W_CORE,
   Reg.Landings.W_GATE, Reg.Landings.W_KIND, Reg.Landings.W_CLAIM,
   Reg.Landings.W_LEFT, Reg.Landings.W_V, Reg.Landings.ERR,
   Reg.Landings.MULTI, Reg.Landings.KIND, Reg.Landings.LANDING,
   Reg.Landings.SLOT, Reg.Landings.TW_BASE, Reg.Landings.TW_BASE_HI,
   Reg.Landings.LEN, Reg.Landings.TW_LANDING, Reg.Landings.EN]
/-- Fields of the Landings page, part 1. -/
def Reg.Landings.fields1 : List FieldSpec :=
  [Reg.Landings.TOFF]
/-- Every field of the Landings page. -/
def Reg.Landings.fields : List FieldSpec := Reg.Landings.fields0 ++ Reg.Landings.fields1


/-! Fields of the Clocks page. -/

/-- R471 ROOT_TARGET: Root code n of R456, 0x00–0x1E; 0x1F reserved -/
def Reg.Clocks.ROOT_TARGET : FieldSpec := ⟨0x100, [], 4, 0, .st, 0x0⟩
/-- R471 ROOT_NOW: Code nearest the present root frequency -/
def Reg.Clocks.ROOT_NOW : FieldSpec := ⟨0x104, [], 4, 0, .ro, 0x0⟩
/-- R471 GLIDING: A glide is in progress -/
def Reg.Clocks.GLIDING : FieldSpec := ⟨0x104, [], 5, 5, .ro, 0x0⟩
/-- R471 LOCKED: Root PLL locked. The bit is set when the root first locks under R453, before any page can be served,
and a loss of lock resets the module. Every read that a page serves therefore returns 1; the reset value 0 holds only
before lock -/
def Reg.Clocks.LOCKED : FieldSpec := ⟨0x104, [], 6, 6, .ro, 0x0⟩
/-- R471 THROTTLE_CAUSE: 0 none, 1 power, 2 temperature, 3 THROTTLE_N -/
def Reg.Clocks.THROTTLE_CAUSE : FieldSpec := ⟨0x104, [], 8, 7, .ro, 0x0⟩
/-- R471 POWER_LIMIT: Input power limit, W (2,900) -/
def Reg.Clocks.POWER_LIMIT : FieldSpec := ⟨0x108, [], 11, 0, .st, 0xb54⟩
/-- R471 THROTTLE_FLOOR: Target code under THROTTLE_N (7.000 GHz) -/
def Reg.Clocks.THROTTLE_FLOOR : FieldSpec := ⟨0x108, [], 16, 12, .st, 0x14⟩
/-- R471 TJ_THROTTLE: Throttle temperature, °C (105) -/
def Reg.Clocks.TJ_THROTTLE : FieldSpec := ⟨0x10C, [], 7, 0, .st, 0x69⟩
/-- R471 TJ_TRIP: Trip temperature, °C (115) -/
def Reg.Clocks.TJ_TRIP : FieldSpec := ⟨0x10C, [], 15, 8, .ro, 0x73⟩
/-- R471 TJ_MAX: Hottest die, °C -/
def Reg.Clocks.TJ_MAX : FieldSpec := ⟨0x10C, [], 23, 16, .ro, 0x0⟩
/-- R471 PIN: Input power, W, averaged over 1 ms -/
def Reg.Clocks.PIN : FieldSpec := ⟨0x110, [], 15, 0, .ro, 0x0⟩
/-- R471 VIN: Input voltage, units of 10 mV -/
def Reg.Clocks.VIN : FieldSpec := ⟨0x110, [], 31, 16, .ro, 0x0⟩
/-- R471 IIN: Input current, units of 10 mA -/
def Reg.Clocks.IIN : FieldSpec := ⟨0x114, [], 15, 0, .ro, 0x0⟩
/-- R471 TIMESTAMP_LO: TIMESTAMP bits [31:0] -/
def Reg.Clocks.TIMESTAMP_LO : FieldSpec := ⟨0x118, [], 31, 0, .ro, 0x0⟩
/-- R471 TIMESTAMP_HI: Bits [63:32] -/
def Reg.Clocks.TIMESTAMP_HI : FieldSpec := ⟨0x11C, [], 31, 0, .ro, 0x0⟩
/-- R471 MODULE_RESET: Reset the module under R460 -/
def Reg.Clocks.MODULE_RESET : FieldSpec := ⟨0x120, [], 0, 0, .wo, 0x0⟩
/-- R471 WDOG_KICK: Restart the watchdog -/
def Reg.Clocks.WDOG_KICK : FieldSpec := ⟨0x120, [], 1, 1, .wo, 0x0⟩
/-- R471 RESET_CAUSE: 0 power-up, 1 MRST_N, 2 MODULE_RESET, 3 watchdog, 4 loss of lock; 5–7 reserved -/
def Reg.Clocks.RESET_CAUSE : FieldSpec := ⟨0x124, [], 2, 0, .ro, 0x0⟩
/-- R471 TRIPPED: The flash log holds a trip entry newer than the last power-up -/
def Reg.Clocks.TRIPPED : FieldSpec := ⟨0x124, [], 3, 3, .ro, 0x0⟩
/-- Fields of the Clocks page, part 0. -/
def Reg.Clocks.fields0 : List FieldSpec :=
  [Reg.Clocks.ROOT_TARGET, Reg.Clocks.ROOT_NOW, Reg.Clocks.GLIDING,
   Reg.Clocks.LOCKED, Reg.Clocks.THROTTLE_CAUSE, Reg.Clocks.POWER_LIMIT,
   Reg.Clocks.THROTTLE_FLOOR, Reg.Clocks.TJ_THROTTLE, Reg.Clocks.TJ_TRIP,
   Reg.Clocks.TJ_MAX, Reg.Clocks.PIN, Reg.Clocks.VIN,
   Reg.Clocks.IIN, Reg.Clocks.TIMESTAMP_LO, Reg.Clocks.TIMESTAMP_HI,
   Reg.Clocks.MODULE_RESET, Reg.Clocks.WDOG_KICK, Reg.Clocks.RESET_CAUSE,
   Reg.Clocks.TRIPPED]
/-- Every field of the Clocks page. -/
def Reg.Clocks.fields : List FieldSpec := Reg.Clocks.fields0


/-! Fields of the Slack page. -/

/-- R472 FRZ_MODE: 0 isolated, 1 pod -/
def Reg.Slack.FRZ_MODE : FieldSpec := ⟨0x100, [], 0, 0, .st, 0x0⟩
/-- R472 PIN_FN: FREEZE_N: 0 freeze, 1 sync trigger, 2 ignored; 3 reserved -/
def Reg.Slack.PIN_FN : FieldSpec := ⟨0x100, [], 2, 1, .st, 0x0⟩
/-- R472 FRZ_LEN: Landing trigger armed -/
def Reg.Slack.FRZ_LEN : FieldSpec := ⟨0x100, [], 3, 3, .st, 0x0⟩
/-- R472 FRZ_LANDING: Landing of the slot-13 waiter -/
def Reg.Slack.FRZ_LANDING : FieldSpec := ⟨0x104, [], 12, 0, .st, 0x0⟩
/-- R472 FRZ_V: Threshold of the slot-13 waiter -/
def Reg.Slack.FRZ_V : FieldSpec := ⟨0x108, [], 31, 0, .st, 0x0⟩
/-- R472 FREEZE: Request a freeze -/
def Reg.Slack.FREEZE : FieldSpec := ⟨0x10C, [], 0, 0, .wo, 0x0⟩
/-- R472 THAW: Thaw under R469 -/
def Reg.Slack.THAW : FieldSpec := ⟨0x10C, [], 1, 1, .wo, 0x0⟩
/-- R472 RO_EN: Readout window in place of the HDM segments while frozen -/
def Reg.Slack.RO_EN : FieldSpec := ⟨0x10C, [], 2, 2, .rw, 0x0⟩
/-- R472 FSTATE: 0 running, 1 requested, 2 frozen, 3 thawing -/
def Reg.Slack.FSTATE : FieldSpec := ⟨0x110, [], 1, 0, .ro, 0x0⟩
/-- R472 FSRC: 0 pin, 1 register, 2 landing, 3 crossing -/
def Reg.Slack.FSRC : FieldSpec := ⟨0x110, [], 3, 2, .ro, 0x0⟩
/-- R472 FPORT: Arrival port of the FREEZE crossing -/
def Reg.Slack.FPORT : FieldSpec := ⟨0x110, [], 7, 4, .ro, 0x0⟩
/-- R472 FGEN: Generation of the last freeze -/
def Reg.Slack.FGEN : FieldSpec := ⟨0x114, [], 15, 0, .ro, 0x0⟩
/-- R472 FINIT: Initiating module -/
def Reg.Slack.FINIT : FieldSpec := ⟨0x114, [], 27, 16, .ro, 0x0⟩
/-- R472 FRZ_STAMP_LO: TIMESTAMP at F, bits [31:0] -/
def Reg.Slack.FRZ_STAMP_LO : FieldSpec := ⟨0x118, [], 31, 0, .ro, 0x0⟩
/-- R472 FRZ_STAMP_HI: Bits [63:32] -/
def Reg.Slack.FRZ_STAMP_HI : FieldSpec := ⟨0x11C, [], 31, 0, .ro, 0x0⟩
/-- R472 SYNC_STAMP_LO: TIMESTAMP at the last sync edge, bits [31:0] -/
def Reg.Slack.SYNC_STAMP_LO : FieldSpec := ⟨0x120, [], 31, 0, .ro, 0x0⟩
/-- R472 SYNC_STAMP_HI: Bits [63:32] -/
def Reg.Slack.SYNC_STAMP_HI : FieldSpec := ⟨0x124, [], 31, 0, .ro, 0x0⟩
/-- R472 RO_BASE: Readout-space address [47:30] of HDM offset 0 -/
def Reg.Slack.RO_BASE : FieldSpec := ⟨0x128, [], 17, 0, .rw, 0x0⟩
/-- R472 FROZEN_QCLK: Length of the last freeze in QCLK, saturating -/
def Reg.Slack.FROZEN_QCLK : FieldSpec := ⟨0x12C, [], 31, 0, .ro, 0x0⟩
/-- R472 FRZ_IGNORED: Requests and crossings ignored under R462 and R466 -/
def Reg.Slack.FRZ_IGNORED : FieldSpec := ⟨0x130, [], 31, 0, .rc, 0x0⟩
/-- R472 FRZ_TIMEOUT: Timeout of the slot-13 waiter under R288, units of 1,024 SCLK; 0x0_0000: no timeout -/
def Reg.Slack.FRZ_TIMEOUT : FieldSpec := ⟨0x134, [], 19, 0, .st, 0x0⟩
/-- Fields of the Slack page, part 0. -/
def Reg.Slack.fields0 : List FieldSpec :=
  [Reg.Slack.FRZ_MODE, Reg.Slack.PIN_FN, Reg.Slack.FRZ_LEN,
   Reg.Slack.FRZ_LANDING, Reg.Slack.FRZ_V, Reg.Slack.FREEZE,
   Reg.Slack.THAW, Reg.Slack.RO_EN, Reg.Slack.FSTATE,
   Reg.Slack.FSRC, Reg.Slack.FPORT, Reg.Slack.FGEN,
   Reg.Slack.FINIT, Reg.Slack.FRZ_STAMP_LO, Reg.Slack.FRZ_STAMP_HI,
   Reg.Slack.SYNC_STAMP_LO, Reg.Slack.SYNC_STAMP_HI, Reg.Slack.RO_BASE,
   Reg.Slack.FROZEN_QCLK, Reg.Slack.FRZ_IGNORED, Reg.Slack.FRZ_TIMEOUT]
/-- Every field of the Slack page. -/
def Reg.Slack.fields : List FieldSpec := Reg.Slack.fields0


/-! Fields of the Security page. -/

/-- R452 LCSTATE: LC count: 0 BLANK to 4 DECOMMISSIONED -/
def Reg.Security.LCSTATE : FieldSpec := ⟨0x100, [], 2, 0, .ro, 0x0⟩
/-- R452 BOOT_BANK: 0 bank A, 1 bank B -/
def Reg.Security.BOOT_BANK : FieldSpec := ⟨0x100, [], 3, 3, .ro, 0x0⟩
/-- R452 BOOT_ERR: First failed check of the other bank under R438; 0 none -/
def Reg.Security.BOOT_ERR : FieldSpec := ⟨0x100, [], 6, 4, .ro, 0x0⟩
/-- R452 REVOKED: Bit s: slot s revoked -/
def Reg.Security.REVOKED : FieldSpec := ⟨0x100, [], 10, 7, .ro, 0x0⟩
/-- R452 ACTIVE_SLOT: KEYSLOT of the running hub firmware -/
def Reg.Security.ACTIVE_SLOT : FieldSpec := ⟨0x100, [], 12, 11, .ro, 0x0⟩
/-- R452 DIEFW_OK: Bit c: die Cc released under R440 -/
def Reg.Security.DIEFW_OK : FieldSpec := ⟨0x100, [], 16, 13, .ro, 0x0⟩
/-- R452 SVN_HUB: Fuse counter -/
def Reg.Security.SVN_HUB : FieldSpec := ⟨0x104, [], 5, 0, .ro, 0x0⟩
/-- R452 SVN_DIE: Fuse counter -/
def Reg.Security.SVN_DIE : FieldSpec := ⟨0x104, [], 13, 8, .ro, 0x0⟩
/-- R452 RUN_SVN_HUB: SVN of the running hub firmware -/
def Reg.Security.RUN_SVN_HUB : FieldSpec := ⟨0x104, [], 21, 16, .ro, 0x0⟩
/-- R452 RUN_SVN_DIE: SVN of the running die firmware -/
def Reg.Security.RUN_SVN_DIE : FieldSpec := ⟨0x104, [], 29, 24, .ro, 0x0⟩
/-- R452 SVN_COMMIT: Commit under R442 -/
def Reg.Security.SVN_COMMIT : FieldSpec := ⟨0x108, [], 0, 0, .wo, 0x0⟩
/-- R452 PROVISION: Writable in BLANK only; starts R443 -/
def Reg.Security.PROVISION : FieldSpec := ⟨0x108, [], 1, 1, .rwl, 0x0⟩
/-- R452 LC_GO: Submit the token at LC_SRC -/
def Reg.Security.LC_GO : FieldSpec := ⟨0x108, [], 2, 2, .wo, 0x0⟩
/-- R452 FWU_START: Start an update under R441 -/
def Reg.Security.FWU_START : FieldSpec := ⟨0x108, [], 3, 3, .wo, 0x0⟩
/-- R452 FWU_TARGET: 0 hub firmware, 1 die firmware, 2 identity certificate; 3 reserved -/
def Reg.Security.FWU_TARGET : FieldSpec := ⟨0x108, [], 5, 4, .rw, 0x0⟩
/-- R452 FWU_BUSY: Update in progress -/
def Reg.Security.FWU_BUSY : FieldSpec := ⟨0x10C, [], 0, 0, .ro, 0x0⟩
/-- R452 FWU_ERR: 0 none; 1–6 failed check of R438; 7 busy -/
def Reg.Security.FWU_ERR : FieldSpec := ⟨0x10C, [], 3, 1, .ro, 0x0⟩
/-- R452 LC_RES: Last token: 0 none, 1 accepted, 2 refused -/
def Reg.Security.LC_RES : FieldSpec := ⟨0x10C, [], 5, 4, .ro, 0x0⟩
/-- R452 CERT_OK: Identity certificate present -/
def Reg.Security.CERT_OK : FieldSpec := ⟨0x10C, [], 6, 6, .ro, 0x0⟩
/-- R452 FWU_SRC_LO: Image address [31:0], 4 KiB aligned -/
def Reg.Security.FWU_SRC_LO : FieldSpec := ⟨0x110, [], 31, 0, .rw, 0x0⟩
/-- R452 FWU_SRC_HI: Address [47:32] -/
def Reg.Security.FWU_SRC_HI : FieldSpec := ⟨0x114, [], 15, 0, .rw, 0x0⟩
/-- R452 LC_SRC_LO: Token address [31:0], 64-byte aligned -/
def Reg.Security.LC_SRC_LO : FieldSpec := ⟨0x118, [], 31, 0, .rw, 0x0⟩
/-- R452 LC_SRC_HI: Address [47:32] -/
def Reg.Security.LC_SRC_HI : FieldSpec := ⟨0x11C, [], 15, 0, .rw, 0x0⟩
/-- R452 LC_NONCE: Current nonce, low word first -/
def Reg.Security.LC_NONCE : FieldSpec := ⟨0x120, [(0x4, 2)], 31, 0, .ro, 0x0⟩
/-- R452 DIK_PUB: DIK public key, bytes in order; zero before provisioning -/
def Reg.Security.DIK_PUB : FieldSpec := ⟨0x140, [(0x4, 16)], 31, 0, .ro, 0x0⟩
/-- Fields of the Security page, part 0. -/
def Reg.Security.fields0 : List FieldSpec :=
  [Reg.Security.LCSTATE, Reg.Security.BOOT_BANK, Reg.Security.BOOT_ERR,
   Reg.Security.REVOKED, Reg.Security.ACTIVE_SLOT, Reg.Security.DIEFW_OK,
   Reg.Security.SVN_HUB, Reg.Security.SVN_DIE, Reg.Security.RUN_SVN_HUB,
   Reg.Security.RUN_SVN_DIE, Reg.Security.SVN_COMMIT, Reg.Security.PROVISION,
   Reg.Security.LC_GO, Reg.Security.FWU_START, Reg.Security.FWU_TARGET,
   Reg.Security.FWU_BUSY, Reg.Security.FWU_ERR, Reg.Security.LC_RES,
   Reg.Security.CERT_OK, Reg.Security.FWU_SRC_LO, Reg.Security.FWU_SRC_HI,
   Reg.Security.LC_SRC_LO, Reg.Security.LC_SRC_HI, Reg.Security.LC_NONCE]
/-- Fields of the Security page, part 1. -/
def Reg.Security.fields1 : List FieldSpec :=
  [Reg.Security.DIK_PUB]
/-- Every field of the Security page. -/
def Reg.Security.fields : List FieldSpec := Reg.Security.fields0 ++ Reg.Security.fields1


/-! Fields of the Reliab page. -/

/-- R412 POLICY: 0 observation, 1 remedy -/
def Reg.Reliab.POLICY : FieldSpec := ⟨0x100, [], 0, 0, .st, 0x0⟩
/-- R412 REMEDY: 0 voltage, 1 derate -/
def Reg.Reliab.REMEDY : FieldSpec := ⟨0x100, [], 1, 1, .st, 0x0⟩
/-- R412 ROT_EN: Rotation under R394 -/
def Reg.Reliab.ROT_EN : FieldSpec := ⟨0x100, [], 2, 2, .st, 0x0⟩
/-- R412 VMAX: Largest VTRIM, 0x0–0x6 -/
def Reg.Reliab.VMAX : FieldSpec := ⟨0x100, [], 5, 3, .st, 0x4⟩
/-- R412 ROT_PERIOD: Steps between rotations, from 0x0001 -/
def Reg.Reliab.ROT_PERIOD : FieldSpec := ⟨0x104, [], 15, 0, .st, 0x400⟩
/-- R412 RES_TH: Residue errors to SUSPECT -/
def Reg.Reliab.RES_TH : FieldSpec := ⟨0x108, [], 7, 0, .st, 0x1⟩
/-- R412 PAR_TH: Parity errors to SUSPECT -/
def Reg.Reliab.PAR_TH : FieldSpec := ⟨0x108, [], 15, 8, .st, 0x2⟩
/-- R412 AGE_TH: Ageing margin threshold -/
def Reg.Reliab.AGE_TH : FieldSpec := ⟨0x108, [], 23, 16, .st, 0x20⟩
/-- R412 PASS_CLR: Passed cycles to OK -/
def Reg.Reliab.PASS_CLR : FieldSpec := ⟨0x108, [], 27, 24, .st, 0x8⟩
/-- R412 FAIL_TH: Failed cycles to FAILED -/
def Reg.Reliab.FAIL_TH : FieldSpec := ⟨0x108, [], 31, 28, .st, 0x2⟩
/-- R412 EV_VALID: A wear transition is recorded -/
def Reg.Reliab.EV_VALID : FieldSpec := ⟨0x10C, [], 0, 0, .w1c, 0x0⟩
/-- R412 EV_DIE: Die 0–3 -/
def Reg.Reliab.EV_DIE : FieldSpec := ⟨0x10C, [], 3, 1, .ro, 0x0⟩
/-- R412 EV_CLU: Cluster -/
def Reg.Reliab.EV_CLU : FieldSpec := ⟨0x10C, [], 6, 4, .ro, 0x0⟩
/-- R412 EV_KIND: 0 core, 1 Reedbed unit, 2 SST spare bank, 3 pool spare bank -/
def Reg.Reliab.EV_KIND : FieldSpec := ⟨0x10C, [], 8, 7, .ro, 0x0⟩
/-- R412 EV_NUM: Physical unit or bank -/
def Reg.Reliab.EV_NUM : FieldSpec := ⟨0x10C, [], 15, 9, .ro, 0x0⟩
/-- R412 EV_STATE: New wear state -/
def Reg.Reliab.EV_STATE : FieldSpec := ⟨0x10C, [], 17, 16, .ro, 0x0⟩
/-- R412 EV_CAUSE: 0 residue, 1 parity, 2 ageing, 3 sounding failed, 4 soundings passed, 5 admission; 6 and 7 reserved -/
def Reg.Reliab.EV_CAUSE : FieldSpec := ⟨0x10C, [], 20, 18, .ro, 0x0⟩
/-- R412 EV_MULTI: Further transitions since EV_VALID was set; the fields hold the first -/
def Reg.Reliab.EV_MULTI : FieldSpec := ⟨0x10C, [], 21, 21, .w1c, 0x0⟩
/-- R412 DERATE_REQ: Derate requested under R397 -/
def Reg.Reliab.DERATE_REQ : FieldSpec := ⟨0x110, [], 0, 0, .w1c, 0x0⟩
/-- R412 SCYCLES: Sounding cycles run, saturating -/
def Reg.Reliab.SCYCLES : FieldSpec := ⟨0x114, [], 31, 0, .rc, 0x0⟩
/-- R412 SFAILED: Sounding cycles failed, saturating -/
def Reg.Reliab.SFAILED : FieldSpec := ⟨0x118, [], 31, 0, .rc, 0x0⟩
/-- Fields of the Reliab page, part 0. -/
def Reg.Reliab.fields0 : List FieldSpec :=
  [Reg.Reliab.POLICY, Reg.Reliab.REMEDY, Reg.Reliab.ROT_EN,
   Reg.Reliab.VMAX, Reg.Reliab.ROT_PERIOD, Reg.Reliab.RES_TH,
   Reg.Reliab.PAR_TH, Reg.Reliab.AGE_TH, Reg.Reliab.PASS_CLR,
   Reg.Reliab.FAIL_TH, Reg.Reliab.EV_VALID, Reg.Reliab.EV_DIE,
   Reg.Reliab.EV_CLU, Reg.Reliab.EV_KIND, Reg.Reliab.EV_NUM,
   Reg.Reliab.EV_STATE, Reg.Reliab.EV_CAUSE, Reg.Reliab.EV_MULTI,
   Reg.Reliab.DERATE_REQ, Reg.Reliab.SCYCLES, Reg.Reliab.SFAILED]
/-- Every field of the Reliab page. -/
def Reg.Reliab.fields : List FieldSpec := Reg.Reliab.fields0


/-! Fields of the Polders page. -/

/-- R413 PCFG: 0 one polder, 1 two, 2 four; 3 reserved -/
def Reg.Polders.PCFG : FieldSpec := ⟨0x100, [], 1, 0, .st, 0x0⟩
/-- R413 PSTATE: 0 in service, 1 draining, 2 drained, 3 admitting -/
def Reg.Polders.PSTATE : FieldSpec := ⟨0x110, [(0x10, 4)], 1, 0, .ro, 0x0⟩
/-- R413 ARES: 0 admitted; 1 a cluster lacks 8 OK cores; 2 a die lacks 4 OK Reedbed units; 3 a unit without spare
failed; 4 a mapped bank is FAILED; 5 firmware not verified; 6 not drained; others reserved -/
def Reg.Polders.ARES : FieldSpec := ⟨0x110, [(0x10, 4)], 5, 2, .ro, 0x0⟩
/-- R413 DRAIN: Drain polder p under R401 -/
def Reg.Polders.DRAIN : FieldSpec := ⟨0x114, [(0x10, 4)], 0, 0, .wo, 0x0⟩
/-- R413 ADMIT: Admit polder p under R402 -/
def Reg.Polders.ADMIT : FieldSpec := ⟨0x114, [(0x10, 4)], 1, 1, .wo, 0x0⟩
/-- Fields of the Polders page, part 0. -/
def Reg.Polders.fields0 : List FieldSpec :=
  [Reg.Polders.PCFG, Reg.Polders.PSTATE, Reg.Polders.ARES,
   Reg.Polders.DRAIN, Reg.Polders.ADMIT]
/-- Every field of the Polders page. -/
def Reg.Polders.fields : List FieldSpec := Reg.Polders.fields0


/-! Fields of the SelfTest page. -/

/-- R413 SHUTDOWN: Start the shutdown self-test -/
def Reg.SelfTest.SHUTDOWN : FieldSpec := ⟨0x100, [], 0, 0, .wo, 0x0⟩
/-- R413 CANCEL: Cancel it under R406 -/
def Reg.SelfTest.CANCEL : FieldSpec := ⟨0x100, [], 1, 1, .wo, 0x0⟩
/-- R413 STSTATE: 0 idle, 1 running, 2 passed, 3 failed, 4 cancelled, 5 refused; 6 and 7 reserved -/
def Reg.SelfTest.STSTATE : FieldSpec := ⟨0x104, [], 2, 0, .ro, 0x0⟩
/-- R413 REGION: Region under test, in sequence order -/
def Reg.SelfTest.REGION : FieldSpec := ⟨0x104, [], 23, 8, .ro, 0x0⟩
/-- R413 ENG_EN: Self-test engine runs the program at ENG_PROG -/
def Reg.SelfTest.ENG_EN : FieldSpec := ⟨0x108, [], 0, 0, .rwl, 0x0⟩
/-- R413 ENG_PROG_LO: Test program address [31:0] -/
def Reg.SelfTest.ENG_PROG_LO : FieldSpec := ⟨0x10C, [], 31, 0, .rwl, 0x0⟩
/-- R413 ENG_PROG_HI: Address [47:32] -/
def Reg.SelfTest.ENG_PROG_HI : FieldSpec := ⟨0x110, [], 15, 0, .rwl, 0x0⟩
/-- R413 LOGSEQ: SEQ of the newest log record -/
def Reg.SelfTest.LOGSEQ : FieldSpec := ⟨0x114, [], 31, 0, .ro, 0x0⟩
/-- Fields of the SelfTest page, part 0. -/
def Reg.SelfTest.fields0 : List FieldSpec :=
  [Reg.SelfTest.SHUTDOWN, Reg.SelfTest.CANCEL, Reg.SelfTest.STSTATE,
   Reg.SelfTest.REGION, Reg.SelfTest.ENG_EN, Reg.SelfTest.ENG_PROG_LO,
   Reg.SelfTest.ENG_PROG_HI, Reg.SelfTest.LOGSEQ]
/-- Every field of the SelfTest page. -/
def Reg.SelfTest.fields : List FieldSpec := Reg.SelfTest.fields0


/-! Fields of the Cxl page. -/

/-- R433 SBASE: Segment s: module address [47:30] -/
def Reg.Cxl.SBASE : FieldSpec := ⟨0x100, [(0x4, 64)], 17, 0, .st, 0x0⟩
/-- R433 SEG_EN: Segment s enabled -/
def Reg.Cxl.SEG_EN : FieldSpec := ⟨0x100, [(0x4, 64)], 31, 31, .st, 0x0⟩
/-- R433 HDM_SEGS: HDM range in GiB, 0x01–0x40, sampled under R417 -/
def Reg.Cxl.HDM_SEGS : FieldSpec := ⟨0x200, [], 6, 0, .st, 0x40⟩
/-- R433 ERR: A host access error has been recorded -/
def Reg.Cxl.ERR : FieldSpec := ⟨0x204, [], 0, 0, .w1c, 0x0⟩
/-- R433 MULTI: More than one since ERR was last cleared; the fields hold the first -/
def Reg.Cxl.MULTI : FieldSpec := ⟨0x204, [], 1, 1, .w1c, 0x0⟩
/-- R433 KIND: 0 unmapped, 1 check value, 2 parity; 3 reserved -/
def Reg.Cxl.KIND : FieldSpec := ⟨0x204, [], 3, 2, .ro, 0x0⟩
/-- R433 WRITE: The access was a write -/
def Reg.Cxl.WRITE : FieldSpec := ⟨0x204, [], 4, 4, .ro, 0x0⟩
/-- R433 EADDR_LO: Module address [31:0] -/
def Reg.Cxl.EADDR_LO : FieldSpec := ⟨0x208, [], 31, 0, .ro, 0x0⟩
/-- R433 EADDR_HI: Module address [47:32] -/
def Reg.Cxl.EADDR_HI : FieldSpec := ⟨0x20C, [], 15, 0, .ro, 0x0⟩
/-- R433 HOST_UNMAPPED: Accesses under R419 KIND 0, saturating -/
def Reg.Cxl.HOST_UNMAPPED : FieldSpec := ⟨0x210, [], 31, 0, .rc, 0x0⟩
/-- R433 GATHER_PARTIAL: Gathered blocks written by merge, saturating -/
def Reg.Cxl.GATHER_PARTIAL : FieldSpec := ⟨0x214, [], 31, 0, .rc, 0x0⟩
/-- R433 LINK_DROPPED: Writes and messages dropped under R422, saturating -/
def Reg.Cxl.LINK_DROPPED : FieldSpec := ⟨0x218, [], 31, 0, .rc, 0x0⟩
/-- R433 POLDER_VEC: MSI-X vector of polder p -/
def Reg.Cxl.POLDER_VEC : FieldSpec := ⟨0x220, [(0x4, 4)], 10, 0, .st, 0x0⟩
/-- R433 HUB_VEC: MSI-X vector of hub pages -/
def Reg.Cxl.HUB_VEC : FieldSpec := ⟨0x230, [], 10, 0, .st, 0x0⟩
/-- R433 RATE: 0 down, 1 8 GT/s, 2 16 GT/s, 3 32 GT/s, 4 64 GT/s; 5–7 reserved -/
def Reg.Cxl.RATE : FieldSpec := ⟨0x234, [], 2, 0, .ro, 0x0⟩
/-- R433 FLIT256: 256-byte flit mode in force -/
def Reg.Cxl.FLIT256 : FieldSpec := ⟨0x234, [], 3, 3, .ro, 0x0⟩
/-- R433 WIDTH: Lanes trained: 0x04, 0x08 or 0x10 -/
def Reg.Cxl.WIDTH : FieldSpec := ⟨0x234, [], 8, 4, .ro, 0x0⟩
/-- Fields of the Cxl page, part 0. -/
def Reg.Cxl.fields0 : List FieldSpec :=
  [Reg.Cxl.SBASE, Reg.Cxl.SEG_EN, Reg.Cxl.HDM_SEGS,
   Reg.Cxl.ERR, Reg.Cxl.MULTI, Reg.Cxl.KIND,
   Reg.Cxl.WRITE, Reg.Cxl.EADDR_LO, Reg.Cxl.EADDR_HI,
   Reg.Cxl.HOST_UNMAPPED, Reg.Cxl.GATHER_PARTIAL, Reg.Cxl.LINK_DROPPED,
   Reg.Cxl.POLDER_VEC, Reg.Cxl.HUB_VEC, Reg.Cxl.RATE,
   Reg.Cxl.FLIT256, Reg.Cxl.WIDTH]
/-- Every field of the Cxl page. -/
def Reg.Cxl.fields : List FieldSpec := Reg.Cxl.fields0


/-! Fields of the HubAcct page. -/

/-- R435 FWD_LO: Payload bytes of crossings forwarded for other modules, bits [31:0] -/
def Reg.HubAcct.FWD_LO : FieldSpec := ⟨0x100, [], 31, 0, .ro, 0x0⟩
/-- R435 FWD_HI: Bits [47:32] -/
def Reg.HubAcct.FWD_HI : FieldSpec := ⟨0x104, [], 15, 0, .ro, 0x0⟩
/-- R435 HUB_ENERGY_LO: Energy into the hub die and its regulators, mJ, bits [31:0] -/
def Reg.HubAcct.HUB_ENERGY_LO : FieldSpec := ⟨0x108, [], 31, 0, .ro, 0x0⟩
/-- R435 HUB_ENERGY_HI: Bits [47:32] -/
def Reg.HubAcct.HUB_ENERGY_HI : FieldSpec := ⟨0x10C, [], 15, 0, .ro, 0x0⟩
/-- Fields of the HubAcct page, part 0. -/
def Reg.HubAcct.fields0 : List FieldSpec :=
  [Reg.HubAcct.FWD_LO, Reg.HubAcct.FWD_HI, Reg.HubAcct.HUB_ENERGY_LO,
   Reg.HubAcct.HUB_ENERGY_HI]
/-- Every field of the HubAcct page. -/
def Reg.HubAcct.fields : List FieldSpec := Reg.HubAcct.fields0


/-! Fields of the Trace page. -/

/-- R495 DEST: 0 none, 1 LPDDR5X ring, 2 host ring; 3 reserved -/
def Reg.Trace.DEST : FieldSpec := ⟨0x100, [], 1, 0, .st, 0x0⟩
/-- R495 WRAP: LPDDR5X ring overwrites its oldest records -/
def Reg.Trace.WRAP : FieldSpec := ⟨0x100, [], 2, 2, .st, 0x0⟩
/-- R495 RING_LOG2: Ring of 2^n bytes, 0x10–0x28 -/
def Reg.Trace.RING_LOG2 : FieldSpec := ⟨0x100, [], 8, 3, .st, 0x0⟩
/-- R495 SNAP_STEP: Bit p: snapshot at each step boundary of polder p -/
def Reg.Trace.SNAP_STEP : FieldSpec := ⟨0x100, [], 12, 9, .st, 0x0⟩
/-- R495 SNAP_SYNC: Snapshot at each sync edge -/
def Reg.Trace.SNAP_SYNC : FieldSpec := ⟨0x100, [], 13, 13, .st, 0x0⟩
/-- R495 SNAP_STALL: Snapshots include the stall counters -/
def Reg.Trace.SNAP_STALL : FieldSpec := ⟨0x100, [], 14, 14, .st, 0x0⟩
/-- R495 RING_LO: Ring address [31:0]; [15:0] zero -/
def Reg.Trace.RING_LO : FieldSpec := ⟨0x104, [], 31, 0, .st, 0x0⟩
/-- R495 RING_HI: Address [63:32]; a module address uses [15:0] only -/
def Reg.Trace.RING_HI : FieldSpec := ⟨0x108, [], 31, 0, .st, 0x0⟩
/-- R495 RING_HEAD: Offset of the next byte written -/
def Reg.Trace.RING_HEAD : FieldSpec := ⟨0x10C, [], 31, 0, .ro, 0x0⟩
/-- R495 RING_TAIL: Host ring: offset consumed by the host -/
def Reg.Trace.RING_TAIL : FieldSpec := ⟨0x110, [], 31, 0, .rw, 0x0⟩
/-- R495 RING_OLDEST: Offset of the oldest whole record -/
def Reg.Trace.RING_OLDEST : FieldSpec := ⟨0x114, [], 31, 0, .ro, 0x0⟩
/-- R495 OCC: Bytes held in the trace buffer -/
def Reg.Trace.OCC : FieldSpec := ⟨0x118, [], 23, 0, .ro, 0x0⟩
/-- R495 SNAPNOW: Trigger a snapshot -/
def Reg.Trace.SNAPNOW : FieldSpec := ⟨0x11C, [], 0, 0, .wo, 0x0⟩
/-- R495 SNAP_LOST: Snapshots dropped, saturating -/
def Reg.Trace.SNAP_LOST : FieldSpec := ⟨0x120, [], 31, 0, .rc, 0x0⟩
/-- R495 TP_LOST: Towpath records dropped, saturating -/
def Reg.Trace.TP_LOST : FieldSpec := ⟨0x124, [], 31, 0, .rc, 0x0⟩
/-- R495 TP_IGNORED: Host inputs discarded under R487, saturating -/
def Reg.Trace.TP_IGNORED : FieldSpec := ⟨0x128, [], 31, 0, .rc, 0x0⟩
/-- R495 MODE: Under R483 -/
def Reg.Trace.MODE : FieldSpec := ⟨0x140, [(0x20, 4)], 1, 0, .st, 0x0⟩
/-- R495 CONTENT: Record ingest bytes in full -/
def Reg.Trace.CONTENT : FieldSpec := ⟨0x140, [(0x20, 4)], 2, 2, .st, 0x0⟩
/-- R495 HOSTW: Record host-write lines in full -/
def Reg.Trace.HOSTW : FieldSpec := ⟨0x140, [(0x20, 4)], 3, 3, .st, 0x0⟩
/-- R495 DIV_FREEZE: Freeze on the first divergence -/
def Reg.Trace.DIV_FREEZE : FieldSpec := ⟨0x140, [(0x20, 4)], 4, 4, .st, 0x0⟩
/-- R495 LFIRST: First landing of the polder's inputs -/
def Reg.Trace.LFIRST : FieldSpec := ⟨0x144, [(0x20, 4)], 12, 0, .st, 0x0⟩
/-- R495 LLAST: Last such landing -/
def Reg.Trace.LLAST : FieldSpec := ⟨0x144, [(0x20, 4)], 25, 13, .st, 0x0⟩
/-- R495 RPL_LO: Replay source [31:0]; [15:0] zero -/
def Reg.Trace.RPL_LO : FieldSpec := ⟨0x148, [(0x20, 4)], 31, 0, .st, 0x0⟩
/-- R495 RPL_HI: Address [47:32] -/
def Reg.Trace.RPL_HI : FieldSpec := ⟨0x14C, [(0x20, 4)], 15, 0, .st, 0x0⟩
/-- R495 RPL_LEN: Replay source in 64 KiB granules, minus one -/
def Reg.Trace.RPL_LEN : FieldSpec := ⟨0x150, [(0x20, 4)], 23, 0, .st, 0x0⟩
/-- R495 DIVERGED: A divergence is recorded -/
def Reg.Trace.DIVERGED : FieldSpec := ⟨0x154, [(0x20, 4)], 0, 0, .w1c, 0x0⟩
/-- R495 DKIND: Under R488; 6 and 7 reserved -/
def Reg.Trace.DKIND : FieldSpec := ⟨0x154, [(0x20, 4)], 3, 1, .ro, 0x0⟩
/-- R495 DTYPE: Record type concerned -/
def Reg.Trace.DTYPE : FieldSpec := ⟨0x154, [(0x20, 4)], 11, 4, .ro, 0x0⟩
/-- R495 DSEQ: SEQ of the record concerned -/
def Reg.Trace.DSEQ : FieldSpec := ⟨0x158, [(0x20, 4)], 31, 0, .ro, 0x0⟩
/-- R495 DSTEP: Step of the divergence -/
def Reg.Trace.DSTEP : FieldSpec := ⟨0x15C, [(0x20, 4)], 31, 0, .ro, 0x0⟩
/-- R495 DKEY: KEY concerned -/
def Reg.Trace.DKEY : FieldSpec := ⟨0x1C0, [(0x8, 4)], 31, 0, .ro, 0x0⟩
/-- R495 DCOUNT: Divergences detected, saturating -/
def Reg.Trace.DCOUNT : FieldSpec := ⟨0x1C4, [(0x8, 4)], 31, 0, .rc, 0x0⟩
/-- R495 LIVE_BASE: Live region r: address [47:16] -/
def Reg.Trace.LIVE_BASE : FieldSpec := ⟨0x200, [(0x80, 4), (0x8, 16)], 31, 0, .st, 0x0⟩
/-- R495 LIVE_LEN: Granules, minus one -/
def Reg.Trace.LIVE_LEN : FieldSpec := ⟨0x204, [(0x80, 4), (0x8, 16)], 19, 0, .st, 0x0⟩
/-- R495 LIVE_EN: Region enabled -/
def Reg.Trace.LIVE_EN : FieldSpec := ⟨0x204, [(0x80, 4), (0x8, 16)], 31, 31, .st, 0x0⟩
/-- R495 CHAIN: CHAIN; word 0 holds bytes 0–3 -/
def Reg.Trace.CHAIN : FieldSpec := ⟨0x400, [(0x40, 4), (0x4, 8)], 31, 0, .ro, 0x0⟩
/-- R495 CHAIN_STEP: CHAIN_STEP -/
def Reg.Trace.CHAIN_STEP : FieldSpec := ⟨0x420, [(0x40, 4), (0x4, 8)], 31, 0, .ro, 0x0⟩
/-- Fields of the Trace page, part 0. -/
def Reg.Trace.fields0 : List FieldSpec :=
  [Reg.Trace.DEST, Reg.Trace.WRAP, Reg.Trace.RING_LOG2,
   Reg.Trace.SNAP_STEP, Reg.Trace.SNAP_SYNC, Reg.Trace.SNAP_STALL,
   Reg.Trace.RING_LO, Reg.Trace.RING_HI, Reg.Trace.RING_HEAD,
   Reg.Trace.RING_TAIL, Reg.Trace.RING_OLDEST, Reg.Trace.OCC,
   Reg.Trace.SNAPNOW, Reg.Trace.SNAP_LOST, Reg.Trace.TP_LOST,
   Reg.Trace.TP_IGNORED, Reg.Trace.MODE, Reg.Trace.CONTENT,
   Reg.Trace.HOSTW, Reg.Trace.DIV_FREEZE, Reg.Trace.LFIRST,
   Reg.Trace.LLAST, Reg.Trace.RPL_LO, Reg.Trace.RPL_HI]
/-- Fields of the Trace page, part 1. -/
def Reg.Trace.fields1 : List FieldSpec :=
  [Reg.Trace.RPL_LEN, Reg.Trace.DIVERGED, Reg.Trace.DKIND,
   Reg.Trace.DTYPE, Reg.Trace.DSEQ, Reg.Trace.DSTEP,
   Reg.Trace.DKEY, Reg.Trace.DCOUNT, Reg.Trace.LIVE_BASE,
   Reg.Trace.LIVE_LEN, Reg.Trace.LIVE_EN, Reg.Trace.CHAIN,
   Reg.Trace.CHAIN_STEP]
/-- Every field of the Trace page. -/
def Reg.Trace.fields : List FieldSpec := Reg.Trace.fields0 ++ Reg.Trace.fields1


/-! Fields of the Manifest page. -/

/-- R496 JOB_LO: Job descriptor [31:0]; [5:0] zero -/
def Reg.Manifest.JOB_LO : FieldSpec := ⟨0x100, [(0x20, 4)], 31, 0, .rw, 0x0⟩
/-- R496 JOB_HI: Address [47:32] -/
def Reg.Manifest.JOB_HI : FieldSpec := ⟨0x104, [(0x20, 4)], 15, 0, .rw, 0x0⟩
/-- R496 GO: Start the job -/
def Reg.Manifest.GO : FieldSpec := ⟨0x108, [(0x20, 4)], 0, 0, .wo, 0x0⟩
/-- R496 BUSY: Job in progress -/
def Reg.Manifest.BUSY : FieldSpec := ⟨0x108, [(0x20, 4)], 1, 1, .ro, 0x0⟩
/-- R496 MF_ERR: Under R493; 0 none; 6 and 7 reserved -/
def Reg.Manifest.MF_ERR : FieldSpec := ⟨0x108, [(0x20, 4)], 4, 2, .ro, 0x0⟩
/-- R496 MF_DONE: A job has ended -/
def Reg.Manifest.MF_DONE : FieldSpec := ⟨0x108, [(0x20, 4)], 5, 5, .w1c, 0x0⟩
/-- R496 HASHED: Leaves hashed in the current or last job -/
def Reg.Manifest.HASHED : FieldSpec := ⟨0x10C, [(0x20, 4)], 31, 0, .ro, 0x0⟩
/-- Fields of the Manifest page, part 0. -/
def Reg.Manifest.fields0 : List FieldSpec :=
  [Reg.Manifest.JOB_LO, Reg.Manifest.JOB_HI, Reg.Manifest.GO,
   Reg.Manifest.BUSY, Reg.Manifest.MF_ERR, Reg.Manifest.MF_DONE,
   Reg.Manifest.HASHED]
/-- Every field of the Manifest page. -/
def Reg.Manifest.fields : List FieldSpec := Reg.Manifest.fields0


/-! Fields of the Routing page. -/

/-- R334 MODID: Module identity -/
def Reg.Routing.MODID : FieldSpec := ⟨0x100, [], 11, 0, .st, 0x0⟩
/-- R334 DIMS: Dimensions, 1–6; 0 and 7 reserved -/
def Reg.Routing.DIMS : FieldSpec := ⟨0x100, [], 14, 12, .st, 0x1⟩
/-- R334 E2E_TO: PUT timeout, µs, from 0x0001 -/
def Reg.Routing.E2E_TO : FieldSpec := ⟨0x104, [], 15, 0, .st, 0x1f4⟩
/-- R334 SHIFT: Lowest identity bit of the coordinate -/
def Reg.Routing.SHIFT : FieldSpec := ⟨0x110, [(0x10, 6)], 3, 0, .st, 0x0⟩
/-- R334 WIDTH: Coordinate bits, 1–12 -/
def Reg.Routing.WIDTH : FieldSpec := ⟨0x110, [(0x10, 6)], 7, 4, .st, 0x1⟩
/-- R334 EXT: Extent minus one -/
def Reg.Routing.EXT : FieldSpec := ⟨0x110, [(0x10, 6)], 19, 8, .st, 0x0⟩
/-- R334 TORUS: 1: ring; 0: line -/
def Reg.Routing.TORUS : FieldSpec := ⟨0x110, [(0x10, 6)], 20, 20, .st, 0x0⟩
/-- R334 PMASK: Ports towards higher coordinates -/
def Reg.Routing.PMASK : FieldSpec := ⟨0x114, [(0x10, 6)], 15, 0, .st, 0x0⟩
/-- R334 MMASK: Ports towards lower coordinates -/
def Reg.Routing.MMASK : FieldSpec := ⟨0x114, [(0x10, 6)], 31, 16, .st, 0x0⟩
/-- R334 RXW_BASE: Receive window w, address [31:12] -/
def Reg.Routing.RXW_BASE : FieldSpec := ⟨0x180, [(0x10, 16)], 31, 12, .st, 0x0⟩
/-- R334 RXW_BASE_HI: Address [47:32] -/
def Reg.Routing.RXW_BASE_HI : FieldSpec := ⟨0x184, [(0x10, 16)], 15, 0, .st, 0x0⟩
/-- R334 RXW_LEN: 4 KiB blocks, minus one -/
def Reg.Routing.RXW_LEN : FieldSpec := ⟨0x188, [(0x10, 16)], 27, 0, .st, 0x0⟩
/-- R334 RXW_EN: Window enabled -/
def Reg.Routing.RXW_EN : FieldSpec := ⟨0x188, [(0x10, 16)], 31, 31, .st, 0x0⟩
/-- R334 RXL_FIRST: First landing open to remote signals -/
def Reg.Routing.RXL_FIRST : FieldSpec := ⟨0x280, [], 12, 0, .st, 0x0⟩
/-- R334 RXL_LAST: Last such landing -/
def Reg.Routing.RXL_LAST : FieldSpec := ⟨0x280, [], 25, 13, .st, 0x0⟩
/-- R334 RXL_EN: Remote signals accepted -/
def Reg.Routing.RXL_EN : FieldSpec := ⟨0x280, [], 31, 31, .st, 0x0⟩
/-- R334 UNROUTABLE: Crossings discarded under R310 -/
def Reg.Routing.UNROUTABLE : FieldSpec := ⟨0x284, [], 31, 0, .rc, 0x0⟩
/-- R334 REFUSED: PUTs and signals refused under R316 -/
def Reg.Routing.REFUSED : FieldSpec := ⟨0x288, [], 31, 0, .rc, 0x0⟩
/-- Fields of the Routing page, part 0. -/
def Reg.Routing.fields0 : List FieldSpec :=
  [Reg.Routing.MODID, Reg.Routing.DIMS, Reg.Routing.E2E_TO,
   Reg.Routing.SHIFT, Reg.Routing.WIDTH, Reg.Routing.EXT,
   Reg.Routing.TORUS, Reg.Routing.PMASK, Reg.Routing.MMASK,
   Reg.Routing.RXW_BASE, Reg.Routing.RXW_BASE_HI, Reg.Routing.RXW_LEN,
   Reg.Routing.RXW_EN, Reg.Routing.RXL_FIRST, Reg.Routing.RXL_LAST,
   Reg.Routing.RXL_EN, Reg.Routing.UNROUTABLE, Reg.Routing.REFUSED]
/-- Every field of the Routing page. -/
def Reg.Routing.fields : List FieldSpec := Reg.Routing.fields0


/-! Fields of the WorkQ page. -/

/-- R335 RING_LO: Ring address [31:0], 128-byte aligned -/
def Reg.WorkQ.RING_LO : FieldSpec := ⟨0x100, [(0x20, 32)], 31, 0, .st, 0x0⟩
/-- R335 RING_HI: Ring address [47:32] -/
def Reg.WorkQ.RING_HI : FieldSpec := ⟨0x104, [(0x20, 32)], 15, 0, .st, 0x0⟩
/-- R335 LOG2: Ring of 2^LOG2 descriptors, 0x00–0x10 -/
def Reg.WorkQ.LOG2 : FieldSpec := ⟨0x104, [(0x20, 32)], 20, 16, .st, 0x0⟩
/-- R335 QLANDING: Landing claimed at slot 11 -/
def Reg.WorkQ.QLANDING : FieldSpec := ⟨0x108, [(0x20, 32)], 12, 0, .st, 0x0⟩
/-- R335 HDIE: Home core: logical die -/
def Reg.WorkQ.HDIE : FieldSpec := ⟨0x108, [(0x20, 32)], 15, 13, .st, 0x0⟩
/-- R335 HCLU: Home core: cluster -/
def Reg.WorkQ.HCLU : FieldSpec := ⟨0x108, [(0x20, 32)], 18, 16, .st, 0x0⟩
/-- R335 HCORE: Home core: logical core -/
def Reg.WorkQ.HCORE : FieldSpec := ⟨0x108, [(0x20, 32)], 21, 19, .st, 0x0⟩
/-- R335 TC3: PUTs on TC3; 0: on TC2 -/
def Reg.WorkQ.TC3 : FieldSpec := ⟨0x108, [(0x20, 32)], 22, 22, .st, 0x0⟩
/-- R335 QEN: Queue enabled; clearing it resets CSEQ -/
def Reg.WorkQ.QEN : FieldSpec := ⟨0x108, [(0x20, 32)], 23, 23, .st, 0x0⟩
/-- R335 HEAD: Ring index of the next descriptor to be claimed -/
def Reg.WorkQ.HEAD : FieldSpec := ⟨0x10C, [(0x20, 32)], 15, 0, .ro, 0x0⟩
/-- R335 DONE: Ring index of the next descriptor to complete -/
def Reg.WorkQ.DONE : FieldSpec := ⟨0x10C, [(0x20, 32)], 31, 16, .ro, 0x0⟩
/-- R335 CSEQ: Collectives started since QEN was set -/
def Reg.WorkQ.CSEQ : FieldSpec := ⟨0x110, [(0x20, 32)], 15, 0, .ro, 0x0⟩
/-- R335 INFLIGHT: PUTs in flight, 0x00–0x80 -/
def Reg.WorkQ.INFLIGHT : FieldSpec := ⟨0x110, [(0x20, 32)], 23, 16, .ro, 0x0⟩
/-- Fields of the WorkQ page, part 0. -/
def Reg.WorkQ.fields0 : List FieldSpec :=
  [Reg.WorkQ.RING_LO, Reg.WorkQ.RING_HI, Reg.WorkQ.LOG2,
   Reg.WorkQ.QLANDING, Reg.WorkQ.HDIE, Reg.WorkQ.HCLU,
   Reg.WorkQ.HCORE, Reg.WorkQ.TC3, Reg.WorkQ.QEN,
   Reg.WorkQ.HEAD, Reg.WorkQ.DONE, Reg.WorkQ.CSEQ,
   Reg.WorkQ.INFLIGHT]
/-- Every field of the WorkQ page. -/
def Reg.WorkQ.fields : List FieldSpec := Reg.WorkQ.fields0


/-! Fields of the SluiceQ page. -/

/-- R363 RING_LO: Ring address [31:0], 128-byte aligned -/
def Reg.SluiceQ.RING_LO : FieldSpec := ⟨0x100, [(0x20, 8)], 31, 0, .st, 0x0⟩
/-- R363 RING_HI: Ring address [47:32] -/
def Reg.SluiceQ.RING_HI : FieldSpec := ⟨0x104, [(0x20, 8)], 15, 0, .st, 0x0⟩
/-- R363 LOG2: Ring of 2^LOG2 jobs, 0x00–0x10 -/
def Reg.SluiceQ.LOG2 : FieldSpec := ⟨0x104, [(0x20, 8)], 20, 16, .st, 0x0⟩
/-- R363 QLANDING: Landing claimed at slot 10 -/
def Reg.SluiceQ.QLANDING : FieldSpec := ⟨0x108, [(0x20, 8)], 12, 0, .st, 0x0⟩
/-- R363 HDIE: Home core: logical die -/
def Reg.SluiceQ.HDIE : FieldSpec := ⟨0x108, [(0x20, 8)], 15, 13, .st, 0x0⟩
/-- R363 HCLU: Home core: cluster -/
def Reg.SluiceQ.HCLU : FieldSpec := ⟨0x108, [(0x20, 8)], 18, 16, .st, 0x0⟩
/-- R363 HCORE: Home core: logical core -/
def Reg.SluiceQ.HCORE : FieldSpec := ⟨0x108, [(0x20, 8)], 21, 19, .st, 0x0⟩
/-- R363 QEN: Queue enabled -/
def Reg.SluiceQ.QEN : FieldSpec := ⟨0x108, [(0x20, 8)], 22, 22, .st, 0x0⟩
/-- R363 HEAD: Ring index of the next job to be claimed -/
def Reg.SluiceQ.HEAD : FieldSpec := ⟨0x10C, [(0x20, 8)], 15, 0, .ro, 0x0⟩
/-- R363 DONE: Ring index of the next job to complete -/
def Reg.SluiceQ.DONE : FieldSpec := ⟨0x10C, [(0x20, 8)], 31, 16, .ro, 0x0⟩
/-- R363 JOBS: Jobs completed, saturating -/
def Reg.SluiceQ.JOBS : FieldSpec := ⟨0x110, [(0x20, 8)], 31, 0, .rc, 0x0⟩
/-- R363 ERR: A Sluice error has been recorded -/
def Reg.SluiceQ.ERR : FieldSpec := ⟨0x200, [], 0, 0, .w1c, 0x0⟩
/-- R363 MULTI: More than one since ERR was last cleared; the fields hold the first -/
def Reg.SluiceQ.MULTI : FieldSpec := ⟨0x200, [], 1, 1, .w1c, 0x0⟩
/-- R363 KIND: 0 prefetch hazard, 1 parity, 2 check value, 3 unmapped; 4–7 reserved -/
def Reg.SluiceQ.KIND : FieldSpec := ⟨0x200, [], 4, 2, .ro, 0x0⟩
/-- R363 QUEUE: Queue -/
def Reg.SluiceQ.QUEUE : FieldSpec := ⟨0x200, [], 7, 5, .ro, 0x0⟩
/-- R363 ARRAY: 0 parameter, 1 gradient, 2 first moment, 3 second moment, 4 first-moment scales, 5 second-moment scales,
6 GSADDR; 7 reserved -/
def Reg.SluiceQ.ARRAY : FieldSpec := ⟨0x200, [], 10, 8, .ro, 0x0⟩
/-- R363 WDIE: KIND 0: writer's die, as R201 -/
def Reg.SluiceQ.WDIE : FieldSpec := ⟨0x200, [], 13, 11, .ro, 0x0⟩
/-- R363 WCLU: KIND 0: writer's cluster -/
def Reg.SluiceQ.WCLU : FieldSpec := ⟨0x200, [], 16, 14, .ro, 0x0⟩
/-- R363 WUNIT: KIND 0: writer's unit, as R201 -/
def Reg.SluiceQ.WUNIT : FieldSpec := ⟨0x200, [], 20, 17, .ro, 0x0⟩
/-- R363 ADDR_LO: Address concerned [31:0] -/
def Reg.SluiceQ.ADDR_LO : FieldSpec := ⟨0x204, [], 31, 0, .ro, 0x0⟩
/-- R363 ADDR_HI: Address [47:32] -/
def Reg.SluiceQ.ADDR_HI : FieldSpec := ⟨0x208, [], 15, 0, .ro, 0x0⟩
/-- Fields of the SluiceQ page, part 0. -/
def Reg.SluiceQ.fields0 : List FieldSpec :=
  [Reg.SluiceQ.RING_LO, Reg.SluiceQ.RING_HI, Reg.SluiceQ.LOG2,
   Reg.SluiceQ.QLANDING, Reg.SluiceQ.HDIE, Reg.SluiceQ.HCLU,
   Reg.SluiceQ.HCORE, Reg.SluiceQ.QEN, Reg.SluiceQ.HEAD,
   Reg.SluiceQ.DONE, Reg.SluiceQ.JOBS, Reg.SluiceQ.ERR,
   Reg.SluiceQ.MULTI, Reg.SluiceQ.KIND, Reg.SluiceQ.QUEUE,
   Reg.SluiceQ.ARRAY, Reg.SluiceQ.WDIE, Reg.SluiceQ.WCLU,
   Reg.SluiceQ.WUNIT, Reg.SluiceQ.ADDR_LO, Reg.SluiceQ.ADDR_HI]
/-- Every field of the SluiceQ page. -/
def Reg.SluiceQ.fields : List FieldSpec := Reg.SluiceQ.fields0


/-! Fields of the Wharf page. -/

/-- R242 RTO: Retransmission timer, µs, from 0x0001 -/
def Reg.Wharf.RTO : FieldSpec := ⟨0x100, [], 15, 0, .st, 0xc8⟩
/-- R242 RETRY_MAX: Re-requests of a range before WHARF_TIMEOUT -/
def Reg.Wharf.RETRY_MAX : FieldSpec := ⟨0x100, [], 19, 16, .st, 0x8⟩
/-- R242 IQ_BASE_LO: Batch ring address [31:0], 128-byte aligned -/
def Reg.Wharf.IQ_BASE_LO : FieldSpec := ⟨0x104, [], 31, 0, .st, 0x0⟩
/-- R242 IQ_BASE_HI: Batch ring address [47:32] -/
def Reg.Wharf.IQ_BASE_HI : FieldSpec := ⟨0x108, [], 15, 0, .st, 0x0⟩
/-- R242 IQ_LOG2: Ring of 2^IQ_LOG2 descriptors, 0x00–0x10 -/
def Reg.Wharf.IQ_LOG2 : FieldSpec := ⟨0x108, [], 20, 16, .st, 0x0⟩
/-- R242 IQ_LANDING: Landing claimed for each descriptor -/
def Reg.Wharf.IQ_LANDING : FieldSpec := ⟨0x10C, [], 12, 0, .st, 0x0⟩
/-- R242 IQ_HEAD: Ring index of the next descriptor to be claimed -/
def Reg.Wharf.IQ_HEAD : FieldSpec := ⟨0x110, [], 15, 0, .ro, 0x0⟩
/-- R242 IQ_DONE: Ring index of the next batch to complete -/
def Reg.Wharf.IQ_DONE : FieldSpec := ⟨0x110, [], 31, 16, .ro, 0x0⟩
/-- R242 IQ_TIMEOUT: Timeout of the sequencer's claim on IQ_LANDING, units of 1,024 SCLK; 0x0_0000: no timeout -/
def Reg.Wharf.IQ_TIMEOUT : FieldSpec := ⟨0x114, [], 19, 0, .st, 0x0⟩
/-- R242 PQ_EPOCH: Probe: epoch -/
def Reg.Wharf.PQ_EPOCH : FieldSpec := ⟨0x140, [], 31, 0, .rw, 0x0⟩
/-- R242 PQ_NM1: Probe: N − 1 -/
def Reg.Wharf.PQ_NM1 : FieldSpec := ⟨0x144, [], 31, 0, .rw, 0x0⟩
/-- R242 PQ_POS: Probe: writing p starts an evaluation of π(p) with the live RUN_KEY pair of polder 0 under R512 -/
def Reg.Wharf.PQ_POS : FieldSpec := ⟨0x148, [], 31, 0, .wo, 0x0⟩
/-- R242 PQ_OUT: π(p) once PQ_VALID is 1 -/
def Reg.Wharf.PQ_OUT : FieldSpec := ⟨0x14C, [], 31, 0, .ro, 0x0⟩
/-- R242 PQ_VALID: PQ_OUT holds the result of the last PQ_POS write -/
def Reg.Wharf.PQ_VALID : FieldSpec := ⟨0x150, [], 0, 0, .ro, 0x0⟩
/-- R242 EP_ADDR: Endpoint e's IP address, four words at +0x00 to +0x0C -/
def Reg.Wharf.EP_ADDR : FieldSpec := ⟨0x200, [(0x4, 4), (0x20, 16)], 31, 0, .st, 0x0⟩
/-- R242 EP_PORT: Endpoint e's UDP port -/
def Reg.Wharf.EP_PORT : FieldSpec := ⟨0x210, [(0x20, 16)], 15, 0, .st, 0x0⟩
/-- R242 NH0_LO: Next-hop MAC through port 0, bytes 2–5 -/
def Reg.Wharf.NH0_LO : FieldSpec := ⟨0x214, [(0x20, 16)], 31, 0, .st, 0x0⟩
/-- R242 NH0_HI: Bytes 0–1 -/
def Reg.Wharf.NH0_HI : FieldSpec := ⟨0x218, [(0x20, 16)], 15, 0, .st, 0x0⟩
/-- R242 NH1_HI: Next-hop MAC through port 1, bytes 0–1 -/
def Reg.Wharf.NH1_HI : FieldSpec := ⟨0x218, [(0x20, 16)], 31, 16, .st, 0x0⟩
/-- R242 NH1_LO: Bytes 2–5 -/
def Reg.Wharf.NH1_LO : FieldSpec := ⟨0x21C, [(0x20, 16)], 31, 0, .st, 0x0⟩
/-- Fields of the Wharf page, part 0. -/
def Reg.Wharf.fields0 : List FieldSpec :=
  [Reg.Wharf.RTO, Reg.Wharf.RETRY_MAX, Reg.Wharf.IQ_BASE_LO,
   Reg.Wharf.IQ_BASE_HI, Reg.Wharf.IQ_LOG2, Reg.Wharf.IQ_LANDING,
   Reg.Wharf.IQ_HEAD, Reg.Wharf.IQ_DONE, Reg.Wharf.IQ_TIMEOUT,
   Reg.Wharf.PQ_EPOCH, Reg.Wharf.PQ_NM1, Reg.Wharf.PQ_POS,
   Reg.Wharf.PQ_OUT, Reg.Wharf.PQ_VALID, Reg.Wharf.EP_ADDR,
   Reg.Wharf.EP_PORT, Reg.Wharf.NH0_LO, Reg.Wharf.NH0_HI,
   Reg.Wharf.NH1_HI, Reg.Wharf.NH1_LO]
/-- Every field of the Wharf page. -/
def Reg.Wharf.fields : List FieldSpec := Reg.Wharf.fields0


/-! Fields of the Ingest page. -/

/-- R241 MAC_LO: MAC address, bytes 2–5 -/
def Reg.Ingest.MAC_LO : FieldSpec := ⟨0x100, [], 31, 0, .st, 0x0⟩
/-- R241 MAC_HI: MAC address, bytes 0–1 -/
def Reg.Ingest.MAC_HI : FieldSpec := ⟨0x104, [], 15, 0, .st, 0x0⟩
/-- R241 VLAN_EN: Accept and send one 802.1Q tag -/
def Reg.Ingest.VLAN_EN : FieldSpec := ⟨0x104, [], 16, 16, .st, 0x0⟩
/-- R241 VID: VLAN identifier -/
def Reg.Ingest.VID : FieldSpec := ⟨0x104, [], 28, 17, .st, 0x0⟩
/-- R241 IPV4: IPv4 address -/
def Reg.Ingest.IPV4 : FieldSpec := ⟨0x108, [], 31, 0, .st, 0x0⟩
/-- R241 IPV6_: IPv6 address; word 0 holds the first four bytes -/
def Reg.Ingest.IPV6 : FieldSpec := ⟨0x10C, [(0x4, 4)], 31, 0, .st, 0x0⟩
/-- R241 UDP_PORT: Local UDP port -/
def Reg.Ingest.UDP_PORT : FieldSpec := ⟨0x11C, [], 15, 0, .st, 0x0⟩
/-- R241 V6: 1: transmit over IPv6 -/
def Reg.Ingest.V6 : FieldSpec := ⟨0x11C, [], 16, 16, .st, 0x0⟩
/-- R241 DSCP: DSCP of transmitted datagrams -/
def Reg.Ingest.DSCP : FieldSpec := ⟨0x11C, [], 22, 17, .st, 0x0⟩
/-- R241 RX_ACCEPT: Frames accepted, saturating -/
def Reg.Ingest.RX_ACCEPT : FieldSpec := ⟨0x120, [], 31, 0, .rc, 0x0⟩
/-- R241 RX_FILTER: Frames dropped by address, tag, protocol or port -/
def Reg.Ingest.RX_FILTER : FieldSpec := ⟨0x124, [], 31, 0, .rc, 0x0⟩
/-- R241 RX_BAD: Frames dropped for FCS, length or checksum -/
def Reg.Ingest.RX_BAD : FieldSpec := ⟨0x128, [], 31, 0, .rc, 0x0⟩
/-- R241 OVERSIZE: DATA datagrams larger than the channel buffer -/
def Reg.Ingest.OVERSIZE : FieldSpec := ⟨0x12C, [], 31, 0, .rc, 0x0⟩
/-- R241 STRAY: Datagrams matching no outstanding READ -/
def Reg.Ingest.STRAY : FieldSpec := ⟨0x130, [], 31, 0, .rc, 0x0⟩
/-- R241 DUP: DATA datagrams already received -/
def Reg.Ingest.DUP : FieldSpec := ⟨0x134, [], 31, 0, .rc, 0x0⟩
/-- R241 TX_READ: READ datagrams sent, retransmissions included -/
def Reg.Ingest.TX_READ : FieldSpec := ⟨0x138, [], 31, 0, .rc, 0x0⟩
/-- R241 RETRANS: READ datagrams sent by R216 -/
def Reg.Ingest.RETRANS : FieldSpec := ⟨0x13C, [], 31, 0, .rc, 0x0⟩
/-- Fields of the Ingest page, part 0. -/
def Reg.Ingest.fields0 : List FieldSpec :=
  [Reg.Ingest.MAC_LO, Reg.Ingest.MAC_HI, Reg.Ingest.VLAN_EN,
   Reg.Ingest.VID, Reg.Ingest.IPV4, Reg.Ingest.IPV6,
   Reg.Ingest.UDP_PORT, Reg.Ingest.V6, Reg.Ingest.DSCP,
   Reg.Ingest.RX_ACCEPT, Reg.Ingest.RX_FILTER, Reg.Ingest.RX_BAD,
   Reg.Ingest.OVERSIZE, Reg.Ingest.STRAY, Reg.Ingest.DUP,
   Reg.Ingest.TX_READ, Reg.Ingest.RETRANS]
/-- Every field of the Ingest page. -/
def Reg.Ingest.fields : List FieldSpec := Reg.Ingest.fields0


/-! Fields of the DieLink page. -/

/-- R513 SLOT_OUT_E: OUT entries of the link to die d -/
def Reg.DieLink.SLOT_OUT_E : FieldSpec := ⟨0x400, [(0x100, 4), (0x4, 32)], 15, 0, .st, 0x0⟩
/-- R513 SLOT_OUT_O: OUT entries of the link to die d -/
def Reg.DieLink.SLOT_OUT_O : FieldSpec := ⟨0x400, [(0x100, 4), (0x4, 32)], 31, 16, .st, 0x0⟩
/-- R513 SLOT_IN_E: IN entries of the link to die d -/
def Reg.DieLink.SLOT_IN_E : FieldSpec := ⟨0x480, [(0x100, 4), (0x4, 32)], 15, 0, .st, 0x0⟩
/-- R513 SLOT_IN_O: IN entries of the link to die d -/
def Reg.DieLink.SLOT_IN_O : FieldSpec := ⟨0x480, [(0x100, 4), (0x4, 32)], 31, 16, .st, 0x0⟩
/-- Fields of the DieLink page, part 0. -/
def Reg.DieLink.fields0 : List FieldSpec :=
  [Reg.DieLink.SLOT_OUT_E, Reg.DieLink.SLOT_OUT_O, Reg.DieLink.SLOT_IN_E,
   Reg.DieLink.SLOT_IN_O]
/-- Every field of the DieLink page. -/
def Reg.DieLink.fields : List FieldSpec := Reg.DieLink.fields0


/-! Fields of the Ferry page. -/

/-- R333 PORT_EN: 1: train and run the port -/
def Reg.Ferry.PORT_EN : FieldSpec := ⟨0x100, [], 0, 0, .st, 0x0⟩
/-- R333 MARGIN_EN: Margin MARGIN_LANE on the spare under R306 -/
def Reg.Ferry.MARGIN_EN : FieldSpec := ⟨0x100, [], 1, 1, .st, 0x0⟩
/-- R333 MARGIN_LANE: Logical lane 0–7 -/
def Reg.Ferry.MARGIN_LANE : FieldSpec := ⟨0x100, [], 4, 2, .st, 0x0⟩
/-- R333 PSTATE: 0 down, 1 training, 2 up, 3 retrying -/
def Reg.Ferry.PSTATE : FieldSpec := ⟨0x104, [], 1, 0, .ro, 0x0⟩
/-- R333 SPARE_FOR: Logical lane 0x0–0x7 carried by the spare; 0xF spare free; others reserved -/
def Reg.Ferry.SPARE_FOR : FieldSpec := ⟨0x104, [], 5, 2, .ro, 0xf⟩
/-- R333 FAILS: Consecutive failed retries, 0–3 -/
def Reg.Ferry.FAILS : FieldSpec := ⟨0x104, [], 7, 6, .ro, 0x0⟩
/-- R333 MARGINING: Margining in progress -/
def Reg.Ferry.MARGINING : FieldSpec := ⟨0x104, [], 8, 8, .ro, 0x0⟩
/-- R333 RETRIES: Retries started, saturating -/
def Reg.Ferry.RETRIES : FieldSpec := ⟨0x108, [], 31, 0, .rc, 0x0⟩
/-- R333 SWAPS: Lane swaps -/
def Reg.Ferry.SWAPS : FieldSpec := ⟨0x10C, [], 15, 0, .rc, 0x0⟩
/-- R333 MARGIN_ABORT: Margining stopped for repair -/
def Reg.Ferry.MARGIN_ABORT : FieldSpec := ⟨0x10C, [], 31, 16, .rc, 0x0⟩
/-- R333 BAD_CROSS: Crossings discarded under R297 -/
def Reg.Ferry.BAD_CROSS : FieldSpec := ⟨0x110, [], 31, 0, .rc, 0x0⟩
/-- R333 SYM_ERR: Symbol errors on physical lane l; lane 8 is the spare -/
def Reg.Ferry.SYM_ERR : FieldSpec := ⟨0x114, [(0x4, 9)], 31, 0, .rc, 0x0⟩
/-- R333 MARGIN_EYE: Last measured eye: [7:0] horizontal, [15:8] vertical, in steps of the sweep -/
def Reg.Ferry.MARGIN_EYE : FieldSpec := ⟨0x138, [], 15, 0, .ro, 0x0⟩
/-- R333 SLICE_E: Entry 8w + i in bits [4i+2:4i]: VC 2–7 whose slice it is; bit 4i + 3 reserved; 0 and 1 reserved -/
def Reg.Ferry.SLICE_E : FieldSpec := ⟨0x140, [(0x8, 2)], 31, 0, .st, 0x43625342⟩
/-- R333 SLICE_O: As above -/
def Reg.Ferry.SLICE_O : FieldSpec := ⟨0x144, [(0x8, 2)], 31, 0, .st, 0x53427352⟩
/-- Fields of the Ferry page, part 0. -/
def Reg.Ferry.fields0 : List FieldSpec :=
  [Reg.Ferry.PORT_EN, Reg.Ferry.MARGIN_EN, Reg.Ferry.MARGIN_LANE,
   Reg.Ferry.PSTATE, Reg.Ferry.SPARE_FOR, Reg.Ferry.FAILS,
   Reg.Ferry.MARGINING, Reg.Ferry.RETRIES, Reg.Ferry.SWAPS,
   Reg.Ferry.MARGIN_ABORT, Reg.Ferry.BAD_CROSS, Reg.Ferry.SYM_ERR,
   Reg.Ferry.MARGIN_EYE, Reg.Ferry.SLICE_E, Reg.Ferry.SLICE_O]
/-- Every field of the Ferry page. -/
def Reg.Ferry.fields : List FieldSpec := Reg.Ferry.fields0


/-! Fields of the Program page. -/

/-- R267 IMG_LO: Image address [31:0] -/
def Reg.Program.IMG_LO : FieldSpec := ⟨0x100, [], 31, 0, .rw, 0x0⟩
/-- R267 IMG_HI: Image address [47:32] -/
def Reg.Program.IMG_HI : FieldSpec := ⟨0x104, [], 15, 0, .rw, 0x0⟩
/-- R267 PARAM_LO: Load parameter block [31:0] -/
def Reg.Program.PARAM_LO : FieldSpec := ⟨0x108, [], 31, 0, .rw, 0x0⟩
/-- R267 PARAM_HI: Load parameter block [47:32] -/
def Reg.Program.PARAM_HI : FieldSpec := ⟨0x10C, [], 15, 0, .rw, 0x0⟩
/-- R267 LOAD: Writing 1 starts a load while STATE is 0 or 2 -/
def Reg.Program.LOAD : FieldSpec := ⟨0x110, [], 0, 0, .wo, 0x0⟩
/-- R267 RUN: 1: run steps; cleared at a step boundary by R251 -/
def Reg.Program.RUN : FieldSpec := ⟨0x110, [], 1, 1, .st, 0x0⟩
/-- R267 STATE: 0 idle, 1 loading, 2 loaded, 3 running -/
def Reg.Program.STATE : FieldSpec := ⟨0x114, [], 1, 0, .ro, 0x0⟩
/-- R267 LERR: 0 none, 1 magic or version, 2 digest, 3 reserved encoding, 4 too few dies, 5 section outside image, 6
argument count, 7 allocation windows; others reserved -/
def Reg.Program.LERR : FieldSpec := ⟨0x114, [], 5, 2, .ro, 0x0⟩
/-- R267 PROGRAM_DIGEST: Computed digest; word 0 holds bytes 0–3 -/
def Reg.Program.PROGRAM_DIGEST : FieldSpec := ⟨0x120, [(0x4, 8)], 31, 0, .ro, 0x0⟩
/-- Fields of the Program page, part 0. -/
def Reg.Program.fields0 : List FieldSpec :=
  [Reg.Program.IMG_LO, Reg.Program.IMG_HI, Reg.Program.PARAM_LO,
   Reg.Program.PARAM_HI, Reg.Program.LOAD, Reg.Program.RUN,
   Reg.Program.STATE, Reg.Program.LERR, Reg.Program.PROGRAM_DIGEST]
/-- Every field of the Program page. -/
def Reg.Program.fields : List FieldSpec := Reg.Program.fields0


/-! Fields of the Phase page. -/

/-- R365 BWD_LANDING: Landing whose first signal in a step starts BACKWARD -/
def Reg.Phase.BWD_LANDING : FieldSpec := ⟨0x100, [], 12, 0, .st, 0x0⟩
/-- R365 BWD_EN: BWD_LANDING in use -/
def Reg.Phase.BWD_EN : FieldSpec := ⟨0x100, [], 13, 13, .st, 0x0⟩
/-- R365 CPHASE: 0 FORWARD, 1 BACKWARD -/
def Reg.Phase.CPHASE : FieldSpec := ⟨0x100, [], 14, 14, .ro, 0x0⟩
/-- R365 HREC_LO: Host record ring, address [31:0]; [5:0] zero -/
def Reg.Phase.HREC_LO : FieldSpec := ⟨0x104, [], 31, 0, .st, 0x0⟩
/-- R365 HREC_HI: Address [63:32] -/
def Reg.Phase.HREC_HI : FieldSpec := ⟨0x108, [], 31, 0, .st, 0x0⟩
/-- R365 HREC_LOG2: Ring of 2^HREC_LOG2 records -/
def Reg.Phase.HREC_LOG2 : FieldSpec := ⟨0x10C, [], 3, 0, .st, 0x0⟩
/-- R365 HREC_EN: Records are written -/
def Reg.Phase.HREC_EN : FieldSpec := ⟨0x10C, [], 4, 4, .st, 0x0⟩
/-- R365 HREC_NEXT: Records written since HREC_EN was set -/
def Reg.Phase.HREC_NEXT : FieldSpec := ⟨0x110, [], 31, 0, .ro, 0x0⟩
/-- R365 LIVE: Current step's value of record word 0x08 + 4i -/
def Reg.Phase.LIVE : FieldSpec := ⟨0x140, [(0x4, 13)], 31, 0, .ro, 0x0⟩
/-- R365 LFIRST: LCLASS range r: first landing -/
def Reg.Phase.LFIRST : FieldSpec := ⟨0x180, [(0x4, 16)], 12, 0, .st, 0x0⟩
/-- R365 LLAST: Last landing -/
def Reg.Phase.LLAST : FieldSpec := ⟨0x180, [(0x4, 16)], 25, 13, .st, 0x0⟩
/-- R365 CLASS: 0 PEER, 1 COLLECTIVE, 2 INGEST, 3 HOST -/
def Reg.Phase.CLASS : FieldSpec := ⟨0x180, [(0x4, 16)], 27, 26, .st, 0x0⟩
/-- R365 LC_EN: Range enabled -/
def Reg.Phase.LC_EN : FieldSpec := ⟨0x180, [(0x4, 16)], 31, 31, .st, 0x0⟩
/-- Fields of the Phase page, part 0. -/
def Reg.Phase.fields0 : List FieldSpec :=
  [Reg.Phase.BWD_LANDING, Reg.Phase.BWD_EN, Reg.Phase.CPHASE,
   Reg.Phase.HREC_LO, Reg.Phase.HREC_HI, Reg.Phase.HREC_LOG2,
   Reg.Phase.HREC_EN, Reg.Phase.HREC_NEXT, Reg.Phase.LIVE,
   Reg.Phase.LFIRST, Reg.Phase.LLAST, Reg.Phase.CLASS,
   Reg.Phase.LC_EN]
/-- Every field of the Phase page. -/
def Reg.Phase.fields : List FieldSpec := Reg.Phase.fields0


/-! Fields of the Staithe page. -/

/-- R385 SNAP_EN: Snapshot at each step boundary -/
def Reg.Staithe.SNAP_EN : FieldSpec := ⟨0x100, [], 0, 0, .st, 0x0⟩
/-- R385 BUDDY_EN: Send each snapshot to BUDDY -/
def Reg.Staithe.BUDDY_EN : FieldSpec := ⟨0x100, [], 1, 1, .st, 0x0⟩
/-- R385 ELASTIC: RESTORE skips the NSHARD check -/
def Reg.Staithe.ELASTIC : FieldSpec := ⟨0x100, [], 2, 2, .rw, 0x0⟩
/-- R385 NREG: Region-table entries, minus one -/
def Reg.Staithe.NREG : FieldSpec := ⟨0x100, [], 8, 3, .st, 0x0⟩
/-- R385 STQ: Work-queue number in the XID of Staithe transfers -/
def Reg.Staithe.STQ : FieldSpec := ⟨0x100, [], 13, 9, .st, 0x0⟩
/-- R385 RTAB_LO: Region table, address [31:0]; [11:0] zero -/
def Reg.Staithe.RTAB_LO : FieldSpec := ⟨0x104, [], 31, 0, .st, 0x0⟩
/-- R385 RTAB_HI: Address [47:32] -/
def Reg.Staithe.RTAB_HI : FieldSpec := ⟨0x108, [], 15, 0, .st, 0x0⟩
/-- R385 LOCAL_LO: Local area a, LPDDR5X address [31:0]; [15:0] zero -/
def Reg.Staithe.LOCAL_LO : FieldSpec := ⟨0x10C, [(0x8, 2)], 31, 0, .st, 0x0⟩
/-- R385 LOCAL_HI: Address [47:32] -/
def Reg.Staithe.LOCAL_HI : FieldSpec := ⟨0x110, [(0x8, 2)], 15, 0, .st, 0x0⟩
/-- R385 AREA_G: Granules per area, minus one -/
def Reg.Staithe.AREA_G : FieldSpec := ⟨0x11C, [], 19, 0, .st, 0x0⟩
/-- R385 REMOTE_LO: Remote area a at the buddy, local address [31:0]; [15:0] zero -/
def Reg.Staithe.REMOTE_LO : FieldSpec := ⟨0x120, [(0x8, 2)], 31, 0, .st, 0x0⟩
/-- R385 REMOTE_HI: Address [47:32] -/
def Reg.Staithe.REMOTE_HI : FieldSpec := ⟨0x124, [(0x8, 2)], 15, 0, .st, 0x0⟩
/-- R385 BUDDY: Buddy module identity -/
def Reg.Staithe.BUDDY : FieldSpec := ⟨0x130, [], 11, 0, .st, 0x0⟩
/-- R385 SHARD: Shard index -/
def Reg.Staithe.SHARD : FieldSpec := ⟨0x134, [], 11, 0, .st, 0x0⟩
/-- R385 NSHARD: Shards in the set, 1–4,096 -/
def Reg.Staithe.NSHARD : FieldSpec := ⟨0x134, [], 24, 12, .st, 0x1⟩
/-- R385 SLFIRST: First recorded landing -/
def Reg.Staithe.SLFIRST : FieldSpec := ⟨0x138, [], 12, 0, .st, 0x0⟩
/-- R385 SLLAST: Last recorded landing -/
def Reg.Staithe.SLLAST : FieldSpec := ⟨0x138, [], 25, 13, .st, 0x0⟩
/-- R385 SSTATE: 0 none, 1 copying, 2 sending, 3 complete -/
def Reg.Staithe.SSTATE : FieldSpec := ⟨0x140, [], 1, 0, .ro, 0x0⟩
/-- R385 SFAIL: The snapshot in SSTEP failed under R372 -/
def Reg.Staithe.SFAIL : FieldSpec := ⟨0x140, [], 2, 2, .ro, 0x0⟩
/-- R385 SSTEP: Step of the snapshot in progress or last taken -/
def Reg.Staithe.SSTEP : FieldSpec := ⟨0x144, [], 31, 0, .ro, 0x0⟩
/-- R385 COPIED: Granules copied of that snapshot -/
def Reg.Staithe.COPIED : FieldSpec := ⟨0x148, [], 31, 0, .ro, 0x0⟩
/-- R385 SENT: Granules acknowledged by the buddy -/
def Reg.Staithe.SENT : FieldSpec := ⟨0x14C, [], 31, 0, .ro, 0x0⟩
/-- R385 LSTEP: Step held in local area a -/
def Reg.Staithe.LSTEP : FieldSpec := ⟨0x150, [(0x8, 2)], 31, 0, .ro, 0x0⟩
/-- R385 LVALID: Area a is locally complete -/
def Reg.Staithe.LVALID : FieldSpec := ⟨0x154, [(0x8, 2)], 0, 0, .ro, 0x0⟩
/-- R385 RVALID: Remote area a is complete at the buddy -/
def Reg.Staithe.RVALID : FieldSpec := ⟨0x154, [(0x8, 2)], 1, 1, .ro, 0x0⟩
/-- R385 COW_HOLDS: Copy-on-write holds requested, saturating -/
def Reg.Staithe.COW_HOLDS : FieldSpec := ⟨0x160, [], 31, 0, .rc, 0x0⟩
/-- R385 BWAIT: SCLK the last boundary waited under R373 -/
def Reg.Staithe.BWAIT : FieldSpec := ⟨0x164, [], 31, 0, .ro, 0x0⟩
/-- R385 RESTORE: Start a restore under R378 -/
def Reg.Staithe.RESTORE : FieldSpec := ⟨0x170, [], 0, 0, .wo, 0x0⟩
/-- R385 SEND: Start a SEND under R382 -/
def Reg.Staithe.SEND : FieldSpec := ⟨0x170, [], 1, 1, .wo, 0x0⟩
/-- R385 ABANDON: Abandon the step in progress -/
def Reg.Staithe.ABANDON : FieldSpec := ⟨0x170, [], 2, 2, .wo, 0x0⟩
/-- R385 RSRC_LO: Shard address [31:0]; [15:0] zero -/
def Reg.Staithe.RSRC_LO : FieldSpec := ⟨0x174, [], 31, 0, .rw, 0x0⟩
/-- R385 RSRC_HI: Address [47:32] -/
def Reg.Staithe.RSRC_HI : FieldSpec := ⟨0x178, [], 15, 0, .rw, 0x0⟩
/-- R385 RSTEP: Step expected by RESTORE -/
def Reg.Staithe.RSTEP : FieldSpec := ⟨0x17C, [], 31, 0, .rw, 0x0⟩
/-- R385 SDST_LO: SEND pod address [31:0]; [15:0] zero -/
def Reg.Staithe.SDST_LO : FieldSpec := ⟨0x180, [], 31, 0, .rw, 0x0⟩
/-- R385 SDST_HI: Pod address [59:32] -/
def Reg.Staithe.SDST_HI : FieldSpec := ⟨0x184, [], 27, 0, .rw, 0x0⟩
/-- R385 RBUSY: Restore in progress -/
def Reg.Staithe.RBUSY : FieldSpec := ⟨0x188, [], 0, 0, .ro, 0x0⟩
/-- R385 SBUSY: SEND in progress -/
def Reg.Staithe.SBUSY : FieldSpec := ⟨0x188, [], 1, 1, .ro, 0x0⟩
/-- R385 RERR: Result of the last RESTORE or SEND, under R378 -/
def Reg.Staithe.RERR : FieldSpec := ⟨0x188, [], 5, 2, .ro, 0x0⟩
/-- R385 RFOUND: STEP in the header of the last shard checked -/
def Reg.Staithe.RFOUND : FieldSpec := ⟨0x18C, [], 31, 0, .ro, 0x0⟩
/-- Fields of the Staithe page, part 0. -/
def Reg.Staithe.fields0 : List FieldSpec :=
  [Reg.Staithe.SNAP_EN, Reg.Staithe.BUDDY_EN, Reg.Staithe.ELASTIC,
   Reg.Staithe.NREG, Reg.Staithe.STQ, Reg.Staithe.RTAB_LO,
   Reg.Staithe.RTAB_HI, Reg.Staithe.LOCAL_LO, Reg.Staithe.LOCAL_HI,
   Reg.Staithe.AREA_G, Reg.Staithe.REMOTE_LO, Reg.Staithe.REMOTE_HI,
   Reg.Staithe.BUDDY, Reg.Staithe.SHARD, Reg.Staithe.NSHARD,
   Reg.Staithe.SLFIRST, Reg.Staithe.SLLAST, Reg.Staithe.SSTATE,
   Reg.Staithe.SFAIL, Reg.Staithe.SSTEP, Reg.Staithe.COPIED,
   Reg.Staithe.SENT, Reg.Staithe.LSTEP, Reg.Staithe.LVALID]
/-- Fields of the Staithe page, part 1. -/
def Reg.Staithe.fields1 : List FieldSpec :=
  [Reg.Staithe.RVALID, Reg.Staithe.COW_HOLDS, Reg.Staithe.BWAIT,
   Reg.Staithe.RESTORE, Reg.Staithe.SEND, Reg.Staithe.ABANDON,
   Reg.Staithe.RSRC_LO, Reg.Staithe.RSRC_HI, Reg.Staithe.RSTEP,
   Reg.Staithe.SDST_LO, Reg.Staithe.SDST_HI, Reg.Staithe.RBUSY,
   Reg.Staithe.SBUSY, Reg.Staithe.RERR, Reg.Staithe.RFOUND]
/-- Every field of the Staithe page. -/
def Reg.Staithe.fields : List FieldSpec := Reg.Staithe.fields0 ++ Reg.Staithe.fields1


/-! Fields of the Acct page. -/

/-- R434 CONTEXT_ID: Identity of the polder's context; 0 none -/
def Reg.Acct.CONTEXT_ID : FieldSpec := ⟨0x100, [], 31, 0, .st, 0x0⟩
/-- R434 FINAL_VALID: A final set has been latched under R431 -/
def Reg.Acct.FINAL_VALID : FieldSpec := ⟨0x104, [], 0, 0, .w1c, 0x0⟩
/-- R434 FINAL_ID: CONTEXT_ID whose counters the final set holds -/
def Reg.Acct.FINAL_ID : FieldSpec := ⟨0x108, [], 31, 0, .ro, 0x0⟩
/-- R434 CNT_LO: Counter i of R431, bits [31:0] -/
def Reg.Acct.CNT_LO : FieldSpec := ⟨0x200, [(0x8, 52)], 31, 0, .ro, 0x0⟩
/-- R434 CNT_HI: Bits [47:32] -/
def Reg.Acct.CNT_HI : FieldSpec := ⟨0x204, [(0x8, 52)], 15, 0, .ro, 0x0⟩
/-- R434 FIN_LO: Final value of counter i, bits [31:0] -/
def Reg.Acct.FIN_LO : FieldSpec := ⟨0x600, [(0x8, 52)], 31, 0, .ro, 0x0⟩
/-- R434 FIN_HI: Bits [47:32] -/
def Reg.Acct.FIN_HI : FieldSpec := ⟨0x604, [(0x8, 52)], 15, 0, .ro, 0x0⟩
/-- Fields of the Acct page, part 0. -/
def Reg.Acct.fields0 : List FieldSpec :=
  [Reg.Acct.CONTEXT_ID, Reg.Acct.FINAL_VALID, Reg.Acct.FINAL_ID,
   Reg.Acct.CNT_LO, Reg.Acct.CNT_HI, Reg.Acct.FIN_LO,
   Reg.Acct.FIN_HI]
/-- Every field of the Acct page. -/
def Reg.Acct.fields : List FieldSpec := Reg.Acct.fields0


/-! Fields of the Core page. -/

/-- R77 SPARE_A_FOR: Logical bank (0x00–0x1F) served by physical spare bank 32; 0x3F: spare unused; 0x20–0x3E reserved -/
def Reg.Core.SPARE_A_FOR : FieldSpec := ⟨0x104, [], 5, 0, .st, 0x3f⟩
/-- R77 SPARE_B_FOR: Logical bank served by physical spare bank 33; encoding as SPARE_A_FOR -/
def Reg.Core.SPARE_B_FOR : FieldSpec := ⟨0x104, [], 13, 8, .st, 0x3f⟩
/-- R77 ERR: A pool parity error has been recorded -/
def Reg.Core.ERR_108 : FieldSpec := ⟨0x108, [], 0, 0, .w1c, 0x0⟩
/-- R77 MULTI: More than one parity error since ERR was last cleared; the fields hold the first -/
def Reg.Core.MULTI_108 : FieldSpec := ⟨0x108, [], 1, 1, .w1c, 0x0⟩
/-- R77 PBANK: Physical bank, 0x00–0x21 -/
def Reg.Core.PBANK : FieldSpec := ⟨0x108, [], 7, 2, .ro, 0x0⟩
/-- R77 ROW: Row within the bank, 0x000–0xBFF -/
def Reg.Core.ROW_108 : FieldSpec := ⟨0x108, [], 19, 8, .ro, 0x0⟩
/-- R77 BYTE: Byte within the line -/
def Reg.Core.BYTE_108 : FieldSpec := ⟨0x108, [], 25, 20, .ro, 0x0⟩
/-- R77 REQ: Requester: 0 ME, 1 MVP, 2 VE load, 3 VE store, 4 stream arrival, 5 crossbar, 6 loader or restore; 7 reserved -/
def Reg.Core.REQ : FieldSpec := ⟨0x108, [], 28, 26, .ro, 0x0⟩
/-- R77 TCNT_0: Value of token counter T(4n+i) -/
def Reg.Core.TCNT_0 : FieldSpec := ⟨0x140, [(0x4, 16)], 7, 0, .ro, 0x0⟩
/-- R77 TCNT_1: Value of token counter T(4n+i) -/
def Reg.Core.TCNT_1 : FieldSpec := ⟨0x140, [(0x4, 16)], 15, 8, .ro, 0x0⟩
/-- R77 TCNT_2: Value of token counter T(4n+i) -/
def Reg.Core.TCNT_2 : FieldSpec := ⟨0x140, [(0x4, 16)], 23, 16, .ro, 0x0⟩
/-- R77 TCNT_3: Value of token counter T(4n+i) -/
def Reg.Core.TCNT_3 : FieldSpec := ⟨0x140, [(0x4, 16)], 31, 24, .ro, 0x0⟩
/-- R77 OUT: Requests outstanding in class Sc, 0x00–0x30 -/
def Reg.Core.OUT : FieldSpec := ⟨0x180, [(0x4, 4)], 5, 0, .ro, 0x0⟩
/-- R77 HIGH: Highest value of OUT since last read -/
def Reg.Core.HIGH : FieldSpec := ⟨0x180, [(0x4, 4)], 13, 8, .rc, 0x0⟩
/-- R77 VALID: Bit b is the valid bit of granule 32n + b -/
def Reg.Core.VALID : FieldSpec := ⟨0x200, [(0x4, 48)], 31, 0, .ro, 0x0⟩
/-- R106 ROWSP0_FOR: Logical row 0x00–0x3F served by physical row 64; 0x7F unused; 0x40–0x7E reserved -/
def Reg.Core.ROWSP0_FOR : FieldSpec := ⟨0x300, [], 6, 0, .st, 0x7f⟩
/-- R106 ROWSP1_FOR: As ROWSP0_FOR, for physical row 65 -/
def Reg.Core.ROWSP1_FOR : FieldSpec := ⟨0x300, [], 14, 8, .st, 0x7f⟩
/-- R106 COLSP0_FOR: Logical column served by physical column 64; encoding as ROWSP0_FOR -/
def Reg.Core.COLSP0_FOR : FieldSpec := ⟨0x300, [], 22, 16, .st, 0x7f⟩
/-- R106 COLSP1_FOR: As COLSP0_FOR, for physical column 65 -/
def Reg.Core.COLSP1_FOR : FieldSpec := ⟨0x300, [], 30, 24, .st, 0x7f⟩
/-- R106 ERR: An ME error has been recorded -/
def Reg.Core.ERR_304 : FieldSpec := ⟨0x304, [], 0, 0, .w1c, 0x0⟩
/-- R106 MULTI: More than one error since ERR was last cleared; the fields hold the first -/
def Reg.Core.MULTI_304 : FieldSpec := ⟨0x304, [], 1, 1, .w1c, 0x0⟩
/-- R106 KIND: 0 group residue, 1 adder residue or rounding compare, 2 exponent parity, 3 operand or accumulator parity -/
def Reg.Core.KIND_304 : FieldSpec := ⟨0x304, [], 3, 2, .ro, 0x0⟩
/-- R106 ROW: Logical row -/
def Reg.Core.ROW_304 : FieldSpec := ⟨0x304, [], 9, 4, .ro, 0x0⟩
/-- R106 COL: Logical column -/
def Reg.Core.COL : FieldSpec := ⟨0x304, [], 15, 10, .ro, 0x0⟩
/-- R106 GROUP: Group within the instruction, 0x000–0xFFF -/
def Reg.Core.GROUP : FieldSpec := ⟨0x304, [], 27, 16, .ro, 0x0⟩
/-- R106 DRAINING: Bit s: set s has a drain in progress -/
def Reg.Core.DRAINING : FieldSpec := ⟨0x308, [], 1, 0, .ro, 0x0⟩
/-- R106 OPEN: Bit s: set s is open -/
def Reg.Core.OPEN : FieldSpec := ⟨0x308, [], 3, 2, .ro, 0x0⟩
/-- R106 MEQ: ME input queue occupancy, 0x0–0x8 -/
def Reg.Core.MEQ : FieldSpec := ⟨0x308, [], 7, 4, .ro, 0x0⟩
/-- R106 MVPQ: MVP input queue occupancy, 0x0–0x8 -/
def Reg.Core.MVPQ : FieldSpec := ⟨0x308, [], 11, 8, .ro, 0x0⟩
/-- R106 ZMAP_INDEX: Record shown in ZMAP_DATA0–3 -/
def Reg.Core.ZMAP_INDEX : FieldSpec := ⟨0x30C, [], 11, 0, .rw, 0x0⟩
/-- R106 CLEAR: Writing 1 clears the whole zero-map store -/
def Reg.Core.CLEAR : FieldSpec := ⟨0x30C, [], 31, 31, .wo, 0x0⟩
/-- R106 ZMAP_DATA: Bytes 0–15 of the selected record, little-endian -/
def Reg.Core.ZMAP_DATA : FieldSpec := ⟨0x310, [(0x4, 4)], 31, 0, .ro, 0x0⟩
/-- R139 VEQ: VE input queue occupancy, 0x0–0x8 -/
def Reg.Core.VEQ : FieldSpec := ⟨0x380, [], 3, 0, .ro, 0x0⟩
/-- R139 PEND: Bit 4 + v: tile register Vv has a write pending -/
def Reg.Core.PEND : FieldSpec := ⟨0x380, [], 19, 4, .ro, 0x0⟩
/-- R139 ISSUING: An instruction occupies the issue stage -/
def Reg.Core.ISSUING : FieldSpec := ⟨0x380, [], 20, 20, .ro, 0x0⟩
/-- R139 ERR: A VE error has been recorded -/
def Reg.Core.ERR_384 : FieldSpec := ⟨0x384, [], 0, 0, .w1c, 0x0⟩
/-- R139 MULTI: More than one error since ERR was last cleared; the fields hold the first -/
def Reg.Core.MULTI_384 : FieldSpec := ⟨0x384, [], 1, 1, .w1c, 0x0⟩
/-- R139 KIND: 0 tile-register parity, 1 datapath parity -/
def Reg.Core.KIND_384 : FieldSpec := ⟨0x384, [], 2, 2, .ro, 0x0⟩
/-- R139 TILE: Tile register V0–V15 -/
def Reg.Core.TILE : FieldSpec := ⟨0x384, [], 7, 4, .ro, 0x0⟩
/-- R139 ROW: Row within the tile -/
def Reg.Core.ROW_384 : FieldSpec := ⟨0x384, [], 13, 8, .ro, 0x0⟩
/-- R139 BYTE: Byte within the 256-byte row -/
def Reg.Core.BYTE_384 : FieldSpec := ⟨0x384, [], 21, 14, .ro, 0x0⟩
/-- R201 STATE: Stream n: 0 disarmed, 1 armed, 2 extent exhausted, 3 disarming -/
def Reg.Core.STATE : FieldSpec := ⟨0x400, [(0x8, 8)], 1, 0, .ro, 0x0⟩
/-- R201 VOID: Stream n holds at least one void granule -/
def Reg.Core.VOID : FieldSpec := ⟨0x400, [(0x8, 8)], 2, 2, .ro, 0x0⟩
/-- R201 DELIVERED: Granules or MVP groups delivered by stream n since its ARM -/
def Reg.Core.DELIVERED : FieldSpec := ⟨0x404, [(0x8, 8)], 31, 0, .ro, 0x0⟩
/-- R201 ERR: A PREFETCH_HAZARD has been recorded -/
def Reg.Core.ERR_440 : FieldSpec := ⟨0x440, [], 0, 0, .w1c, 0x0⟩
/-- R201 MULTI: More than one hazard since ERR was last cleared; the fields hold the first -/
def Reg.Core.MULTI_440 : FieldSpec := ⟨0x440, [], 1, 1, .w1c, 0x0⟩
/-- R201 STREAM: Stream whose comparator was hit -/
def Reg.Core.STREAM : FieldSpec := ⟨0x440, [], 4, 2, .ro, 0x0⟩
/-- R201 COMP: Comparator 0x0–0xF -/
def Reg.Core.COMP : FieldSpec := ⟨0x440, [], 8, 5, .ro, 0x0⟩
/-- R201 WDIE: Writer's die: 0–3 C0–C3, 4 H; 5–7 reserved -/
def Reg.Core.WDIE : FieldSpec := ⟨0x440, [], 11, 9, .ro, 0x0⟩
/-- R201 WCLU: Writer's cluster -/
def Reg.Core.WCLU : FieldSpec := ⟨0x440, [], 14, 12, .ro, 0x0⟩
/-- R201 WUNIT: 0–7 logical core k0–k7, 8 Stepstone, 9 P0, 10 P1, 11 Silt, 12 Reedbed, 13 Sluice, 14 Ferry arrival, 15
other hub unit -/
def Reg.Core.WUNIT : FieldSpec := ⟨0x440, [], 18, 15, .ro, 0x0⟩
/-- R201 HADDR_LO: Written address [31:0] -/
def Reg.Core.HADDR_LO : FieldSpec := ⟨0x444, [], 31, 0, .ro, 0x0⟩
/-- R201 HADDR_HI: Written address [47:32] -/
def Reg.Core.HADDR_HI : FieldSpec := ⟨0x448, [], 15, 0, .ro, 0x0⟩
/-- R201 WLO: Comparator w: first address [37:6] -/
def Reg.Core.WLO : FieldSpec := ⟨0x700, [(0x10, 16)], 31, 0, .ro, 0x0⟩
/-- R201 WLO_HI: First address [47:38] -/
def Reg.Core.WLO_HI : FieldSpec := ⟨0x704, [(0x10, 16)], 9, 0, .ro, 0x0⟩
/-- R201 ARMED: Comparator w is armed -/
def Reg.Core.ARMED : FieldSpec := ⟨0x704, [(0x10, 16)], 31, 31, .ro, 0x0⟩
/-- R201 WHI: Last address [37:6] -/
def Reg.Core.WHI : FieldSpec := ⟨0x708, [(0x10, 16)], 31, 0, .ro, 0x0⟩
/-- R201 WHI_HI: Last address [47:38] -/
def Reg.Core.WHI_HI : FieldSpec := ⟨0x70C, [(0x10, 16)], 9, 0, .ro, 0x0⟩
/-- R291 GSTATE: Gate g: 0 idle or off, 1 registered, 2 release awaiting its post; 3 reserved -/
def Reg.Core.GSTATE : FieldSpec := ⟨0x600, [(0x8, 32)], 1, 0, .ro, 0x0⟩
/-- R291 LATCHED: The gate table was valid at the last latch -/
def Reg.Core.LATCHED : FieldSpec := ⟨0x600, [(0x8, 32)], 2, 2, .ro, 0x0⟩
/-- R291 RELEASES: Releases of gate g since the step's first edge -/
def Reg.Core.RELEASES : FieldSpec := ⟨0x604, [(0x8, 32)], 31, 0, .ro, 0x0⟩
/-- R477 STALL_LO: ME (e = 0) or MVP (e = 1), cause c: stalled ACLK, bits [31:0] -/
def Reg.Core.STALL_LO_500 : FieldSpec := ⟨0x500, [(0x48, 2), (0x8, 9)], 31, 0, .ro, 0x0⟩
/-- R477 STALL_HI: Bits [47:32] -/
def Reg.Core.STALL_HI_504 : FieldSpec := ⟨0x504, [(0x48, 2), (0x8, 9)], 15, 0, .ro, 0x0⟩
/-- R477 STALL_LO: VE (e = 2) or stream unit (e = 3), cause c -/
def Reg.Core.STALL_LO_460 : FieldSpec := ⟨0x460, [(0x48, 2), (0x8, 9)], 31, 0, .ro, 0x0⟩
/-- R477 STALL_HI: Bits [47:32] -/
def Reg.Core.STALL_HI_464 : FieldSpec := ⟨0x464, [(0x48, 2), (0x8, 9)], 15, 0, .ro, 0x0⟩
/-- Fields of the Core page, part 0. -/
def Reg.Core.fields0 : List FieldSpec :=
  [Reg.Core.SPARE_A_FOR, Reg.Core.SPARE_B_FOR, Reg.Core.ERR_108,
   Reg.Core.MULTI_108, Reg.Core.PBANK, Reg.Core.ROW_108,
   Reg.Core.BYTE_108, Reg.Core.REQ, Reg.Core.TCNT_0,
   Reg.Core.TCNT_1, Reg.Core.TCNT_2, Reg.Core.TCNT_3,
   Reg.Core.OUT, Reg.Core.HIGH, Reg.Core.VALID,
   Reg.Core.ROWSP0_FOR, Reg.Core.ROWSP1_FOR, Reg.Core.COLSP0_FOR,
   Reg.Core.COLSP1_FOR, Reg.Core.ERR_304, Reg.Core.MULTI_304,
   Reg.Core.KIND_304, Reg.Core.ROW_304, Reg.Core.COL]
/-- Fields of the Core page, part 1. -/
def Reg.Core.fields1 : List FieldSpec :=
  [Reg.Core.GROUP, Reg.Core.DRAINING, Reg.Core.OPEN,
   Reg.Core.MEQ, Reg.Core.MVPQ, Reg.Core.ZMAP_INDEX,
   Reg.Core.CLEAR, Reg.Core.ZMAP_DATA, Reg.Core.VEQ,
   Reg.Core.PEND, Reg.Core.ISSUING, Reg.Core.ERR_384,
   Reg.Core.MULTI_384, Reg.Core.KIND_384, Reg.Core.TILE,
   Reg.Core.ROW_384, Reg.Core.BYTE_384, Reg.Core.STATE,
   Reg.Core.VOID, Reg.Core.DELIVERED, Reg.Core.ERR_440,
   Reg.Core.MULTI_440, Reg.Core.STREAM, Reg.Core.COMP]
/-- Fields of the Core page, part 2. -/
def Reg.Core.fields2 : List FieldSpec :=
  [Reg.Core.WDIE, Reg.Core.WCLU, Reg.Core.WUNIT,
   Reg.Core.HADDR_LO, Reg.Core.HADDR_HI, Reg.Core.WLO,
   Reg.Core.WLO_HI, Reg.Core.ARMED, Reg.Core.WHI,
   Reg.Core.WHI_HI, Reg.Core.GSTATE, Reg.Core.LATCHED,
   Reg.Core.RELEASES, Reg.Core.STALL_LO_500, Reg.Core.STALL_HI_504,
   Reg.Core.STALL_LO_460, Reg.Core.STALL_HI_464]
/-- Every field of the Core page. -/
def Reg.Core.fields : List FieldSpec := Reg.Core.fields0 ++ Reg.Core.fields1 ++ Reg.Core.fields2


/-! Fields of the Clu page. -/

/-- R78 MAP_K0: Physical core, 0x0–0x8, that carries logical k0; 0x9–0xF reserved -/
def Reg.Clu.MAP_K0 : FieldSpec := ⟨0x100, [], 3, 0, .st, 0x0⟩
/-- R78 MAP_K1: As MAP_K0, for k1 -/
def Reg.Clu.MAP_K1 : FieldSpec := ⟨0x100, [], 7, 4, .st, 0x1⟩
/-- R78 MAP_K2: As MAP_K0, for k2 -/
def Reg.Clu.MAP_K2 : FieldSpec := ⟨0x100, [], 11, 8, .st, 0x2⟩
/-- R78 MAP_K3: As MAP_K0, for k3 -/
def Reg.Clu.MAP_K3 : FieldSpec := ⟨0x100, [], 15, 12, .st, 0x3⟩
/-- R78 MAP_K4: As MAP_K0, for k4 -/
def Reg.Clu.MAP_K4 : FieldSpec := ⟨0x100, [], 19, 16, .st, 0x4⟩
/-- R78 MAP_K5: As MAP_K0, for k5 -/
def Reg.Clu.MAP_K5 : FieldSpec := ⟨0x100, [], 23, 20, .st, 0x5⟩
/-- R78 MAP_K6: As MAP_K0, for k6 -/
def Reg.Clu.MAP_K6 : FieldSpec := ⟨0x100, [], 27, 24, .st, 0x6⟩
/-- R78 MAP_K7: As MAP_K0, for k7 -/
def Reg.Clu.MAP_K7 : FieldSpec := ⟨0x100, [], 31, 28, .st, 0x7⟩
/-- R167 STQ: Stepstone input queue occupancy, 0x0–0x8 -/
def Reg.Clu.STQ : FieldSpec := ⟨0x140, [], 3, 0, .ro, 0x0⟩
/-- R167 P0Q: P0 input queue occupancy -/
def Reg.Clu.P0Q : FieldSpec := ⟨0x140, [], 7, 4, .ro, 0x0⟩
/-- R167 P1Q: P1 input queue occupancy -/
def Reg.Clu.P1Q : FieldSpec := ⟨0x140, [], 11, 8, .ro, 0x0⟩
/-- R167 SLQ: Silt input queue occupancy -/
def Reg.Clu.SLQ : FieldSpec := ⟨0x140, [], 15, 12, .ro, 0x0⟩
/-- R167 SESSION: A Silt session is open -/
def Reg.Clu.SESSION : FieldSpec := ⟨0x140, [], 16, 16, .ro, 0x0⟩
/-- R167 SPHASE: 0 anchoring, 1 adding, in the open session -/
def Reg.Clu.SPHASE : FieldSpec := ⟨0x140, [], 17, 17, .ro, 0x0⟩
/-- R167 DEPTH0: Slices in flight at most for P0, 0x04–0x30 -/
def Reg.Clu.DEPTH0 : FieldSpec := ⟨0x144, [], 5, 0, .st, 0x30⟩
/-- R167 DEPTH1: As DEPTH0, for P1 -/
def Reg.Clu.DEPTH1 : FieldSpec := ⟨0x144, [], 13, 8, .st, 0x30⟩
/-- R167 TILENO: Linear number of the Stepstone tile in progress -/
def Reg.Clu.TILENO : FieldSpec := ⟨0x148, [], 31, 0, .ro, 0x0⟩
/-- R167 P0J: Position j most recently issued by P0 -/
def Reg.Clu.P0J : FieldSpec := ⟨0x14C, [], 23, 0, .ro, 0x0⟩
/-- R167 P1J: As P0J, for P1 -/
def Reg.Clu.P1J : FieldSpec := ⟨0x150, [], 23, 0, .ro, 0x0⟩
/-- R167 ERR: A layout-engine error has been recorded -/
def Reg.Clu.ERR : FieldSpec := ⟨0x154, [], 0, 0, .w1c, 0x0⟩
/-- R167 MULTI: More than one error since ERR was last cleared; the fields hold the first -/
def Reg.Clu.MULTI : FieldSpec := ⟨0x154, [], 1, 1, .w1c, 0x0⟩
/-- R167 UNIT: 0 Stepstone, 1 P0, 2 P1, 3 Silt -/
def Reg.Clu.UNIT : FieldSpec := ⟨0x154, [], 3, 2, .ro, 0x0⟩
/-- R167 KIND: 0 index out of range, 1 SILT_COUNT, 2 SILT_ANCHOR, 3 check value, 4 parity; 5–7 reserved -/
def Reg.Clu.KIND : FieldSpec := ⟨0x154, [], 6, 4, .ro, 0x0⟩
/-- R167 POS: Position j of the error; Stepstone: element within the tile -/
def Reg.Clu.POS : FieldSpec := ⟨0x158, [], 23, 0, .ro, 0x0⟩
/-- R167 VALUE: Index value idx[j] for KIND 0; destination linear index [31:0] for KIND 1 and 2 -/
def Reg.Clu.VALUE : FieldSpec := ⟨0x15C, [], 31, 0, .ro, 0x0⟩
/-- R260 SLOT_OUT_E: OUT entry of slot 2i -/
def Reg.Clu.SLOT_OUT_E : FieldSpec := ⟨0x400, [(0x4, 32)], 15, 0, .st, 0x0⟩
/-- R260 SLOT_OUT_O: OUT entry of slot 2i + 1 -/
def Reg.Clu.SLOT_OUT_O : FieldSpec := ⟨0x400, [(0x4, 32)], 31, 16, .st, 0x0⟩
/-- R260 SLOT_IN_E: IN entries -/
def Reg.Clu.SLOT_IN_E : FieldSpec := ⟨0x480, [(0x4, 32)], 15, 0, .st, 0x0⟩
/-- R260 SLOT_IN_O: IN entries -/
def Reg.Clu.SLOT_IN_O : FieldSpec := ⟨0x480, [(0x4, 32)], 31, 16, .st, 0x0⟩
/-- R410 NOMOVE: Next CLUSTER_MAP change carries no state, under R391 -/
def Reg.Clu.NOMOVE : FieldSpec := ⟨0x104, [], 0, 0, .st, 0x0⟩
/-- R410 SUBERR: A move met an error, under R392 -/
def Reg.Clu.SUBERR : FieldSpec := ⟨0x104, [], 1, 1, .w1c, 0x0⟩
/-- R410 WSTATE: 0 OK, 1 SUSPECT, 2 FAILED; 3 reserved -/
def Reg.Clu.WSTATE : FieldSpec := ⟨0x180, [(0x4, 9)], 1, 0, .ro, 0x0⟩
/-- R410 VTRIM: Supply raise in 5 mV steps, 0x0–0x6; 0x7 reserved -/
def Reg.Clu.VTRIM : FieldSpec := ⟨0x180, [(0x4, 9)], 4, 2, .st, 0x0⟩
/-- R410 AGE: Ageing margin code -/
def Reg.Clu.AGE : FieldSpec := ⟨0x180, [(0x4, 9)], 12, 5, .ro, 0xff⟩
/-- R410 SFAILS: Consecutive failed sounding cycles -/
def Reg.Clu.SFAILS : FieldSpec := ⟨0x180, [(0x4, 9)], 16, 13, .ro, 0x0⟩
/-- R410 SPASS: Consecutive passed cycles, saturating -/
def Reg.Clu.SPASS : FieldSpec := ⟨0x180, [(0x4, 9)], 20, 17, .ro, 0x0⟩
/-- R410 SOUNDING: A cycle is in progress -/
def Reg.Clu.SOUNDING : FieldSpec := ⟨0x180, [(0x4, 9)], 21, 21, .ro, 0x0⟩
/-- R410 RES: ME_RESIDUE count, saturating -/
def Reg.Clu.RES : FieldSpec := ⟨0x1C0, [(0x4, 9)], 7, 0, .rc, 0x0⟩
/-- R410 MEPAR: ME_PARITY count -/
def Reg.Clu.MEPAR : FieldSpec := ⟨0x1C0, [(0x4, 9)], 15, 8, .rc, 0x0⟩
/-- R410 VEPAR: VE_PARITY count -/
def Reg.Clu.VEPAR : FieldSpec := ⟨0x1C0, [(0x4, 9)], 23, 16, .rc, 0x0⟩
/-- R410 POOLPAR: POOL_PARITY count -/
def Reg.Clu.POOLPAR : FieldSpec := ⟨0x1C0, [(0x4, 9)], 31, 24, .rc, 0x0⟩
/-- R477 STALL_LO: Stepstone, P0, P1 or Silt, cause c -/
def Reg.Clu.STALL_LO : FieldSpec := ⟨0x500, [(0x48, 4), (0x8, 9)], 31, 0, .ro, 0x0⟩
/-- R477 STALL_HI: Bits [47:32] -/
def Reg.Clu.STALL_HI : FieldSpec := ⟨0x504, [(0x48, 4), (0x8, 9)], 15, 0, .ro, 0x0⟩
/-- Fields of the Clu page, part 0. -/
def Reg.Clu.fields0 : List FieldSpec :=
  [Reg.Clu.MAP_K0, Reg.Clu.MAP_K1, Reg.Clu.MAP_K2,
   Reg.Clu.MAP_K3, Reg.Clu.MAP_K4, Reg.Clu.MAP_K5,
   Reg.Clu.MAP_K6, Reg.Clu.MAP_K7, Reg.Clu.STQ,
   Reg.Clu.P0Q, Reg.Clu.P1Q, Reg.Clu.SLQ,
   Reg.Clu.SESSION, Reg.Clu.SPHASE, Reg.Clu.DEPTH0,
   Reg.Clu.DEPTH1, Reg.Clu.TILENO, Reg.Clu.P0J,
   Reg.Clu.P1J, Reg.Clu.ERR, Reg.Clu.MULTI,
   Reg.Clu.UNIT, Reg.Clu.KIND, Reg.Clu.POS]
/-- Fields of the Clu page, part 1. -/
def Reg.Clu.fields1 : List FieldSpec :=
  [Reg.Clu.VALUE, Reg.Clu.SLOT_OUT_E, Reg.Clu.SLOT_OUT_O,
   Reg.Clu.SLOT_IN_E, Reg.Clu.SLOT_IN_O, Reg.Clu.NOMOVE,
   Reg.Clu.SUBERR, Reg.Clu.WSTATE, Reg.Clu.VTRIM,
   Reg.Clu.AGE, Reg.Clu.SFAILS, Reg.Clu.SPASS,
   Reg.Clu.SOUNDING, Reg.Clu.RES, Reg.Clu.MEPAR,
   Reg.Clu.VEPAR, Reg.Clu.POOLPAR, Reg.Clu.STALL_LO,
   Reg.Clu.STALL_HI]
/-- Every field of the Clu page. -/
def Reg.Clu.fields : List FieldSpec := Reg.Clu.fields0 ++ Reg.Clu.fields1


/-! Fields of the Die page. -/

/-- R202 SPARE_A_FOR: SRAM die s: logical bank 0x00–0x3F served by physical bank 64; 0x7F unused; 0x40–0x7E reserved -/
def Reg.Die.SPARE_A_FOR : FieldSpec := ⟨0x100, [(0x4, 2)], 6, 0, .st, 0x7f⟩
/-- R202 SPARE_B_FOR: As SPARE_A_FOR, for physical bank 65 -/
def Reg.Die.SPARE_B_FOR : FieldSpec := ⟨0x100, [(0x4, 2)], 14, 8, .st, 0x7f⟩
/-- R202 ERR: An SST error has been recorded -/
def Reg.Die.ERR_108 : FieldSpec := ⟨0x108, [], 0, 0, .w1c, 0x0⟩
/-- R202 MULTI: More than one since ERR was last cleared; the fields hold the first -/
def Reg.Die.MULTI_108 : FieldSpec := ⟨0x108, [], 1, 1, .w1c, 0x0⟩
/-- R202 KIND: 0 data parity, 1 side-word parity, 2 check mismatch at merge or partial read, 3 check absent -/
def Reg.Die.KIND_108 : FieldSpec := ⟨0x108, [], 3, 2, .ro, 0x0⟩
/-- R202 SDIE: SRAM die -/
def Reg.Die.SDIE : FieldSpec := ⟨0x108, [], 4, 4, .ro, 0x0⟩
/-- R202 PBANK: Physical bank, 0x00–0x41 -/
def Reg.Die.PBANK : FieldSpec := ⟨0x108, [], 11, 5, .ro, 0x0⟩
/-- R202 ROW: Row within the bank -/
def Reg.Die.ROW : FieldSpec := ⟨0x108, [], 30, 12, .ro, 0x0⟩
/-- R202 HOT: Doubled refresh rate in force -/
def Reg.Die.HOT : FieldSpec := ⟨0x180, [], 0, 0, .ro, 0x0⟩
/-- R202 ERR: An LPDDR5X error has been recorded -/
def Reg.Die.ERR_184 : FieldSpec := ⟨0x184, [], 0, 0, .w1c, 0x0⟩
/-- R202 MULTI: More than one since ERR was last cleared; the fields hold the first -/
def Reg.Die.MULTI_184 : FieldSpec := ⟨0x184, [], 1, 1, .w1c, 0x0⟩
/-- R202 KIND: 0 link ECC uncorrectable, 1 on-die uncorrectable, 2 check mismatch at merge or partial read, 3 check
absent -/
def Reg.Die.KIND_184 : FieldSpec := ⟨0x184, [], 3, 2, .ro, 0x0⟩
/-- R202 DEV: Device within the die -/
def Reg.Die.DEV : FieldSpec := ⟨0x184, [], 6, 4, .ro, 0x0⟩
/-- R202 PPN: Physical page -/
def Reg.Die.PPN : FieldSpec := ⟨0x184, [], 21, 7, .ro, 0x0⟩
/-- R202 LINK_CE: Corrected link errors of device d, saturating at 0xFFFF -/
def Reg.Die.LINK_CE : FieldSpec := ⟨0x1A0, [(0x4, 8)], 15, 0, .rc, 0x0⟩
/-- R202 DIE_CE: Corrected on-die errors reported by device d, saturating at 0xFFFF -/
def Reg.Die.DIE_CE : FieldSpec := ⟨0x1A0, [(0x4, 8)], 31, 16, .rc, 0x0⟩
/-- R243 SPARE_FOR: Logical unit 0x0–0x3 of the die served by physical unit 4; 0x7 unused; 0x4–0x6 reserved -/
def Reg.Die.SPARE_FOR : FieldSpec := ⟨0x200, [], 2, 0, .st, 0x7⟩
/-- R243 PICTURES: Pictures decoded by logical unit u, saturating -/
def Reg.Die.PICTURES : FieldSpec := ⟨0x204, [(0x10, 4)], 31, 0, .rc, 0x0⟩
/-- R243 CONCEALED_CU: Coding units concealed, saturating -/
def Reg.Die.CONCEALED_CU : FieldSpec := ⟨0x208, [(0x10, 4)], 31, 0, .rc, 0x0⟩
/-- R243 DAMAGED_PKT: TS packets marked damaged, saturating -/
def Reg.Die.DAMAGED_PKT : FieldSpec := ⟨0x20C, [(0x10, 4)], 15, 0, .rc, 0x0⟩
/-- R243 UNSUPPORTED: Samples ended with CAUSE 3 or 4, saturating -/
def Reg.Die.UNSUPPORTED : FieldSpec := ⟨0x20C, [(0x10, 4)], 31, 16, .rc, 0x0⟩
/-- R243 SLICES: Entropy time slices used, saturating -/
def Reg.Die.SLICES : FieldSpec := ⟨0x210, [(0x10, 4)], 31, 0, .rc, 0x0⟩
/-- R260 SLOT_OUT_E: OUT entries of port 8 + p -/
def Reg.Die.SLOT_OUT_E : FieldSpec := ⟨0x400, [(0x100, 3), (0x4, 32)], 15, 0, .st, 0x0⟩
/-- R260 SLOT_OUT_O: OUT entries of port 8 + p -/
def Reg.Die.SLOT_OUT_O : FieldSpec := ⟨0x400, [(0x100, 3), (0x4, 32)], 31, 16, .st, 0x0⟩
/-- R260 SLOT_IN_E: IN entries of port 8 + p -/
def Reg.Die.SLOT_IN_E : FieldSpec := ⟨0x480, [(0x100, 3), (0x4, 32)], 15, 0, .st, 0x0⟩
/-- R260 SLOT_IN_O: IN entries of port 8 + p -/
def Reg.Die.SLOT_IN_O : FieldSpec := ⟨0x480, [(0x100, 3), (0x4, 32)], 31, 16, .st, 0x0⟩
/-- R364 INFLIGHT: Parameter blocks in flight, 0x0–0x4 -/
def Reg.Die.INFLIGHT : FieldSpec := ⟨0x300, [(0x10, 4)], 2, 0, .ro, 0x0⟩
/-- R364 BLOCKS: Parameter blocks completed, saturating -/
def Reg.Die.BLOCKS : FieldSpec := ⟨0x304, [(0x10, 4)], 31, 0, .rc, 0x0⟩
/-- R364 ELEMS: Elements updated, saturating -/
def Reg.Die.ELEMS : FieldSpec := ⟨0x308, [(0x10, 4)], 31, 0, .rc, 0x0⟩
/-- R364 NONFINITE: Gradient elements that were NaN or ±∞, saturating -/
def Reg.Die.NONFINITE : FieldSpec := ⟨0x30C, [(0x10, 4)], 31, 0, .rc, 0x0⟩
/-- R411 SHADOW_A: SRAM die s: logical bank shadowed into physical bank 64; 0x7F none -/
def Reg.Die.SHADOW_A : FieldSpec := ⟨0x110, [(0x4, 2)], 6, 0, .st, 0x7f⟩
/-- R411 SHADOW_B: As SHADOW_A, into physical bank 65 -/
def Reg.Die.SHADOW_B : FieldSpec := ⟨0x110, [(0x4, 2)], 14, 8, .st, 0x7f⟩
/-- R411 SHDONE_A: Shadow into bank 64 complete -/
def Reg.Die.SHDONE_A : FieldSpec := ⟨0x110, [(0x4, 2)], 16, 16, .ro, 0x0⟩
/-- R411 SHDONE_B: Shadow into bank 65 complete -/
def Reg.Die.SHDONE_B : FieldSpec := ⟨0x110, [(0x4, 2)], 17, 17, .ro, 0x0⟩
/-- R411 SHERR_A: Shadow into bank 64 stopped by an error -/
def Reg.Die.SHERR_A : FieldSpec := ⟨0x110, [(0x4, 2)], 18, 18, .ro, 0x0⟩
/-- R411 SHERR_B: As SHERR_A, for bank 65 -/
def Reg.Die.SHERR_B : FieldSpec := ⟨0x110, [(0x4, 2)], 19, 19, .ro, 0x0⟩
/-- R411 CEL_DEV: Device of the die whose log is shown -/
def Reg.Die.CEL_DEV : FieldSpec := ⟨0x1C0, [], 2, 0, .rw, 0x0⟩
/-- R411 CEL_ENT: Log entry shown -/
def Reg.Die.CEL_ENT : FieldSpec := ⟨0x1C0, [], 6, 3, .rw, 0x0⟩
/-- R411 CEL_PPN: Physical page -/
def Reg.Die.CEL_PPN : FieldSpec := ⟨0x1C4, [], 14, 0, .ro, 0x0⟩
/-- R411 CEL_COUNT: Corrected errors, saturating -/
def Reg.Die.CEL_COUNT : FieldSpec := ⟨0x1C4, [], 22, 15, .ro, 0x0⟩
/-- R411 CEL_UE: An uncorrectable error occurred in the page -/
def Reg.Die.CEL_UE : FieldSpec := ⟨0x1C4, [], 23, 23, .ro, 0x0⟩
/-- R411 CEL_VALID: Entry in use -/
def Reg.Die.CEL_VALID : FieldSpec := ⟨0x1C4, [], 24, 24, .ro, 0x0⟩
/-- R411 RB_WSTATE: Physical Reedbed unit u: 0 OK, 1 SUSPECT, 2 FAILED -/
def Reg.Die.RB_WSTATE : FieldSpec := ⟨0x260, [(0x4, 5)], 1, 0, .ro, 0x0⟩
/-- R411 RB_SFAILS: Consecutive failed soundings -/
def Reg.Die.RB_SFAILS : FieldSpec := ⟨0x260, [(0x4, 5)], 5, 2, .ro, 0x0⟩
/-- Fields of the Die page, part 0. -/
def Reg.Die.fields0 : List FieldSpec :=
  [Reg.Die.SPARE_A_FOR, Reg.Die.SPARE_B_FOR, Reg.Die.ERR_108,
   Reg.Die.MULTI_108, Reg.Die.KIND_108, Reg.Die.SDIE,
   Reg.Die.PBANK, Reg.Die.ROW, Reg.Die.HOT,
   Reg.Die.ERR_184, Reg.Die.MULTI_184, Reg.Die.KIND_184,
   Reg.Die.DEV, Reg.Die.PPN, Reg.Die.LINK_CE,
   Reg.Die.DIE_CE, Reg.Die.SPARE_FOR, Reg.Die.PICTURES,
   Reg.Die.CONCEALED_CU, Reg.Die.DAMAGED_PKT, Reg.Die.UNSUPPORTED,
   Reg.Die.SLICES, Reg.Die.SLOT_OUT_E, Reg.Die.SLOT_OUT_O]
/-- Fields of the Die page, part 1. -/
def Reg.Die.fields1 : List FieldSpec :=
  [Reg.Die.SLOT_IN_E, Reg.Die.SLOT_IN_O, Reg.Die.INFLIGHT,
   Reg.Die.BLOCKS, Reg.Die.ELEMS, Reg.Die.NONFINITE,
   Reg.Die.SHADOW_A, Reg.Die.SHADOW_B, Reg.Die.SHDONE_A,
   Reg.Die.SHDONE_B, Reg.Die.SHERR_A, Reg.Die.SHERR_B,
   Reg.Die.CEL_DEV, Reg.Die.CEL_ENT, Reg.Die.CEL_PPN,
   Reg.Die.CEL_COUNT, Reg.Die.CEL_UE, Reg.Die.CEL_VALID,
   Reg.Die.RB_WSTATE, Reg.Die.RB_SFAILS]
/-- Every field of the Die page. -/
def Reg.Die.fields : List FieldSpec := Reg.Die.fields0 ++ Reg.Die.fields1

/-- The block-specific fields of a page of this kind. -/
def PageKind.fields : PageKind → List FieldSpec
  | .commit => Reg.Commit.fields
  | .holds => Reg.Holds.fields
  | .landings => Reg.Landings.fields
  | .clocks => Reg.Clocks.fields
  | .slack => Reg.Slack.fields
  | .security => Reg.Security.fields
  | .reliab => Reg.Reliab.fields
  | .polders => Reg.Polders.fields
  | .selfTest => Reg.SelfTest.fields
  | .cxl => Reg.Cxl.fields
  | .hubAcct => Reg.HubAcct.fields
  | .trace => Reg.Trace.fields
  | .manifest => Reg.Manifest.fields
  | .routing => Reg.Routing.fields
  | .workQ => Reg.WorkQ.fields
  | .sluiceQ => Reg.SluiceQ.fields
  | .wharf => Reg.Wharf.fields
  | .ingest => Reg.Ingest.fields
  | .dieLink => Reg.DieLink.fields
  | .ferry => Reg.Ferry.fields
  | .program => Reg.Program.fields
  | .phase => Reg.Phase.fields
  | .staithe => Reg.Staithe.fields
  | .acct => Reg.Acct.fields
  | .core => Reg.Core.fields
  | .cluster => Reg.Clu.fields
  | .die => Reg.Die.fields

/-- TYPE of R497. -/
def PageKind.code : PageKind → Nat
  | .commit => 0x10
  | .holds => 0x11
  | .landings => 0x12
  | .clocks => 0x13
  | .slack => 0x14
  | .security => 0x15
  | .reliab => 0x16
  | .polders => 0x17
  | .selfTest => 0x18
  | .cxl => 0x19
  | .hubAcct => 0x1A
  | .trace => 0x1B
  | .manifest => 0x1C
  | .routing => 0x1D
  | .workQ => 0x1E
  | .sluiceQ => 0x1F
  | .wharf => 0x20
  | .ingest => 0x21
  | .dieLink => 0x22
  | .ferry => 0x23
  | .program => 0x30
  | .phase => 0x31
  | .staithe => 0x32
  | .acct => 0x33
  | .core => 0x01
  | .cluster => 0x02
  | .die => 0x03

/-- The kind of page `n`, none where the index is unpopulated (R497). -/
def pageKind (n : Nat) : Option PageKind :=
  if n < 0x100 then
    match n with
    | 0x000 => some .commit | 0x001 => some .holds | 0x002 => some .landings | 0x003 => some .clocks
    | 0x004 => some .slack | 0x005 => some .security | 0x006 => some .reliab | 0x007 => some .polders
    | 0x008 => some .selfTest | 0x009 => some .cxl | 0x00A => some .hubAcct | 0x00B => some .trace
    | 0x00C => some .manifest | 0x00D => some .routing | 0x00E => some .workQ | 0x00F => some .sluiceQ
    | 0x010 => some .wharf | 0x011 => some .ingest | 0x012 => some .ingest | 0x014 => some .dieLink
    | _ =>
      if 0x020 ≤ n ∧ n < 0x030 then some .ferry
      else if 0x040 ≤ n ∧ n < 0x050 then
        match (n - 0x040) % 4 with
        | 0 => some .program | 1 => some .phase | 2 => some .staithe | _ => some .acct
      else none
  else if n < 0x300 then
    let j := (n - 0x100) % 0x80
    if j = 0 then some .die
    else if j ≤ 8 then some .cluster
    else if 0x10 ≤ j ∧ j < 0x50 then some .core
    else none
  else none

/-- The pages of the table of R497, by name. -/
def Pg.commit : Nat := 0x000
def Pg.holds : Nat := 0x001
def Pg.landings : Nat := 0x002
def Pg.clocks : Nat := 0x003
def Pg.slack : Nat := 0x004
def Pg.security : Nat := 0x005
def Pg.reliab : Nat := 0x006
def Pg.polders : Nat := 0x007
def Pg.selfTest : Nat := 0x008
def Pg.cxl : Nat := 0x009
def Pg.hubAcct : Nat := 0x00A
def Pg.trace : Nat := 0x00B
def Pg.manifest : Nat := 0x00C
def Pg.routing : Nat := 0x00D
def Pg.workQ : Nat := 0x00E
def Pg.sluiceQ : Nat := 0x00F
def Pg.wharf : Nat := 0x010
def Pg.ingest (i : Nat) : Nat := 0x011 + i
def Pg.dieLink : Nat := 0x014
def Pg.ferry (p : Nat) : Nat := 0x020 + p
def Pg.program (p : Nat) : Nat := 0x040 + 4 * p
def Pg.phase (p : Nat) : Nat := 0x041 + 4 * p
def Pg.staithe (p : Nat) : Nat := 0x042 + 4 * p
def Pg.acct (p : Nat) : Nat := 0x043 + 4 * p
def Pg.die (d : Nat) : Nat := 0x100 + 0x80 * d
/-- The page of cluster `cl` = 8 × die + cluster. -/
def Pg.clu (cl : Nat) : Nat := 0x101 + 0x80 * (cl / 8) + cl % 8
/-- The page of core `c` = 64 × die + 8 × cluster + core. -/
def Pg.core (c : Nat) : Nat := 0x110 + 0x80 * (c / 64) + c % 64

/-- DIE of R500: 0 to 3 for a compute die's pages, 4 for the hub's. -/
def pageDie (n : Nat) : Nat := if n < 0x100 then 4 else (n - 0x100) / 0x80

/-- CLU of R500: the cluster, 0 for pages of no cluster. -/
def pageClu (n : Nat) : Nat :=
  if n < 0x100 then 0
  else
    let j := (n - 0x100) % 0x80
    if j = 0 then 0 else if j ≤ 8 then j - 1 else (j - 0x10) / 8

/-- INST of R500: logical core, port, polder or ingest port number; 0 otherwise. -/
def pageInst (n : Nat) : Nat :=
  if n = 0x011 ∨ n = 0x012 then n - 0x011
  else if 0x020 ≤ n ∧ n < 0x030 then n - 0x020
  else if 0x040 ≤ n ∧ n < 0x050 then (n - 0x040) / 4
  else if 0x100 ≤ n ∧ 0x10 ≤ (n - 0x100) % 0x80 then ((n - 0x100) % 0x80 - 0x10) % 8
  else 0

/-- Whether offset `o` is one of the words the replication of a field at `b` reaches. -/
def repHas (b : Nat) : List (Nat × Nat) → Nat → Bool
  | [], o => o == b
  | [(s, n)], o => b ≤ o && (o - b) % s == 0 && (o - b) / s < n
  | (s, n) :: r, o => (List.range n).any fun i => repHas (b + s * i) r o

/-- The offset of a field's word at indices `ix`, one for each stride. -/
def FieldSpec.off (f : FieldSpec) (ix : List Nat) : Nat :=
  f.base + ((f.rep.zip ix).map fun p => p.1.1 * p.2).sum

/-- Whether the field lies in the word at offset `o`. -/
def FieldSpec.at (f : FieldSpec) (o : Nat) : Bool := repHas f.base f.rep o

/-- The field's width in bits. -/
def FieldSpec.width (f : FieldSpec) : Nat := f.hi - f.lo + 1

/-- The field's bits as a mask of its word. -/
def FieldSpec.mask (f : FieldSpec) : Word := BitVec.ofNat 32 ((2 ^ f.width - 1) * 2 ^ f.lo)

/-- The fields of the word at offset `o` (< 0x800) of page `n`. -/
def fieldsAt (n o : Nat) : List FieldSpec :=
  match pageKind n with
  | none => []
  | some k => if o < 0x100 then Reg.Common.fields.filter (·.at o) else k.fields.filter (·.at o)

/-- The bits of a word whose fields satisfy `q`. -/
def maskOf (n o : Nat) (q : FieldSpec → Bool) : Word :=
  (fieldsAt n o).foldl (fun m f => if q f then m ||| f.mask else m) 0

/-- The ST bits of the live word at offset `o` of page `n`. -/
def stMask (n o : Nat) : Word := maskOf n o (·.acc == .st)

/-- The value a live word has at reset: the reset values of its fields; the fields of R500 marked per page are computed
from the page index (polder 0 and PCFG 0 at reset). -/
def resetLive (n o : Nat) : Word :=
  match pageKind n with
  | none => 0
  | some k =>
    if o = 0x000 then
      BitVec.ofNat 32 (n + k.code * 2 ^ 12 + pageDie n * 2 ^ 20 + pageClu n * 2 ^ 23 + pageInst n * 2 ^ 26)
    else if o = 0x008 then
      if pageDie n = 4 ∧ ¬ (0x040 ≤ n ∧ n < 0x050) then BitVec.ofNat 32 (2 ^ 4)
      else if n < 0x100 then BitVec.ofNat 32 ((n - 0x040) / 4 * 2 ^ 5)
      else 0
    else
      (fieldsAt n o).foldl (fun w f => w ||| BitVec.ofNat 32 (f.reset * 2 ^ f.lo)) 0

/-- What register word `key` = 1,024 × page + offset / 4 reads as at reset: live words below offset 0x800, the staged
image of R504 above, whose ST bits equal the live ones. -/
def resetReg (key : Nat) : Word :=
  let n := key / 1024
  let o := key % 1024 * 4
  if o < 0x800 then resetLive n o
  else if 0x800 ≤ o ∧ o < 0xF00 then resetLive n (o - 0x700) &&& stMask n (o - 0x700)
  else 0

end Sys2Proof.Machine
end

