-- ==== Sys2Proof/Machine/State.lean ====
section
/-! DEFINITION. The machine's state, the state after reset, and the reasons a step can stop. -/

namespace Sys2Proof.Machine

/-- Reasons the model can stop with a fault. No meaning raises one: the module's own faults are next states. -/
inductive Fault where
  /-- Raised by nothing; kept so that the type is not empty (safe). -/
  | unreachable
  deriving DecidableEq, Repr

/-- Reasons the model can refuse a command. -/
inductive Refusal where
  /-- A command that has no meaning yet (safe). -/
  | notModelled (mnemonic : String)
  deriving DecidableEq, Repr

/-- A write held back at an uncopied granule (R371): address, bytes with enables, whether check values are written, and
the writer's die, cluster and unit codes of R201, the first comparator tag of the Sluice job that writes (R347), and the
in-flight instruction that writes, 0 for none. -/
structure StalledWrite where
  addr  : Nat
  bytes : List (Option Byte)
  cvm   : Bool
  wdie  : Nat
  wclu  : Nat
  wunit : Nat
  own   : Option Nat
  instr : Nat
  deriving DecidableEq, Repr

/-- What the module sends to the host (R290, R361, R426, R427). -/
inductive HostMsg where
  /-- An MSI-X message with its vector. -/
  | msix (vec : Nat)
  /-- Bytes written to host memory at an address. -/
  | write (addr : Nat) (bytes : List Byte)
  deriving DecidableEq, Repr

/-- The state of the block. -/
structure State where
  /-- Commands that wait, first in, first out. -/
  pending   : List Instr
  /-- Register pages, live and staged, by 1,024 × page + word (R497, R504). -/
  regs      : Sparse Word
  /-- Bytes of the readout space of R464: LPDDR5X, SST, side words, pools, stage buffers, capture buffers. -/
  mem       : Sparse Byte
  /-- Tile registers and accumulator sets as FP32 words, by readout address / 4 (R86, R114, R464). -/
  words32   : Sparse Word
  /-- Page-map entries as written, and as translation uses them (R179, R180). -/
  pmap      : Sparse Word
  pmapEff   : Sparse Word
  /-- Page-map writes not yet in effect: entry, value, SCLK edges left. -/
  pmapPend  : List (Nat × Word × Nat)
  engines   : Sparse Engine
  jobs      : List (Nat × Job)
  inflight  : List Inflight
  reqs      : List Req
  windows   : List Window
  streams   : Sparse Stream
  /-- Accumulator sets that an MMA has opened since reset, per logical core, as a mask (R93). -/
  meOpened  : Sparse Nat
  /-- MVP vector buffers by physical core × 2^17 + byte (R109). -/
  mvpBuf    : Sparse Byte
  /-- MVP weight queues by logical core (R108). -/
  wqueue    : Sparse (List WGroup)
  /-- Zero-map records by physical core × 4,096 + record (R99). -/
  zmap      : Sparse (BitVec 128)
  silt      : Sparse Silt
  wheel     : Wheel
  /-- Accesses an SRAM die took in the current slot (R174): SRAM die, NCLK, first and last line of the block. -/
  sstNow    : List (Nat × Nat × Nat × Nat)
  /-- LPDDR5X channels, by 4 × device + channel: MCLK from which the next chunk may start; banks, by 16 × channel + bank,
  likewise; controller groups: MCLK at which each queued command is accepted (R178). -/
  lpChan    : Sparse Nat
  lpBank    : Sparse Nat
  lpQueue   : Sparse (List Nat)
  /-- Transfers in a cluster port's delivery buffer, oldest first (R253). -/
  delivery  : Sparse (List Passing)
  /-- Corrected-error logs by device, newest first: page, count, uncorrectable (R390). -/
  cel       : Sparse (List (Nat × Nat × Bool))
  hold      : Hold
  /-- LPDDR5X devices that ask for a doubled refresh rate (R199). -/
  hotDevs   : List Nat
  polders   : List Polder
  /-- Hub comparators in use: owner tag, first and last byte (R198). -/
  hubCmp    : List (Nat × Nat × Nat)
  stalled   : List StalledWrite
  /-- Granules marked uncopied (R369): polder, granule address / 64 KiB. -/
  uncopied  : List (Nat × Nat)
  /-- What the module has sent to the host, newest last, and whether the CXL link is up (R422). -/
  hostOut   : List HostMsg
  cxlUp     : Bool
  /-- HDM_SEGS as the last conventional reset of the CXL port sampled it (R417). -/
  hdm       : Nat
  /-- A Slack freeze has stopped the functional dividers (R463). -/
  frozen    : Bool
  /-- Words of ST fields written by software or an agent since the last APPLY (R504). -/
  stagedWritten : List Nat
  /-- Fields an agent has staged for the next step boundary of their page's polder (R394, R511): page, offset, mask,
  value. -/
  agentWrites : List (Nat × Nat × Word × Word)
  landings  : Sparse Landing
  landingQ  : List QueuedOp
  /-- Releases whose RTOK post is to come: the SCLK it is due, core and gate (R282). The landing unit has applied an operation
  in this SCLK (R277). -/
  releases  : List (Nat × Nat × Nat)
  landingDone : Bool
  /-- Releases of hub agents not yet acted upon (R288). -/
  granted   : List WaitWho
  /-- Queues of an abandoned polder, which claim no more until they are enabled again (R380, R400). -/
  haltedQ   : List WaitWho
  /-- Gate tables as latched, by 32 × core + gate (R278). -/
  gates     : Sparse Gate
  tags      : Sparse (BitVec 16)
  hostLines : Sparse HostLines
  /-- TIMESTAMP and page of the primary fault raised last (R268). -/
  faultAt   : Option (Nat × Nat)
  /-- HI words latched by a read of a LO word: key of the HI word and its value (R267). -/
  hiLatch   : List (Nat × Word)
  /-- Word returned by the last register read, line and poison of the last CXL.mem read. -/
  outWord   : Word
  outLine   : List Byte
  outPoison : Bool
  /-- Ferry ports, and the transfers and crossings received (R299 to R305, R316). -/
  ports     : List Port
  rxStreams : List RxStream
  /-- Crossings of collectives that this module has not started, by arrival (R330, R332). -/
  rxWait    : List Crossing
  workqs    : Sparse WorkQ
  barriers  : List BarSeen
  /-- Batches in progress in ring order, channels with a sample, accepted frames kept in the ports' receive
  buffers, datagrams sent, next READ tag, channel that each Reedbed unit's entropy engine serves
  (R204 to R243, R265). -/
  batches   : List Batch
  chans     : Sparse (Option Chan)
  ingestRx  : List (Nat × List Byte)
  netOut    : List NetOut
  wharfTag  : Nat
  entropyAt : Sparse Nat
  sluice    : List SluiceJob
  /-- INVALID and OVERFLOW counted by Sluice unit u of die d, by 4 × d + u (R346). -/
  sluiceEv  : Sparse (Nat × Nat)
  /-- Trace buffer, next SEQ, Towpath of each polder, triggers of the snapshot to come (R478 to R488). -/
  trace     : List TraceRec
  traceSeq  : Nat
  towpath   : List Towpath
  snapTrig  : Nat
  freeze    : FreezeSt
  /-- Snapshots by polder, transfers of the Staithe engines, how many they have made, and SENDs by polder (R366 to R382). -/
  snaps     : List Snap
  stPuts    : List StPut
  stSent    : Nat
  sends     : Sparse SendJob
  /-- A commit being checked or armed (R506 to R510). -/
  commit    : Option Commit
  moves     : List Move
  /-- Repair fields of physical cores that carry no name: POOL_BANK_MAP and ARRAY_MAP words by 9 × cluster + core (R393). -/
  repairs   : Sparse (Word × Word)
  /-- Spares that soundings marked FAILED (R395): 0 pool, 9 × cluster + physical core, spare; 1 SST, 2 × die + SRAM die,
  spare; 2 spare lane, port, 0. -/
  badSpares : List (Nat × Nat × Nat)
  /-- Cores by 9 × cluster + physical core: order of their last sounding cycle, 0 for none; those that have passed a cycle
  since they last carried a name (R394). -/
  sounded   : Sparse Nat
  soundOk   : List Nat
  /-- Next row of each SST shadow copy, by 4 × die + 2 × SRAM die + spare (R389). -/
  shadowRow : Sparse Nat
  /-- Loads of program images that have not finished, and those whose windows and landing counts stand in staged images. -/
  loads     : List LoadJob
  imaged    : List LoadJob
  /-- Gather buffers in use, oldest first (R421). -/
  gather    : List GatherBuf
  /-- Fuses, flash, running firmware; the boot ROM stays in recovery (R439); compute dies held (R440). -/
  fuses     : Fuses
  flash     : Flash
  running   : Running
  recovery  : Bool
  heldDies  : List Nat
  power     : Power
  throttle  : Throttle
  /-- SCLK since the watchdog was kicked (R460). -/
  wdog      : Nat
  selfTest  : Option SelfTestJob
  /-- Consecutive passed soundings of Reedbed units, by 5 × die + unit (R396). -/
  rbPass    : Sparse Nat
  /-- SPDM connection state over DOE and over SMBus (R446): 0 none, 1 version, 2 capabilities, 3 algorithms; answers
  sent. -/
  spdm      : Nat × Nat
  spdmOut   : List (Transport × SpdmReply)
  mfJobs    : List MfJob
  /-- Lengths of the whole records in the LPDDR5X ring, oldest first (R478). -/
  ringRecs  : List Nat
  /-- Offset of the next byte in the ring, in full (R495 RING_HEAD has its low 32 bits). -/
  ringHead  : Nat
  /-- Microjoules not yet counted as millijoules, by polder, and of the hub (R432). -/
  energy    : Sparse Nat
  /-- Next identifier of in-flight instructions and requests. -/
  ids       : Nat
  /-- Counter the free values are drawn at. -/
  fresh     : Nat
  deriving DecidableEq, Repr

/-- The module right after a reset (R460, R461): the rails are up, the root PLL has not locked, no boot has run. Every
register reads its reset value, every memory reads its unlisted value (log entry 4), fuses and flash are blank (log entry
6), and the free values are drawn from 0 (log entry 5). -/
def State.reset : State where
  pending   := []
  regs      := []
  mem       := []
  words32   := []
  pmap      := []
  pmapEff   := []
  pmapPend  := []
  engines   := []
  jobs      := []
  inflight  := []
  reqs      := []
  windows   := []
  streams   := []
  meOpened  := []
  mvpBuf    := []
  wqueue    := []
  zmap      := []
  silt      := []
  wheel     := ⟨0, false⟩
  sstNow    := []
  lpChan    := []
  lpBank    := []
  lpQueue   := []
  delivery  := []
  cel       := []
  hold      := Hold.none
  hotDevs   := []
  polders   := List.replicate 4 Polder.idle
  hubCmp    := []
  stalled   := []
  uncopied  := []
  hostOut   := []
  cxlUp     := false
  hdm       := 0x40
  frozen    := false
  stagedWritten := []
  agentWrites := []
  landings  := []
  landingQ  := []
  releases  := []
  landingDone := false
  granted   := []
  haltedQ   := []
  gates     := []
  tags      := []
  hostLines := []
  faultAt   := none
  hiLatch   := []
  outWord   := 0
  outLine   := []
  outPoison := false
  ports     := List.replicate 16 Port.fresh
  rxStreams := []
  rxWait    := []
  workqs    := []
  barriers  := []
  batches   := []
  chans     := []
  ingestRx  := []
  netOut    := []
  wharfTag  := 0
  entropyAt := []
  sluice    := []
  sluiceEv  := []
  trace     := []
  traceSeq  := 0
  towpath   := List.replicate 4 Towpath.idle
  snapTrig  := 0
  freeze    := FreezeSt.none
  snaps     := List.replicate 4 Snap.none
  stPuts    := []
  stSent    := 0
  sends     := []
  commit    := none
  moves     := []
  repairs   := []
  badSpares := []
  sounded   := []
  soundOk   := []
  shadowRow := []
  loads     := []
  imaged    := []
  gather    := []
  fuses     := Fuses.blank
  flash     := Flash.blank
  running   := Running.none
  recovery  := false
  heldDies  := []
  power     := ⟨true, true, true, false, false, false, none⟩
  throttle  := Throttle.none
  wdog      := 0
  selfTest  := none
  rbPass    := []
  spdm      := (0, 0)
  spdmOut   := []
  mfJobs    := []
  ringRecs  := []
  ringHead  := 0
  energy    := []
  ids       := 1
  fresh     := 0

end Sys2Proof.Machine
end

