-- ==== Sys2Proof/Machine/Ops.lean ====
section
/-! DEFINITION. The named operations over registers, memory, faults, tokens and events that every meaning is built
from. -/

namespace Sys2Proof.Machine

/-! Bits and bytes. -/

/-- Bits [hi:lo] of a number. -/
def bits (n hi lo : Nat) : Nat := n / 2 ^ lo % 2 ^ (hi - lo + 1)

/-- Bits [hi:lo] of word `w` of an instruction. -/
def iw (i : BitVec 256) (w hi lo : Nat) : Nat := bits i.toNat (32 * w + hi) (32 * w + lo)

/-- Little-endian value of bytes (R15). -/
def bytesNat : List Byte → Nat
  | [] => 0
  | b :: r => b.toNat + 256 * bytesNat r

/-- The low `n` bytes of a number, little-endian. -/
def natBytes : Nat → Nat → List Byte
  | 0, _ => []
  | n + 1, v => BitVec.ofNat 8 v :: natBytes n (v / 256)

/-- `a` rounded up to a quotient by `b`. -/
def ceilDiv (a b : Nat) : Nat := (a + b - 1) / b

/-- A Bool as a bit. -/
def bit (b : Bool) : Nat := if b then 1 else 0

/-- Cut `l` into pieces of `n`, at most `fuel` of them. -/
def chunks {α : Type} (n : Nat) : Nat → List α → List (List α)
  | 0, _ => []
  | f + 1, l => if l.isEmpty then [] else l.take n :: chunks n f (l.drop n)

/-! Registers. -/

/-- Index of the word at offset `o` of page `p`. -/
def regKey (p o : Nat) : Nat := p * 1024 + o / 4

/-- The word at offset `o` of page `p`. -/
def State.word (s : State) (p o : Nat) : Word := sget resetReg s.regs (regKey p o)

def State.setWord (s : State) (p o : Nat) (v : Word) : State :=
  { s with regs := sset resetReg s.regs (regKey p o) v }

/-- A word with field `f` replaced by `v`. -/
def putField (w : Word) (f : FieldSpec) (v : Nat) : Word :=
  (w &&& ~~~f.mask) ||| BitVec.ofNat 32 (v % 2 ^ f.width * 2 ^ f.lo)

/-- The value of a field of page `p`; `ix` has one index for each replication. -/
def State.rd (s : State) (p : Nat) (f : FieldSpec) (ix : List Nat := []) : Nat :=
  bits (s.word p (f.off ix)).toNat f.hi f.lo

def State.wr (s : State) (p : Nat) (f : FieldSpec) (ix : List Nat) (v : Nat) : State :=
  s.setWord p (f.off ix) (putField (s.word p (f.off ix)) f v)

/-- Write a field the device changes itself and its staged copy (R504), unless software or an agent wrote the field's
word since the last APPLY. -/
def State.wrSt (s : State) (p : Nat) (f : FieldSpec) (ix : List Nat) (v : Nat) : State :=
  let s1 := s.wr p f ix v
  if s.stagedWritten.contains (regKey p (f.off ix)) then s1
  else s1.setWord p (f.off ix + 0x700) (putField (s1.word p (f.off ix + 0x700)) f v)

/-- Add to a counting field, saturating at its width. -/
def State.addSat (s : State) (p : Nat) (f : FieldSpec) (ix : List Nat) (n : Nat) : State :=
  s.wr p f ix (min (s.rd p f ix + n) (2 ^ f.width - 1))

/-- Two fields read as one number. -/
def State.rd2 (s : State) (p : Nat) (lo hi : FieldSpec) (ix : List Nat := []) : Nat :=
  s.rd p lo ix + s.rd p hi ix * 2 ^ lo.width

def State.wr2 (s : State) (p : Nat) (lo hi : FieldSpec) (ix : List Nat) (v : Nat) : State :=
  (s.wr p lo ix v).wr p hi ix (v / 2 ^ lo.width)

/-- Add to a counter of two words, which wraps (R267). -/
def State.add2 (s : State) (p : Nat) (lo hi : FieldSpec) (ix : List Nat) (n : Nat) : State :=
  s.wr2 p lo hi ix (s.rd2 p lo hi ix + n)

/-! Polders and pages (R399, R498). -/

def State.pcfg (s : State) : Nat := s.rd Pg.polders Reg.Polders.PCFG

/-- The polder of a die. -/
def State.polderOfDie (s : State) (d : Nat) : Nat :=
  match s.pcfg with
  | 0 => 0
  | 1 => d / 2
  | _ => d

/-- Polders that the PCFG forms. -/
def State.npolders (s : State) : Nat :=
  match s.pcfg with
  | 0 => 1
  | 1 => 2
  | _ => 4

/-- Dies of a polder. -/
def State.diesOf (s : State) (p : Nat) : List Nat :=
  (List.range 4).filter fun d => s.polderOfDie d == p && p < s.npolders

def State.polderOfCore (s : State) (c : Nat) : Nat := s.polderOfDie (c / 64)

/-- The polder of a page, none for a hub page (R498). -/
def State.polderOfPage (s : State) (n : Nat) : Option Nat :=
  if 0x100 ≤ n then some (s.polderOfDie (pageDie n))
  else if 0x040 ≤ n ∧ n < 0x050 then some ((n - 0x040) / 4)
  else none

def State.polder (s : State) (p : Nat) : Polder := s.polders.getD p Polder.idle

def State.setPolder (s : State) (p : Nat) (x : Polder) : State := { s with polders := s.polders.set p x }

/-- STEP of a polder (R45, R512). -/
def State.stepNo (s : State) (p : Nat) : Nat := s.rd Pg.commit Reg.Commit.STEP [p]

/-- Run key of a polder. -/
def State.runKey (s : State) (p : Nat) : BitVec 64 :=
  BitVec.ofNat 64 (s.rd2 Pg.commit Reg.Commit.RUN_KEY_LO Reg.Commit.RUN_KEY_HI [p])

def State.timestamp (s : State) : Nat := s.rd2 Pg.clocks Reg.Clocks.TIMESTAMP_LO Reg.Clocks.TIMESTAMP_HI

/-! Messages to the host, interrupts and events. -/

/-- Send to the host; while the link is down the message is dropped and counted (R422). -/
def State.toHost (s : State) (m : HostMsg) : State :=
  if s.cxlUp then { s with hostOut := s.hostOut ++ [m] }
  else s.addSat Pg.cxl Reg.Cxl.LINK_DROPPED [] 1

/-- INTR_STATUS AND INTR_ENABLE is not zero (R501). -/
def State.irq (s : State) (p : Nat) : Bool := (s.word p 0x080 &&& s.word p 0x084) &&& 7 != 0

/-- The vector a page's interrupt is sent as (R427). -/
def State.vecOf (s : State) (p : Nat) : Nat :=
  match s.polderOfPage p with
  | some q => s.rd Pg.cxl Reg.Cxl.POLDER_VEC [q]
  | none => s.rd Pg.cxl Reg.Cxl.HUB_VEC

/-- `t` after a change of page `p`'s INTR_STATUS from state `s`: the interrupt of R501. -/
def State.irqEdge (s : State) (p : Nat) (t : State) : State :=
  if !s.irq p && t.irq p then t.toHost (.msix (t.vecOf p)) else t

/-- EVENT of a page is set (R501). -/
def State.setEvent (s : State) (p : Nat) : State :=
  s.irqEdge p (s.wr p Reg.Common.EVENT [] 1)

/-- Add `n` occurrences of event `code` to counter `i` of page `p` (R473, R474). -/
def State.eventOne (s : State) (p code n i : Nat) : State :=
  let counts :=
    s.rd p Reg.Common.EVSEL_EN [i] == 1 && s.rd p Reg.Common.EVSEL_EVENT [i] == code
      && s.rd p Reg.Common.EVSTOP == 0
      && !(s.rd p Reg.Common.EVSEL_HOLDX [i] == 1 && s.hold.now.isSome)
  if counts then
    let v := s.rd p Reg.Common.EVCNT [2 * i] + s.rd p Reg.Common.EVCNT [2 * i + 1] % 2 ^ 16 * 2 ^ 32 + n
    let t := (s.wr p Reg.Common.EVCNT [2 * i] v).wr p Reg.Common.EVCNT [2 * i + 1] (v / 2 ^ 32 % 2 ^ 16)
    if 2 ^ 48 ≤ v then s.irqEdge p ((t.wr p Reg.Common.EVSEL_OVF [i] 1).wr p Reg.Common.OVF [] 1) else t
  else s

/-- `n` occurrences of event `code` in page `p`; a reserved code counts nothing. -/
def State.event (s : State) (p code n : Nat) : State :=
  if n = 0 ∨ code = 0 ∨ s.frozen then s
  else (List.range 8).foldl (fun t i => t.eventOne p code n i) s

/-- `n` increments of an RC count field: the field saturates, the event of R475 counts every one. -/
def State.count (s : State) (p : Nat) (f : FieldSpec) (ix : List Nat) (n : Nat) : State :=
  (s.addSat p f ix n).event p (0x200 + (f.off ix - 0x100) / 4) n

/-! Engines. -/

/-- Engines by number: 4 × core + e, then 1,024 + 4 × cluster + e. -/
def EngineId.key : EngineId → Nat
  | .core c e => 4 * c.val + e.val
  | .clu c e => 1024 + 4 * c.val + e.val

def engDie (k : Nat) : Nat := if k < 1024 then k / 256 else (k - 1024) / 32
/-- The register page of an engine. -/
def engPage (k : Nat) : Nat := if k < 1024 then Pg.core (k / 4) else Pg.clu ((k - 1024) / 4)
/-- The engine code of R502. -/
def engCode (k : Nat) : Nat := if k < 1024 then k % 4 else 4 + k % 4

def State.engine (s : State) (k : Nat) : Engine := sget (fun _ => Engine.idle) s.engines k
def State.setEngine (s : State) (k : Nat) (e : Engine) : State :=
  { s with engines := sset (fun _ => Engine.idle) s.engines k e }

/-- Write an engine's queue occupancy into its page (R106, R139, R167). -/
def State.occupancy (s : State) (k : Nat) : State :=
  let n := (s.engine k).queue.length
  if k < 1024 then
    match k % 4 with
    | 0 => s.wr (engPage k) Reg.Core.MEQ [] n
    | 1 => s.wr (engPage k) Reg.Core.MVPQ [] n
    | 2 => s.wr (engPage k) Reg.Core.VEQ [] n
    | _ => s
  else
    match k % 4 with
    | 0 => s.wr (engPage k) Reg.Clu.STQ [] n
    | 1 => s.wr (engPage k) Reg.Clu.P0Q [] n
    | 2 => s.wr (engPage k) Reg.Clu.P1Q [] n
    | _ => s.wr (engPage k) Reg.Clu.SLQ [] n

/-- `n` stalled ACLK of engine `k` under a cause of R476. -/
def State.stallAs (s : State) (k c n : Nat) : State :=
  let p := engPage k
  let e := k % 4
  let t :=
    if k < 1024 then
      if e < 2 then s.add2 p Reg.Core.STALL_LO_500 Reg.Core.STALL_HI_504 [e, c] n
      else s.add2 p Reg.Core.STALL_LO_460 Reg.Core.STALL_HI_464 [e - 2, c] n
    else s.add2 p Reg.Clu.STALL_LO Reg.Clu.STALL_HI [e, c] n
  t.event p (0x040 + 16 * e + c) n

/-- A write of an instruction of engine `k` is held back at an uncopied granule (R371). -/
def State.heldBack (s : State) (k : Nat) : Bool :=
  s.stalled.any fun w => w.instr != 0 && s.inflight.any fun x => x.id == w.instr && x.eng == k

/-- `n` stalled ACLK whose cause is the first of R476 that applies: a hold, a write held back before its copy-on-write hold,
a pending fault, else `c`. A frozen module counts nothing (R463). -/
def State.stallFor (s : State) (k c n : Nat) : State :=
  if s.frozen then s
  else
    match s.hold.now with
    | some h => s.stallAs k (5 + h.code) n
    | none =>
      if s.heldBack k then s.stallAs k 7 n
      else if (s.polder (s.polderOfDie (engDie k))).fault then s.stallAs k 4 n else s.stallAs k c n

/-- A command turned away counts one stalled ACLK (log entry 12). -/
def State.stall (s : State) (k c : Nat) : State := s.stallFor k c 1

/-- No fault of the polder stops its engines yet: none is pending, or it was raised in this SCLK (R268). -/
def State.faultFree (s : State) (p : Polder) : Bool := !p.fault || p.since == s.timestamp

/-- An engine may fire or issue: its polder's step runs, no hold, freeze or fault of an earlier SCLK stops it, it has
raised none itself, and no write of it waits for a copy (R71, R268, R371, R463). -/
def State.canRun (s : State) (k : Nat) : Bool :=
  let p := s.polder (s.polderOfDie (engDie k))
  !s.frozen && s.hold.now.isNone && p.live && s.faultFree p && !(p.fault && p.downs.contains (engPage k, engCode k))
    && !s.heldBack k

/-! Faults (R268, R400, R502). -/

/-- A fault record. `home` is the polder of a hub fault that names a home core; `lone` marks one that abandons no
step. -/
structure FaultRec where
  page   : Nat
  code   : Nat
  engine : Nat
  core   : Nat
  unit   : Nat
  pc     : Nat
  addr   : Nat
  home   : Option Nat
  lone   : Bool
  deriving DecidableEq, Repr

/-- PC of a fault to which no instruction applies. -/
def noPc : Nat := 0xFFFFFFFF

/-- The polders whose step a fault abandons (R400). -/
def State.faultPolders (s : State) (f : FaultRec) : List Nat :=
  if f.lone then []
  else if 0x100 ≤ f.page then [s.polderOfDie (pageDie f.page)]
  else match f.home with
    | some p => [p]
    | none => List.range s.npolders

/-- Whether a fault raised now in page `pg` is the primary one: no fault of this SCLK lies in a lower page (R268). -/
def State.isPrimary (s : State) (pg : Nat) : Bool :=
  match s.faultAt with
  | some (t, q) => t != s.timestamp || pg < q
  | none => true

/-- Fill the fault record of a page whose VALID is 0 (R502). -/
def State.fillRecord (s : State) (f : FaultRec) : State :=
  let w0 := f.code + f.engine * 2 ^ 8 + f.core % 8 * 2 ^ 12 + f.unit % 32 * 2 ^ 15
    + bit (s.isPrimary f.page) * 2 ^ 28 + bit f.lone * 2 ^ 29 + 2 ^ 31
  let pol := if 0x100 ≤ f.page then some (s.polderOfDie (pageDie f.page)) else f.home
  let st := match pol with
    | some p => s.stepNo p % 2 ^ 16
    | none => 0
  let t := s.setWord f.page 0x010 (BitVec.ofNat 32 w0)
  let t := t.setWord f.page 0x014 (BitVec.ofNat 32 f.pc)
  let t := t.setWord f.page 0x018 (BitVec.ofNat 32 f.addr)
  let t := t.setWord f.page 0x01C (BitVec.ofNat 32 (f.addr / 2 ^ 32 % 2 ^ 16 + st * 2 ^ 16))
  let t := t.wr f.page Reg.Common.FAULT_008 [] 1
  let t := t.wr f.page Reg.Common.FAULT_080 [] 1
  s.irqEdge f.page (t.event f.page 0x004 1)

/-- Mark a polder's step for abandoning; `d` names the engine that stops at once. -/
def State.markFault (s : State) (p : Nat) (d : List (Nat × Nat)) : State :=
  let x := s.polder p
  s.setPolder p { x with
    fault := true
    since := if x.fault then x.since else s.timestamp
    downs := if x.fault then x.downs ++ d else d }

/-- The engine whose instruction raised a fault; a post that overflows stops no engine before its SCLK ends. -/
def FaultRec.down (f : FaultRec) : List (Nat × Nat) :=
  if f.pc = noPc ∨ f.code = 0x08 then [] else [(f.page, f.engine)]

/-- Raise a fault: the first while VALID is 0 fills the record, a later one sets MULTI; the polders of R400 stop. -/
def State.raise (s : State) (f : FaultRec) : State :=
  let pri := s.isPrimary f.page
  let s1 := match s.faultAt with
    | some (t, q) => if t = s.timestamp ∧ pri then s.wr q Reg.Common.FC_PRIMARY [] 0 else s
    | none => s
  let s2 :=
    if s.rd f.page Reg.Common.FC_VALID = 1 then s1.wr f.page Reg.Common.FC_MULTI [] 1 else s1.fillRecord f
  let s3 := if pri then { s2 with faultAt := some (s.timestamp, f.page) } else s2
  (s.faultPolders f).foldl (fun t p => t.markFault p f.down) s3

/-- A fault of engine `k` at instruction `pc`, in the engine's own page. -/
def engFault (k pc code addr : Nat) (home : Nat := 0) : FaultRec :=
  ⟨engPage k, code, engCode k, if k < 1024 then k / 4 % 8 else home, 0, pc, addr, none, false⟩

/-- Set ERR of a unit's error register with its fields, or MULTI when ERR is already set. -/
def State.errReg (s : State) (p : Nat) (err multi : FieldSpec) (fs : List (FieldSpec × Nat)) : State :=
  if s.rd p err = 1 then s.wr p multi [] 1
  else fs.foldl (fun t e => t.wr p e.1 [] e.2) (s.wr p err [] 1)

/-! Token counters and valid bits (R57 to R63, R77). -/

/-- Value of token counter `t` of core `c`. -/
def State.token (s : State) (c t : Nat) : Nat :=
  bits (s.word (Pg.core c) (0x140 + 4 * (t / 4))).toNat (t % 4 * 8 + 7) (t % 4 * 8)

def State.setToken (s : State) (c t v : Nat) : State :=
  s.wr (Pg.core c) ⟨0x140, [(4, 16)], t % 4 * 8 + 7, t % 4 * 8, .ro, 0⟩ [t / 4] v

/-- A post (R61): past 255 it is not applied and raises TOKEN_OVERFLOW. R61 names no page for it where the counter is another
core's: the model records it in the page of the counter's core (log entry 57). -/
def State.post (s : State) (k pc c t : Nat) : State :=
  if s.token c t = 255 then s.raise { engFault k pc 0x08 t with page := Pg.core c }
  else s.setToken c t (s.token c t + 1)

/-- The valid bit of granule `g` of core `c`. -/
def State.valid (s : State) (c g : Nat) : Bool := (s.word (Pg.core c) (0x200 + 4 * (g / 32))).getLsbD (g % 32)

def State.setValid (s : State) (c g : Nat) (b : Bool) : State :=
  s.wr (Pg.core c) ⟨0x200, [(4, 48)], g % 32, g % 32, .ro, 0⟩ [g / 32] (bit b)

/-- Clear or set the valid bits of a list of (core, granule). -/
def State.setValids (s : State) (gs : List (Nat × Nat)) (b : Bool) : State :=
  gs.foldl (fun t g => t.setValid g.1 g.2 b) s

def State.stream (s : State) (c n : Nat) : Stream := sget (fun _ => Stream.idle) s.streams (8 * c + n)
def State.setStream (s : State) (c n : Nat) (x : Stream) : State :=
  { s with streams := sset (fun _ => Stream.idle) s.streams (8 * c + n) x }

/-- Granule `g` of core `c` belongs to the ring of an armed stream (R66). -/
def State.inRing (s : State) (c g : Nat) : Bool :=
  (List.range 8).any fun n =>
    let x := s.stream c n
    x.armed && x.desc.kind == 0 && x.desc.rbase ≤ g && g < x.desc.rbase + x.desc.rgn

/-! The address map (R50, R51, R170 to R179). -/

def sstBase : Nat := 0x010000000000
def poolBase : Nat := 0x010400000000
def poolEnd : Nat := 0x010480000000

inductive Region where
  | lpddr | sst | pool | other
  deriving DecidableEq, Repr

/-- The range of R170 an address lies in. -/
def regionOf (a : Nat) : Region :=
  if a < 0x010000000000 then .lpddr
  else if a < 0x010400000000 then .sst
  else if a < 0x010480000000 then .pool
  else .other

/-- Module memory: LPDDR5X and SST (R170). -/
def isModMem (a : Nat) : Bool := regionOf a == .lpddr || regionOf a == .sst

/-- Module address of a pool offset of core `c`. -/
def poolAddr (c off : Nat) : Nat := poolBase + c * 0x800000 + off
def poolCore (a : Nat) : Nat := (a - poolBase) / 0x800000
def poolOff (a : Nat) : Nat := (a - poolBase) % 0x800000
/-- Bytes of a pool that are populated. -/
def poolSize : Nat := 0x600000

/-- The physical core that carries logical core `c` (R74). -/
def State.physCore (s : State) (c : Nat) : Nat :=
  bits (s.word (Pg.clu (c / 8)) 0x100).toNat (c % 8 * 4 + 3) (c % 8 * 4)

/-- Readout address of the core arrays of a logical core: space, cluster and physical core. -/
def State.coreArea (s : State) (space c : Nat) : Nat :=
  space * 2 ^ 44 + c / 64 * 2 ^ 31 + c / 8 % 8 * 2 ^ 28 + s.physCore c * 2 ^ 24

/-- Physical bank that serves a logical pool bank of core `c` (R55). -/
def State.poolBank (s : State) (c b : Nat) : Nat :=
  if s.rd (Pg.core c) Reg.Core.SPARE_A_FOR = b then 32
  else if s.rd (Pg.core c) Reg.Core.SPARE_B_FOR = b then 33
  else b

/-- Physical bank that serves a logical SST bank of an SRAM die (R175). -/
def State.sstBank (s : State) (d sr b : Nat) : Nat :=
  if s.rd (Pg.die d) Reg.Die.SPARE_A_FOR [sr] = b then 64
  else if s.rd (Pg.die d) Reg.Die.SPARE_B_FOR [sr] = b then 65
  else b

/-- The page-map entry that translation uses for an address: device and PPN, none where unmapped (R179, R180). -/
def State.lpPage (s : State) (a : Nat) : Option (Nat × Nat) :=
  let e := (sget (fun _ => 0) s.pmapEff (a / 2 ^ 21)).toNat
  let ppn := bits e 20 6
  if bits e 0 0 = 1 ∧ ppn ≤ 0x41EE then some (bits e 5 1, ppn) else none

/-- Readout address of an SST byte in physical bank `pb`. -/
def sstPhys (o pb : Nat) : Nat :=
  2 ^ 44 + bits o 33 32 * 2 ^ 33 + bits o 12 12 * 2 ^ 32 + pb * 2 ^ 25 + bits o 31 13 * 2 ^ 6 + bits o 5 0

/-- The physical byte of a module address, as a readout-space address of R464; none where nothing is populated or
mapped. -/
def State.phys (s : State) (a : Nat) : Option Nat :=
  match regionOf a with
  | .lpddr =>
    match s.lpPage a with
    | some (dev, ppn) => some (dev * 2 ^ 36 + ppn * 2 ^ 21 + a % 2 ^ 21)
    | none => none
  | .sst =>
    let o := a - sstBase
    some (sstPhys o (s.sstBank (bits o 33 32) (bits o 12 12) (bits o 11 6)))
  | .pool =>
    let c := poolCore a
    let o := poolOff a
    if o < poolSize then
      some (s.coreArea 3 c + s.poolBank c (bits o 10 6) * 2 ^ 18 + bits o 22 11 * 2 ^ 6 + bits o 5 0)
    else none
  | .other => none

/-- Every physical byte a write to a module address reaches: the byte itself, and its shadow while an SST bank is being
shadowed (R389). -/
def State.physAll (s : State) (a : Nat) : List Nat :=
  match s.phys a with
  | none => []
  | some p =>
    if regionOf a = .sst then
      let o := a - sstBase
      let d := bits o 33 32
      let sr := bits o 12 12
      let b := bits o 11 6
      [p] ++ (if s.rd (Pg.die d) Reg.Die.SHADOW_A [sr] = b then [sstPhys o 64] else [])
        ++ (if s.rd (Pg.die d) Reg.Die.SHADOW_B [sr] = b then [sstPhys o 65] else [])
    else [p]

/-- What an unlisted byte of memory reads as (log entry 4). -/
def memDefault (_ : Nat) : Byte := 0

/-- The canonical form of memory: addresses strictly rising, no byte listed that an unlisted one reads as. -/
def Memory.wf (m : Sparse Byte) : Bool := swf memDefault m

def State.peek (s : State) (p : Nat) : Byte := sget memDefault s.mem p
def State.poke (s : State) (us : List (Nat × Byte)) : State := { s with mem := ssetMany memDefault s.mem us }

/-- The byte at a module address; an unpopulated one reads 0. -/
def State.byteAt (s : State) (a : Nat) : Byte :=
  match s.phys a with
  | some p => s.peek p
  | none => 0

/-- `n` bytes from a module address (mod 2^48). -/
def State.bytesAt (s : State) (a n : Nat) : List Byte := (List.range n).map fun i => s.byteAt ((a + i) % 2 ^ 48)

/-- The little-endian number in `n` bytes. -/
def State.numAt (s : State) (a n : Nat) : Nat := bytesNat (s.bytesAt a n)

/-- Write bytes with their enables at a module address, without check values. -/
def State.pokeBytes (s : State) (a : Nat) (bs : List (Option Byte)) : State :=
  s.poke (bs.zipIdx.flatMap fun (b, i) =>
    match b with
    | some v => (s.physAll ((a + i) % 2 ^ 48)).map fun p => (p, v)
    | none => [])

/-! Check values (R183, R184). -/

/-- One bit of the reflected CRC-32C. -/
def crcBit (c : Nat) : Nat := if c % 2 = 1 then c / 2 ^^^ 0x82F63B78 else c / 2

def crcByte (c : Nat) (b : Byte) : Nat :=
  let c := c ^^^ b.toNat
  crcBit (crcBit (crcBit (crcBit (crcBit (crcBit (crcBit (crcBit c)))))))

/-- CRC-32C of R183. -/
def crc32c (bs : List Byte) : Nat := bs.foldl crcByte 0xFFFFFFFF ^^^ 0xFFFFFFFF

/-- The check value of the block at `a` holding `bs`. -/
def checkValue (a : Nat) (bs : List Byte) : Nat := crc32c bs ^^^ bits a 43 12

/-- First byte of the side-word area of a device (R177): after 32 GiB and 990 MiB. -/
def sideArea : Nat := 2 ^ 35 + 990 * 2 ^ 20

/-- Readout addresses of a block's side word (R184): of its check value, and of the byte and bit of PRESENT. -/
def State.sideAddr (s : State) (a : Nat) : Option (Nat × Nat × Nat) :=
  match regionOf a with
  | .lpddr =>
    match s.lpPage a with
    | some (dev, ppn) =>
      let i := ppn * 512 + a % 2 ^ 21 / 4096
      let b := dev * 2 ^ 36 + sideArea
      some (b + 4 * i, b + 4 * 8642048 + i / 8, i % 8)
    | none => none
  | .sst =>
    let o := a - sstBase
    let b := 2 * 2 ^ 44 + bits o 33 32 * 2 ^ 33 + bits o 12 12 * 2 ^ 32 + bits o 31 13 * 2 ^ 5
    some (b, b + 4, 0)
  | _ => none

/-- The side word of the block at `a`: check value and PRESENT. -/
def State.sideWord (s : State) (a : Nat) : Nat × Bool :=
  match s.sideAddr a with
  | some (c, p, i) => (bytesNat ((List.range 4).map fun j => s.peek (c + j)), (s.peek p).getLsbD i)
  | none => (0, false)

def State.setSideWord (s : State) (a cv : Nat) (present : Bool) : State :=
  match s.sideAddr a with
  | some (c, p, i) =>
    let old := s.peek p
    let m : Byte := BitVec.ofNat 8 (2 ^ i)
    let t := s.poke [(p, if present then old ||| m else old &&& ~~~m)]
    if present then t.poke ((natBytes 4 cv).zipIdx.map fun (b, j) => (c + j, b)) else t
  | none => s

/-- The outcome of a check on reading (R185). -/
inductive Check where
  | ok | mismatch | absent
  deriving DecidableEq, Repr

/-- Verify the block that begins at `a`. -/
def State.verify (s : State) (a : Nat) : Check :=
  let w := s.sideWord a
  if !w.2 then .absent
  else if w.1 = checkValue a (s.bytesAt a 4096) then .ok else .mismatch

/-- Record a failed check at a controller in the die page (R202): KIND 2 mismatch, 3 absent. -/
def State.recordCheck (s : State) (a : Nat) (k : Check) : State :=
  let kind := if k = .absent then 3 else 2
  match regionOf a with
  | .sst =>
    let o := a - sstBase
    let d := bits o 33 32
    s.errReg (Pg.die d) Reg.Die.ERR_108 Reg.Die.MULTI_108
      [(Reg.Die.KIND_108, kind), (Reg.Die.SDIE, bits o 12 12),
       (Reg.Die.PBANK, s.sstBank d (bits o 12 12) (bits o 11 6)), (Reg.Die.ROW, bits o 31 13)]
  | .lpddr =>
    match s.lpPage a with
    | some (dev, ppn) =>
      s.errReg (Pg.die (dev / 8)) Reg.Die.ERR_184 Reg.Die.MULTI_184
        [(Reg.Die.KIND_184, kind), (Reg.Die.DEV, dev % 8), (Reg.Die.PPN, ppn)]
    | none => s
  | _ => s

/-- The block of `a`. -/
def blockOf (a : Nat) : Nat := a / 4096 * 4096

/-- Write the part of `bs` that lies in one block of module memory, with its side word (R184). A merge whose old
contents fail their check writes nothing and answers the block. -/
def State.writeBlock (s : State) (a : Nat) (bs : List (Option Byte)) (cvm : Bool) : State × Option Nat :=
  let b := blockOf a
  if !bs.any Option.isSome then (s, none)
  else if !cvm then ((s.pokeBytes a bs).setSideWord b 0 false, none)
  else
    let whole := a == b && bs.length == 4096 && bs.all Option.isSome
    if !whole && (s.sideWord b).2 && s.verify b != .ok then (s.recordCheck b .mismatch, some b)
    else
      let t := s.pokeBytes a bs
      (t.setSideWord b (checkValue b (t.bytesAt b 4096)) true, none)

/-- Write bytes at a module address, block by block; at most `fuel` blocks. Answers the first block whose merge failed
its check. -/
def State.writeMem (s : State) (a : Nat) (bs : List (Option Byte)) (cvm : Bool) : Nat → State × Option Nat
  | 0 => (s, none)
  | f + 1 =>
    if bs.isEmpty then (s, none)
    else
      let n := 4096 - a % 4096
      let here := bs.take n
      let r := if isModMem a then s.writeBlock a here cvm else (s.pokeBytes a here, none)
      match r.2 with
      | some b => (r.1, some b)
      | none => State.writeMem r.1 ((a + n) % 2 ^ 48) (bs.drop n) cvm f

/-! Watch comparators (R195, R196, R198) and copy-on-write (R371). -/

/-- Whether an enabled byte of a write at `a` lies in [lo, hi]; the first such address. -/
def firstIn (a : Nat) (bs : List (Option Byte)) (lo hi : Nat) : Option Nat :=
  (bs.zipIdx.find? fun (b, i) => b.isSome && lo ≤ a + i && a + i ≤ hi).map fun (_, i) => a + i

/-- Raise PREFETCH_HAZARD for a write into a core's armed ranges. -/
def State.coreHazard (s : State) (w : StalledWrite) (key : Nat) (x : Stream) : State :=
  if !isModMem w.addr then s
  else
    match x.comps.findSome? fun (n, lo, hi) => (firstIn w.addr w.bytes lo hi).map fun a => (n, a) with
    | none => s
    | some (n, a) =>
      let c := key / 8
      let p := Pg.core c
      let s := s.errReg p Reg.Core.ERR_440 Reg.Core.MULTI_440
        [(Reg.Core.STREAM, key % 8), (Reg.Core.COMP, n), (Reg.Core.WDIE, w.wdie), (Reg.Core.WCLU, w.wclu),
         (Reg.Core.WUNIT, w.wunit), (Reg.Core.HADDR_LO, a), (Reg.Core.HADDR_HI, a / 2 ^ 32)]
      s.raise ⟨p, 0x05, 3, c % 8, key % 8, noPc, a, none, false⟩

/-- Owner tags of the hub comparators: the decode output stream of channel c, array i of job slot j of Sluice queue q, region r of polder p's
manifest. -/
def cmpReedbed (c : Nat) : Nat := c
def cmpSluice (q j i : Nat) : Nat := 512 + q * 16 + j * 8 + i
def cmpManifest (p r : Nat) : Nat := 1024 + 16 * p + r

/-- A fault stops the Sluice job that owns comparator `tag`, and frees its comparators (R349). -/
def State.stopTag (s : State) (tag : Nat) : State :=
  let q := (tag - 512) / 16
  let b := cmpSluice q (tag / 8 % 2) 0
  { s with
    sluice := s.sluice.filter fun j => j.ended || j.q != q || j.slot != tag / 8 % 2
    hubCmp := s.hubCmp.filter fun c => !(b ≤ c.1 && c.1 < b + 8) }

/-- Home core of a Ferry work queue and of a Sluice queue (R313, R337). -/
def State.workHome (s : State) (q : Nat) : Nat :=
  64 * s.rd Pg.workQ Reg.WorkQ.HDIE [q] + 8 * s.rd Pg.workQ Reg.WorkQ.HCLU [q] + s.rd Pg.workQ Reg.WorkQ.HCORE [q]
def State.sluiceHome (s : State) (q : Nat) : Nat :=
  64 * s.rd Pg.sluiceQ Reg.SluiceQ.HDIE [q] + 8 * s.rd Pg.sluiceQ Reg.SluiceQ.HCLU [q] + s.rd Pg.sluiceQ Reg.SluiceQ.HCORE [q]

/-- A fault of a queue: recorded in the queue's page and in the page of its home core (R335, R363). -/
def State.queueFault (s : State) (page eng q home code addr : Nat) : State :=
  let pol := s.polderOfCore (home % 256)
  let t := s.raise ⟨page, code, eng, home % 8, q, noPc, addr, some pol, false⟩
  t.raise ⟨Pg.core (home % 256), code, eng, home % 8, q, noPc, addr, none, false⟩

/-- A polder's manifest job ends, with its comparators: MF_ERR, MF_DONE and the page's interrupt (R493, R496). -/
def State.endManifest (s : State) (p err : Nat) : State :=
  let g := Pg.manifest
  let t : State := { s with
    mfJobs := s.mfJobs.filter fun j => j.pol != p
    hubCmp := s.hubCmp.filter fun c => !(cmpManifest p 0 ≤ c.1 && c.1 < cmpManifest (p + 1) 0) }
  (((t.wr g Reg.Manifest.BUSY [p] 0).wr g Reg.Manifest.MF_ERR [p] err).wr g Reg.Manifest.MF_DONE [p] 1).setEvent g

/-- A write into a hub comparator's range: PREFETCH_HAZARD, or the end of a manifest job (R224, R347, R349, R493). -/
def State.hubHazard (s : State) (w : StalledWrite) (tag lo hi : Nat) : State :=
  if !isModMem w.addr then s
  else
    match firstIn w.addr w.bytes lo hi with
    | none => s
    | some a =>
      if tag < 512 then s.raise ⟨Pg.wharf, 0x05, 10, 0, tag % 32, noPc, a, none, false⟩
      else if tag < 1024 then
        let q := (tag - 512) / 16
        let s := s.errReg Pg.sluiceQ Reg.SluiceQ.ERR Reg.SluiceQ.MULTI
          [(Reg.SluiceQ.KIND, 0), (Reg.SluiceQ.QUEUE, q), (Reg.SluiceQ.ARRAY, tag % 8), (Reg.SluiceQ.WDIE, w.wdie),
           (Reg.SluiceQ.WCLU, w.wclu), (Reg.SluiceQ.WUNIT, w.wunit), (Reg.SluiceQ.ADDR_LO, a),
           (Reg.SluiceQ.ADDR_HI, a / 2 ^ 32)]
        (s.stopTag tag).queueFault Pg.sluiceQ 11 q (s.sluiceHome q) 0x05 a
      else s.endManifest ((tag - 1024) / 16) 3

/-- The writer code of the host, whose writes no comparator watches (R197). -/
def hostWriter : Nat := 0xFF

/-- A hub comparator is the writing Sluice job's own (R347). -/
def StalledWrite.owns (w : StalledWrite) (tag : Nat) : Bool :=
  match w.own with
  | some b => b ≤ tag && tag < b + 8
  | none => false

/-- Compare a write with every armed range but its writer's own. -/
def State.hazards (s : State) (w : StalledWrite) : State :=
  if w.wdie = hostWriter then s
  else
  let t := s.streams.foldl (fun t e => if e.2.armed then t.coreHazard w e.1 e.2 else t) s
  s.hubCmp.foldl (fun t e => if w.owns e.1 then t else t.hubHazard w e.1 e.2.1 e.2.2) t

/-- A byte of the write lies in a granule still marked uncopied. -/
def State.meetsUncopied (s : State) (w : StalledWrite) : Bool :=
  s.uncopied.any fun (_, g) => (firstIn w.addr w.bytes (g * 65536) (g * 65536 + 65535)).isSome

/-- A write held back earlier is of the same instruction, or lies in a granule that this one touches: accepted in order, this
one waits too (R371). -/
def State.behindStalled (s : State) (w : StalledWrite) : Bool :=
  s.stalled.any fun x => (w.instr != 0 && x.instr == w.instr)
    || (x.addr / 65536 ≤ (w.addr + w.bytes.length - 1) / 65536 && w.addr / 65536 ≤ (x.addr + x.bytes.length - 1) / 65536)

/-- Polders whose uncopied granules a write touches. -/
def State.uncopiedHit (s : State) (w : StalledWrite) : List Nat :=
  ((s.uncopied.filter fun (_, g) => (firstIn w.addr w.bytes (g * 65536) (g * 65536 + 65535)).isSome).map (·.1)).eraseDups

/-- A hold of this cause is requested and not yet in force. -/
def State.holdAsked (s : State) (c : HoldCause) : Bool := s.hold.lead == some c || s.hold.waiting.contains c

/-- A hold of cause `c` waits for the hold in force or within its lead to end. -/
def State.holdWaits (s : State) (c : HoldCause) : State :=
  let t : State := { s with hold := { s.hold with waiting := s.hold.waiting ++ [c] } }
  t.setWord Pg.holds 0x100 (s.word Pg.holds 0x100 ||| BitVec.ofNat 32 (2 ^ (4 + c.code)))

/-- A hold of cause `c` begins its 8 SCLK of lead. -/
def State.holdLead (s : State) (c : HoldCause) : State :=
  ({ s with hold := { s.hold with lead := some c } } : State).wr Pg.holds Reg.Holds.LEAD [] 1

/-- Request a hold (R264, R265): its lead begins, or it waits behind another hold. -/
def State.requestHold (s : State) (c : HoldCause) : State :=
  if s.holdAsked c then s
  else if s.hold.now.isSome || s.hold.lead.isSome then s.holdWaits c
  else s.holdLead c

/-- A number of blocks that any write of `n` bytes touches at most. -/
def fuelFor (n : Nat) : Nat := n / 4096 + 2

/-- A write that is accepted: memory and the watch comparators see it. Answers the block whose merge failed its check. -/
def State.storeNow (s : State) (w : StalledWrite) : State × Option Nat :=
  let r := s.writeMem w.addr w.bytes w.cvm (fuelFor w.bytes.length)
  (r.1.hazards w, r.2)

/-- Perform a write of a unit of the module. A write to an uncopied granule is held back and requests a copy-on-write
hold (R371). -/
def State.store (s : State) (w : StalledWrite) : State × Option Nat :=
  if s.meetsUncopied w || s.behindStalled w then
    let t : State := { s with stalled := s.stalled ++ [w] }
    if t.holdAsked .cow then (t, none)
    else ((s.uncopiedHit w).foldl (fun u p => u.count (Pg.staithe p) Reg.Staithe.COW_HOLDS [] 1) (t.requestHold .cow), none)
  else s.storeNow w

/-! Windows (R143, R250). -/

/-- The byte at `a` lies in a window of grantee `who` that permits the access; a core's own populated pool is granted
without an entry, and the unpopulated end of a pool's window lies outside every allocation window (R50). -/
def State.inWindow (s : State) (who a : Nat) (wr : Bool) : Bool :=
  (who < 256 && poolAddr who 0 ≤ a && a < poolAddr who poolSize)
    || (!(regionOf a == .pool && poolSize ≤ poolOff a) &&
      s.windows.any fun w => (w.who == who || (who == 256 && 256 ≤ w.who)) && w.base ≤ a && a < w.base + w.bytes
        && (if wr then w.wr else w.rd))

/-! Tag windows (R285, R286). -/

/-- The enabled tag window of a block: landing and tag entry. -/
def State.tagWindow (s : State) (a : Nat) : Option (Nat × Nat) :=
  (List.range 32).findSome? fun w =>
    let base := (s.rd Pg.landings Reg.Landings.TW_BASE [w] + s.rd Pg.landings Reg.Landings.TW_BASE_HI [w] * 2 ^ 20)
      * 4096
    let len := (s.rd Pg.landings Reg.Landings.LEN [w] + 1) * 4096
    if s.rd Pg.landings Reg.Landings.EN [w] = 1 ∧ base ≤ a ∧ a < base + len then
      some (s.rd Pg.landings Reg.Landings.TW_LANDING [w],
        s.rd Pg.landings Reg.Landings.TOFF [w] + (a - base) / 4096)
    else none

def State.landing (s : State) (n : Nat) : Landing := sget (fun _ => Landing.reset) s.landings n
def State.setLanding (s : State) (n : Nat) (l : Landing) : State :=
  { s with landings := sset (fun _ => Landing.reset) s.landings n l }

/-- A read of the block at `a` meets a tag older than its landing's GEN. -/
def State.staleTag (s : State) (a : Nat) : Bool :=
  isModMem a &&
    match s.tagWindow a with
    | none => false
    | some (l, e) =>
      let d := ((s.landing l).gen.toNat + 65536 - (sget (fun _ => 0) s.tags e).toNat) % 65536
      1 ≤ d && d < 2 ^ 15

/-! Checked accesses of engines. -/

/-- Why an access does not go ahead. -/
inductive Stop where
  /-- OUT_OF_WINDOW, UNMAPPED, SCOREBOARD_INVALID, STALE_TAG with the address named. -/
  | fault (code addr : Nat)
  /-- A ring granule that has not arrived. -/
  | wait
  deriving DecidableEq, Repr

/-- The fault code that the first read of a void granule raises (R194, R286). -/
def Void.code : Void → Nat
  | .unmapped => 0x03 | .window => 0x02 | .staleTag => 0x09

/-- Granule `g` of core `c` holds a void granule of an armed ring: the first suppressed address and why (R194). -/
def State.voidAt (s : State) (c g : Nat) : Option (Nat × Void) :=
  (List.range 8).findSome? fun n =>
    let x := s.stream c n
    if x.armed && x.desc.kind == 0 && x.desc.rgn != 0 then
      (x.voids.find? fun v => x.desc.rbase + v.1 % x.desc.rgn == g).map (·.2)
    else none

/-- A read of the byte at `a` by an engine whose windows are `who`'s (R58, R66, R143, R171, R194, R286). -/
def State.readStop (s : State) (who a : Nat) : Option Stop :=
  if !s.inWindow who a false then some (.fault 0x02 a)
  else if (s.phys a).isNone then some (.fault 0x03 a)
  else if regionOf a = .pool then
    let c := poolCore a
    let g := poolOff a / 4096
    if s.valid c g then (s.voidAt c g).map fun v => .fault v.2.code v.1
    else if s.inRing c g then some .wait
    else some (.fault 0x04 (poolAddr c (g * 4096)))
  else if s.staleTag a then some (.fault 0x09 (blockOf a))
  else none

/-- A write of the byte at `a`. -/
def State.writeStop (s : State) (who a : Nat) : Option Stop :=
  if !s.inWindow who a true then some (.fault 0x02 a)
  else if (s.phys a).isNone then some (.fault 0x03 a)
  else none

/-- The 64-byte lines that `n` bytes from `a` touch. -/
def linesOf (a n : Nat) : List Nat :=
  if n = 0 then [] else (List.range ((a + n - 1) / 64 - a / 64 + 1)).map fun i => (a / 64 + i) * 64 % 2 ^ 48

/-- The pool granules, as (core, granule), of a list of addresses. -/
def granulesOf (as : List Nat) : List (Nat × Nat) :=
  ((as.filter fun a => regionOf a == .pool && poolOff a < poolSize).map fun a =>
    (poolCore a, poolOff a / 4096)).eraseDups

/-! Free values. -/

/-- Draw a free byte. -/
def State.drawByte (s : State) : Byte × State := (Config.freeByte s.fresh, { s with fresh := s.fresh + 1 })
/-- Draw a free word. -/
def State.drawWord (s : State) : Word × State := (Config.freeWord s.fresh, { s with fresh := s.fresh + 1 })

/-! Accounting (R431). -/

/-- Add to accounting counter `i` of polder `p`. -/
def State.acct (s : State) (p i n : Nat) : State := s.add2 (Pg.acct p) Reg.Acct.CNT_LO Reg.Acct.CNT_HI [i] n

/-- Charge `n` bytes of a request at module address `a` to polder `p` (R431, counters 10 to 13). -/
def State.acctMem (s : State) (p a n : Nat) (write : Bool) : State :=
  match regionOf a with
  | .sst => s.acct p (10 + bit write) n
  | .lpddr => s.acct p (12 + bit write) n
  | _ => s

/-! Word arrays: tile registers and accumulator sets. -/

/-- Index of element (m, n) of tile register `v` of core `c`. -/
def State.tileKey (s : State) (c v m n : Nat) : Nat := (s.coreArea 4 c + v * 16384 + (m * 64 + n) * 4) / 4
/-- Index of element (m, n) of accumulator set `a`. -/
def State.accKey (s : State) (c a m n : Nat) : Nat :=
  (s.coreArea 4 c + 2 ^ 20 + a * 16384 + (m * 64 + n) * 4) / 4

def State.word32 (s : State) (k : Nat) : Word := sget (fun _ => 0) s.words32 k
def State.setWords32 (s : State) (us : List (Nat × Word)) : State :=
  { s with words32 := ssetMany (fun _ => 0) s.words32 us }

end Sys2Proof.Machine
end

