-- ==== Sys2Proof/Machine/Operands.lean ====
section
/-! DEFINITION. Operand forms: token fields, element packing, operand panels, store and tensor descriptors, VE operand
fields, and the placing of a tile in memory (R25, R82, R91, R92, R95 to R98, R118, R140 to R142). -/

namespace Sys2Proof.Machine

/-! Tokens of an instruction. -/

/-- WAIT0 to WAIT2 of a core engine's instruction of core `c` (R91): the counters named, each once. -/
def coreWaits (c : Nat) (i : BitVec 256) : List (Nat × Nat) :=
  (([0, 7, 14].filter fun b => iw i 1 (b + 6) (b + 6) = 1).map fun b => (c, iw i 1 (b + 5) b)).eraseDups

/-- WAIT0 to WAIT2 of a cluster engine's instruction (R146). -/
def cluWaits (cl : Nat) (i : BitVec 256) : List (Nat × Nat) :=
  (([0, 10, 20].filter fun b => iw i 1 (b + 9) (b + 9) = 1).map fun b =>
    (8 * cl + iw i 1 (b + 8) (b + 6), iw i 1 (b + 5) b)).eraseDups

/-- POST0 and POST1 of an instruction of cluster `cl` (R91). -/
def postsOf (cl : Nat) (i : BitVec 256) : List (Nat × Nat) :=
  ([0, 10].filter fun b => iw i 2 (b + 9) (b + 9) = 1).map fun b => (8 * cl + iw i 2 (b + 8) (b + 6), iw i 2 (b + 5) b)

/-- The reserved bits of W1 and W2 of a core engine's instruction are zero. -/
def coreTokOk (i : BitVec 256) : Bool := iw i 1 31 21 == 0 && iw i 2 31 20 == 0
def cluTokOk (i : BitVec 256) : Bool := iw i 1 31 30 == 0 && iw i 2 31 20 == 0

/-! Formats. -/

/-- Format codes of R92. -/
def fmtOf : Nat → Option Fmt
  | 0 => some .bf16 | 1 => some .fp16 | 2 => some .e5m2 | 3 => some .e4m3 | 4 => some .e3m2 | 5 => some .e2m3
  | 6 => some .e2m1 | 7 => some .int8 | 8 => some .fp32 | 9 => some .int32
  | _ => none

/-- The format of a code, FP32 for a reserved one; used where the code has been checked. -/
def fmtD (c : Nat) : Fmt := (fmtOf c).getD .fp32

/-- The format may carry block scales. -/
def Fmt.mxOk : Fmt → Bool
  | .e5m2 | .e4m3 | .e3m2 | .e2m3 | .e2m1 | .int8 => true
  | _ => false
/-- The format exists only with block scales. -/
def Fmt.mxOnly : Fmt → Bool
  | .e3m2 | .e2m3 | .int8 => true
  | _ => false
/-- The plain format carries a tensor scale (R24). -/
def Fmt.narrow : Fmt → Bool
  | .e5m2 | .e4m3 | .e2m1 => true
  | _ => false

/-- The operand column of R92 allows the code with this MX setting. -/
def operandOk (code : Nat) (mx : Bool) : Bool :=
  match fmtOf code with
  | some .fp32 | some .int32 | none => false
  | some f => if mx then f.mxOk else !f.mxOnly

/-- The MX setting goes with the format in a descriptor (R92, R142). -/
def mxFits (f : Fmt) (mx : Bool) : Bool := if mx then f.mxOk else !f.mxOnly

/-! Packing (R25). -/

/-- Element of `w` bits at bit offset `b` of a byte string. -/
def elemAtBit (f : Nat → Byte) (w b : Nat) : Nat :=
  bytesNat ((List.range ((b % 8 + w + 7) / 8)).map fun j => f (b / 8 + j)) / 2 ^ (b % 8) % 2 ^ w

/-- Replace `w` bits at bit offset `b` of a sparse byte string whose bytes start as zero. -/
def putBits (l : Sparse Byte) (w b v : Nat) : Sparse Byte :=
  (List.range ((b % 8 + w + 7) / 8)).foldl (fun l j =>
    let a := b / 8 + j
    let mask := (2 ^ w - 1) * 2 ^ (b % 8) / 2 ^ (8 * j) % 256
    let val := v % 2 ^ w * 2 ^ (b % 8) / 2 ^ (8 * j) % 256
    let old := (sget (fun _ => 0) l a).toNat
    sins a (BitVec.ofNat 8 (old &&& (255 - mask) ||| val)) (sdrop l a)) l

/-! Panels (R82). -/

/-- ko of R82. -/
def Fmt.ko : Fmt → Nat
  | .bf16 | .fp16 => 1
  | .e2m1 => 4
  | _ => 2

/-- Slice and group bytes of R82. -/
def Fmt.sliceBytes (f : Fmt) : Nat := 64 * f.ko * f.bits / 8
def Fmt.groupBytes (f : Fmt) : Nat := 32 / f.ko * f.sliceBytes

/-- kstep of R81. -/
def kstep (a b : Fmt) : Nat :=
  if a = .bf16 ∨ a = .fp16 then 1 else if a = .e2m1 ∧ b = .e2m1 then 4 else 2

/-- Bit offset within a group of element `k` of lane `l`. -/
def panelBit (f : Fmt) (l k : Nat) : Nat := 8 * (k / f.ko * f.sliceBytes) + (l * f.ko + k % f.ko) * f.bits

/-- The 32 values of lane `l` of a group held in `g`. -/
def panelLane (f : Fmt) (g : Nat → Byte) (l : Nat) : List FVal :=
  (List.range 32).map fun k => f.decode (elemAtBit g f.bits (panelBit f l k))

/-! Store descriptors (R95). -/

structure StoreDesc where
  fmt     : Nat
  mx      : Bool
  bdim    : Nat
  layout  : Nat
  rnd     : Nat
  sat     : Bool
  dstk    : Bool
  rows    : Nat
  cols    : Nat
  xd      : Nat
  tid     : Nat
  daddr   : Nat
  rstride : Nat
  saddr   : Nat
  sstride : Nat
  idx0    : Nat
  idxm    : Nat
  idxn    : Nat
  stage   : Nat
  /-- Every reserved bit is zero. -/
  clean   : Bool
  deriving DecidableEq, Repr

/-- Word at byte `o` of a descriptor. -/
def dword (d : List Byte) (o : Nat) : Nat := bytesNat ((d.drop o).take 4)

def storeDesc (d : List Byte) : StoreDesc :=
  let w := dword d 0
  { fmt := bits w 3 0, mx := bits w 4 4 = 1, bdim := bits w 5 5, layout := bits w 7 6, rnd := bits w 9 8,
    sat := bits w 10 10 = 1, dstk := bits w 11 11 = 1, rows := bits w 17 12, cols := bits w 23 18, xd := bits w 31 24,
    tid := dword d 4, daddr := (dword d 8 + bits (dword d 0xC) 11 0 * 2 ^ 32) * 16, rstride := dword d 0x10 * 16,
    saddr := (dword d 0x14 + bits (dword d 0x18) 11 0 * 2 ^ 32) * 16, sstride := dword d 0x1C,
    idx0 := dword d 0x20 + bits (dword d 0x24) 7 0 * 2 ^ 32, idxm := dword d 0x28 + bits (dword d 0x2C) 7 0 * 2 ^ 32,
    idxn := dword d 0x30 + bits (dword d 0x34) 7 0 * 2 ^ 32, stage := bits (dword d 0x38) 16 0 * 64,
    clean := bits (dword d 0xC) 31 12 = 0 ∧ bits (dword d 0x18) 31 12 = 0 ∧ bits (dword d 0x24) 31 8 = 0
      ∧ bits (dword d 0x2C) 31 8 = 0 ∧ bits (dword d 0x34) 31 8 = 0 ∧ bits (dword d 0x38) 31 17 = 0
      ∧ dword d 0x3C = 0 }

/-- The descriptor's encodings and combinations are legal for a store (`load` false; R95, R96) or a load (R130). A plain
target in a format that R92 gives with block scales only is taken as a forbidden combination (log entry 57). -/
def StoreDesc.ok (d : StoreDesc) (load : Bool) : Bool :=
  match fmtOf d.fmt with
  | none => false
  | some f =>
    d.clean && d.rnd != 3 && mxFits f d.mx
      && (if load then d.rnd == 0 || (f == .int32 && d.rnd == 1)
          else if f == .int32 then d.rnd != 1 else d.rnd != 2)
      && (if 2 ≤ d.layout then
            f != .fp32 && f != .int32 && (!d.mx || d.bdim == (if d.layout = 2 then 0 else 1))
          else true)

def StoreDesc.f (d : StoreDesc) : Fmt := fmtD d.fmt

/-- Bit address of element (m, n) (R96). -/
def StoreDesc.bitOf (d : StoreDesc) (m n : Nat) : Nat :=
  let f := d.f
  match d.layout with
  | 0 => 8 * ((d.daddr + m * d.rstride) % 2 ^ 48) + n * f.bits
  | 1 => 8 * ((d.daddr + n * d.rstride) % 2 ^ 48) + m * f.bits
  | 2 => 8 * ((d.daddr + n / 32 * f.groupBytes) % 2 ^ 48) + panelBit f m (n % 32)
  | _ => 8 * ((d.daddr + m / 32 * f.groupBytes) % 2 ^ 48) + panelBit f n (m % 32)

/-- Address of the scale of the block that holds element (m, n) (R96). -/
def StoreDesc.scaleOf (d : StoreDesc) (m n : Nat) : Nat :=
  let r := if d.bdim = 0 then m else n
  let b := (if d.bdim = 0 then n else m) / 32
  (if d.layout < 2 then d.saddr + r * d.sstride + b else d.saddr + 64 * b + r) % 2 ^ 48

/-- The elements a store writes or a load reads, in ascending m and within m in ascending n. -/
def StoreDesc.elems (d : StoreDesc) : List (Nat × Nat) :=
  (List.range (d.rows + 1)).flatMap fun m => (List.range (d.cols + 1)).map fun n => (m, n)

/-- The elements of the block of (m, n) within the tile that are written. -/
def StoreDesc.blockElems (d : StoreDesc) (m n : Nat) : List (Nat × Nat) :=
  (List.range 32).filterMap fun j =>
    let e := if d.bdim = 0 then (m, n / 32 * 32 + j) else (m / 32 * 32 + j, n)
    if e.1 ≤ d.rows ∧ e.2 ≤ d.cols then some e else none

/-- The first element of a block, so that each block is taken once. -/
def StoreDesc.isBlockHead (d : StoreDesc) (m n : Nat) : Bool :=
  (if d.bdim = 0 then n else m) % 32 == 0

/-- The hash value of element (m, n) under a key and step (R44, R96). -/
def StoreDesc.hash (d : StoreDesc) (key : BitVec 64) (step m n : Nat) : Nat :=
  srHash key (BitVec.ofNat 32 step) (BitVec.ofNat 32 d.tid) ((d.idx0 + m * d.idxm + n * d.idxn) % 2 ^ 40)

/-- The rounding of element (m, n). -/
def StoreDesc.rounding (d : StoreDesc) (key : BitVec 64) (step m n : Nat) : Rnd :=
  match d.rnd with
  | 0 => .rne
  | 1 => .sr (d.hash key step m n)
  | _ => .rz

/-- The X of every block of the tile, by 128 × lane line + block. -/
def StoreDesc.blockScales (d : StoreDesc) (v : Nat → Nat → FVal) : Sparse Nat :=
  if d.mx then
    (d.elems.filter fun e => d.isBlockHead e.1 e.2).foldl (fun l e =>
      let r := if d.bdim = 0 then e.1 else e.2
      let b := (if d.bdim = 0 then e.2 else e.1) / 32
      sset (fun _ => 0) l (2 * r + b) (mxScale d.f ((d.blockElems e.1 e.2).map fun x => v x.1 x.2))) []
  else []

/-- The encoding of element (m, n) of a tile of values (R96). -/
def StoreDesc.encode (d : StoreDesc) (xs : Sparse Nat) (key : BitVec 64) (step : Nat) (v : Nat → Nat → FVal)
    (m n : Nat) : Nat × FpEvents :=
  let r := d.rounding key step m n
  if d.mx then
    let x := sget (fun _ => 0) xs (2 * (if d.bdim = 0 then m else n) + (if d.bdim = 0 then n else m) / 32)
    mxElem d.f x r (v m n)
  else if d.f.narrow then
    if d.xd = 0xFF then d.f.encode r d.sat .nan else d.f.encode r d.sat ((v m n).scale (127 - (d.xd : Int)))
  else d.f.encode r d.sat (v m n)

/-- What a store writes: data bytes and scale bytes by address, and the events it counts (R29, R96). -/
structure Image where
  data   : Sparse Byte
  scales : Sparse Byte
  events : FpEvents

def StoreDesc.image (d : StoreDesc) (key : BitVec 64) (step : Nat) (v : Nat → Nat → FVal) : Image :=
  let xs := d.blockScales v
  let r := d.elems.foldl (fun (a : Sparse Byte × FpEvents) e =>
    let c := d.encode xs key step v e.1 e.2
    (putBits a.1 d.f.bits (d.bitOf e.1 e.2) c.1, a.2.add c.2)) ([], FpEvents.none)
  let sc :=
    if d.mx then
      (d.elems.filter fun e => d.isBlockHead e.1 e.2).foldl (fun l e =>
        let x := sget (fun _ => 0) xs (2 * (if d.bdim = 0 then e.1 else e.2) + (if d.bdim = 0 then e.2 else e.1) / 32)
        let a := d.scaleOf e.1 e.2
        sins a (BitVec.ofNat 8 x) (sdrop l a)) []
    else []
  ⟨r.1, sc, r.2⟩

/-- The bytes a store touches do not depend on the values: the image of zeros gives them. -/
def StoreDesc.touched (d : StoreDesc) : Image := d.image 0 0 fun _ _ => FVal.zero

/-- Sorted bytes grouped into 64-byte lines with enables; at most `fuel` lines. -/
def lineGroups : Nat → Sparse Byte → List (Nat × List (Option Byte))
  | 0, _ => []
  | f + 1, l =>
    match l with
    | [] => []
    | (a, _) :: _ =>
      let base := a / 64 * 64
      let here := l.takeWhile fun e => e.1 < base + 64
      (base, (List.range 64).map fun j => (here.find? fun e => e.1 == base + j).map (·.2))
        :: lineGroups f (l.dropWhile fun e => e.1 < base + 64)

def imageLines (l : Sparse Byte) : List (Nat × List (Option Byte)) := lineGroups l.length l

/-- The lines of an image: data first, then scales (R97, R98), also where the scale destination lies below the data (log
entry 57). -/
def Image.lines (i : Image) : List (Nat × List (Option Byte)) := imageLines i.data ++ imageLines i.scales

/-- Consecutive lines joined into requests that stay within 4 KiB at both ends (R68, R98): module address, pool offset of
their staging lines, the first of which lies at `off`, bytes. -/
def joinLines : List (Nat × List (Option Byte)) → Nat → List (Nat × Nat × List (Option Byte))
  | [], _ => []
  | (a, b) :: r, off =>
    match joinLines r (off + 64) with
    | (a2, o2, b2) :: q =>
      if a2 = a + 64 ∧ (a + 64) % 4096 ≠ 0 ∧ o2 = off + 64 ∧ (off + 64) % 4096 ≠ 0 then (a, off, b ++ b2) :: q
      else (a, off, b) :: (a2, o2, b2) :: q
    | [] => [(a, off, b)]

/-! Loads through the same fields (R130). -/

/-- The value of element (m, n) that a load reads from bytes `g`, with its FP32 encoding and events. -/
def StoreDesc.decode (d : StoreDesc) (key : BitVec 64) (step : Nat) (g : Nat → Byte) (m n : Nat) : Word × FpEvents :=
  let f := d.f
  let v := f.decode (elemAtBit g f.bits (d.bitOf m n))
  let v := if d.mx then scaled (g (d.scaleOf m n)).toNat v else if f.narrow then scaled d.xd v else v
  let r := Fmt.encode .fp32 (if f = .int32 then d.rounding key step m n else .rne) d.sat v
  (BitVec.ofNat 32 r.1, r.2)

/-! VE operand fields (R118). -/

structure VeOperand where
  mode : Nat
  tile : Nat
  idx  : Nat
  deriving DecidableEq, Repr

def veOperand (x : Nat) : VeOperand := ⟨bits x 15 14, bits x 13 10, bits x 5 0⟩

/-- Reserved bits and zero fields of an operand field are as R118 says. -/
def veOperandOk (x : Nat) : Bool :=
  bits x 9 6 == 0 &&
    match bits x 15 14 with
    | 0 => bits x 5 0 == 0
    | 3 => bits x 13 10 == 0 && bits x 5 1 == 0
    | _ => true

/-- Element (m, n) of an operand of core `c`. -/
def State.veElem (s : State) (c : Nat) (imm0 imm1 : Word) (o : VeOperand) (m n : Nat) : Word :=
  match o.mode with
  | 0 => s.word32 (s.tileKey c o.tile m n)
  | 1 => s.word32 (s.tileKey c o.tile o.idx n)
  | 2 => s.word32 (s.tileKey c o.tile m o.idx)
  | _ => if o.idx % 2 = 0 then imm0 else imm1

/-! Tensor descriptors (R140). -/

structure TensorDesc where
  fmt   : Nat
  mx    : Bool
  ndim  : Nat
  bdim  : Nat
  sclp  : Nat
  cvm   : Bool
  xt    : Nat
  tid   : Nat
  base  : Nat
  sbase : Nat
  /-- Extents of the six dimensions, 1 beyond NDIM. -/
  ext   : List Nat
  /-- Byte strides of dimensions 1 to 5. -/
  str   : List Nat
  clean : Bool
  deriving DecidableEq, Repr

def tensorDesc (d : List Byte) : TensorDesc :=
  let w := dword d 0
  let nd := bits w 7 5
  let strd := fun i => dword d (0x30 + 8 * i) + bits (dword d (0x34 + 8 * i)) 7 0 * 2 ^ 32
  { fmt := bits w 3 0, mx := bits w 4 4 = 1, ndim := nd, bdim := bits w 10 8, sclp := bits w 12 11,
    cvm := bits w 14 13 = 1, xt := bits w 23 16, tid := dword d 4,
    base := dword d 8 + bits (dword d 0xC) 15 0 * 2 ^ 32, sbase := dword d 0x10 + bits (dword d 0x14) 15 0 * 2 ^ 32,
    ext := (List.range 6).map fun i => dword d (0x18 + 4 * i) + 1, str := (List.range 5).map strd,
    clean := nd ≤ 5 ∧ bits w 10 8 ≤ 5 ∧ bits w 12 11 ≤ 1 ∧ bits w 14 13 ≤ 1 ∧ bits w 15 15 = 0 ∧ bits w 31 24 = 0
      ∧ bits (dword d 0xC) 31 16 = 0 ∧ bits (dword d 0x14) 31 16 = 0
      ∧ ((List.range 6).all fun i => i ≤ nd || dword d (0x18 + 4 * i) == 0)
      ∧ ((List.range 5).all fun i => bits (dword d (0x34 + 8 * i)) 31 8 == 0 && (i + 1 ≤ nd || strd i == 0))
      ∧ ((d.drop 0x58).take 0x28).all (· == 0) }

/-- A descriptor that R142 does not make malformed. -/
def TensorDesc.ok (d : TensorDesc) : Bool :=
  match fmtOf d.fmt with
  | none => false
  | some f =>
    d.clean && (d.mx == (d.sclp == 1)) && mxFits f d.mx && (d.xt == 0x7F || (!d.mx && f.narrow))

def TensorDesc.f (d : TensorDesc) : Fmt := fmtD d.fmt
def TensorDesc.n (d : TensorDesc) (i : Nat) : Nat := d.ext.getD i 1

/-- Elements of the tensor. -/
def TensorDesc.total (d : TensorDesc) : Nat := d.ext.foldl (· * ·) 1

/-- Coordinates of linear index `i` in extents `ext`, dimension 0 fastest (R43). -/
def unlinear : List Nat → Nat → List Nat
  | [], _ => []
  | e :: r, i => i % e :: unlinear r (i / e)

/-- Linear index of coordinates (R43), mod 2^40. -/
def linearOf : List Nat → List Nat → Nat
  | e :: r, c :: q => c + e * linearOf r q
  | _, _ => 0

/-- Address of the run that holds the element at coordinates `ix` (R141). -/
def TensorDesc.runOf (d : TensorDesc) (ix : List Nat) : Nat :=
  (d.base + ((ix.drop 1).zip d.str).foldl (fun a p => a + p.1 * p.2) 0) % 2 ^ 48

/-- Bit address of the element at coordinates `ix`. -/
def TensorDesc.bitOf (d : TensorDesc) (ix : List Nat) : Nat := 8 * d.runOf ix + ix.getD 0 0 * d.f.bits

/-- Coordinates of the element's block in the scale tensor. -/
def TensorDesc.blockIx (d : TensorDesc) (ix : List Nat) : List Nat := ix.set d.bdim (ix.getD d.bdim 0 / 32)

/-- Address of the scale of the element at `ix` (R141). -/
def TensorDesc.scaleOf (d : TensorDesc) (ix : List Nat) : Nat :=
  (d.sbase + linearOf (d.ext.set d.bdim (ceilDiv (d.n d.bdim) 32)) (d.blockIx ix)) % 2 ^ 48

/-- The value of the element at `ix` as a reader `g` of bytes sees it (R27, R141). -/
def TensorDesc.value (d : TensorDesc) (g : Nat → Byte) (ix : List Nat) : FVal :=
  let v := d.f.decode (elemAtBit g d.f.bits (d.bitOf ix))
  if d.mx then scaled (g (d.scaleOf ix)).toNat v else if d.f.narrow then scaled d.xt v else v

/-! Firing (R62, R63). -/

/-- Every counter named holds at least 1. -/
def State.tokensReady (s : State) (ws : List (Nat × Nat)) : Bool := ws.all fun w => 1 ≤ s.token w.1 w.2

def State.takeTokens (s : State) (ws : List (Nat × Nat)) : State :=
  ws.foldl (fun t w => t.setToken w.1 w.2 (t.token w.1 w.2 - 1)) s

/-- Tokens an engine's instruction waits for. -/
def waitsOf (k : Nat) (i : BitVec 256) : List (Nat × Nat) :=
  if k < 1024 then coreWaits (k / 4) i else cluWaits ((k - 1024) / 4) i

/-- The cluster of an engine, 8 × die + cluster. -/
def engClu (k : Nat) : Nat := if k < 1024 then k / 32 else (k - 1024) / 4

/-- The cause a wait for tokens is counted under: landing wait when a counter is the RTOK of a gate of its core with a
registration outstanding, else operand wait (R476). -/
def State.tokenCause (s : State) (ws : List (Nat × Nat)) : Nat :=
  if ws.any fun (c, t) => s.token c t == 0 &&
      (List.range 32).any fun g =>
        let x := sget (fun _ => Gate.off) s.gates (32 * c + g)
        2 ≤ x.kind && x.rtok == t && s.rd (Pg.core c) Reg.Core.GSTATE [g] == 1
  then 3 else 0

/-- Address an engine's instruction `pc` was fetched from. -/
def State.fetchAddr (s : State) (k pc : Nat) : Nat := (s.engine k).base + 32 * pc

/-- The head instruction of engine `k` fires: it leaves the queue, takes its tokens, claims its destination granules and
is in flight until its fence (R57, R62). Answers its identifier. -/
def State.fire (s : State) (k : Nat) (i : BitVec 256) (claims : List (Nat × Nat)) (busy : Bool) : State × Nat :=
  let e := s.engine k
  let t := (s.setEngine k { e with queue := e.queue.drop 1, head := e.head + 1 }).occupancy k
  let t := t.takeTokens (waitsOf k i)
  let t := t.setValids claims false
  let t := if k < 1024 then t.event (engPage k) (0x0B3 + k % 4) 1 else t
  let id := t.ids
  ({ t with
      ids := id + 1
      inflight := t.inflight ++ [⟨id, k, e.head, iw i 0 3 0, claims, postsOf (engClu k) i, busy, false⟩] }, id)

/-- What an instruction that meets its token conditions does: fault without firing, wait without firing, or fire. -/
inductive Ready where
  | fault (code addr : Nat)
  | wait (cause : Nat)
  | go
  deriving DecidableEq, Repr

/-- Try to fire the head instruction of engine `k` when it satisfies `want`; `check` judges it once its tokens are
present, `go` is its effect from firing on. -/
def State.tryFire (s : State) (k : Nat) (want : BitVec 256 → Bool) (check : State → BitVec 256 → Nat → Ready)
    (home : BitVec 256 → Nat) (go : State → BitVec 256 → Nat → State) : State :=
  match (s.engine k).queue with
  | [] => s
  | i :: _ =>
    if !want i then s
    else if !s.canRun k then s.stall k 0
    else if !s.tokensReady (waitsOf k i) then s.stall k (s.tokenCause (waitsOf k i))
    else
      let pc := (s.engine k).head
      match check s i pc with
      | .fault code addr => s.raise (engFault k pc code addr (home i))
      | .wait c => s.stall k c
      | .go => go s i pc

/-- Engine `k`'s head instruction fires now: its tokens are there and `check` lets it. -/
def State.wouldFire (s : State) (k : Nat) (check : State → BitVec 256 → Nat → Ready) : Bool :=
  match (s.engine k).queue with
  | [] => false
  | i :: _ => s.canRun k && s.tokensReady (waitsOf k i) && check s i (s.engine k).head == .go

/-- The state whose token counters engine `k` has taken its tokens from, if its head fires now: firings of one ACLK are
applied in the order of R63 and R146. -/
def State.firstTake (s : State) (k : Nat) (check : State → BitVec 256 → Nat → Ready) : State :=
  if s.wouldFire k check then s.takeTokens (((s.engine k).queue.head?.map (waitsOf k)).getD []) else s

/-- An instruction that `r` lets fire waits where the engines before it in the order of R63 and R146, in `before`, have left
its counters empty. -/
def Ready.behind (r : Ready) (before : State) (ws : List (Nat × Nat)) : Ready :=
  if r = .go ∧ !before.tokensReady ws then .wait 0 else r

/-- The in-flight instruction `id` has no work left of its own. -/
def State.finish (s : State) (id : Nat) : State :=
  { s with inflight := s.inflight.map fun x => if x.id = id then { x with busy := false } else x }

/-- The in-flight instruction `id` does not complete. -/
def State.failInstr (s : State) (id : Nat) : State :=
  { s with inflight := s.inflight.map fun x => if x.id = id then { x with failed := true } else x }

def State.job (s : State) (k : Nat) : Option Job := (s.jobs.find? fun e => e.1 == k).map (·.2)
/-- Engine `k` has no instruction in progress any more; a VE's issue stage is then empty (R139). -/
def State.dropJob (s : State) (k : Nat) : State :=
  let t : State := { s with jobs := s.jobs.filter fun e => e.1 != k }
  if k < 1024 ∧ k % 4 = 2 then (t.wr (engPage k) Reg.Core.PEND [] 0).wr (engPage k) Reg.Core.ISSUING [] 0 else t
def State.setJob (s : State) (k : Nat) (j : Job) : State := { s with jobs := (s.dropJob k).jobs ++ [(k, j)] }

/-- Instruction `id` of engine `k` stops with a fault and its job ends. -/
def State.stopInstr (s : State) (k id : Nat) (f : FaultRec) : State := ((s.dropJob k).failInstr id).raise f

/-- A fault code and address of a stopped access; waits have none. -/
def Stop.faultOf : Stop → Option (Nat × Nat)
  | .fault c a => some (c, a)
  | .wait => none

/-- What a stop makes of an instruction that has not fired (R62, R66). -/
def Stop.ready : Stop → Ready
  | .fault c a => .fault c a
  | .wait => .wait 0

/-- A read of its own pool by an engine of core `c`: offsets beyond the populated pool lie outside its window, whatever
windows R250 grants (R94, R109). -/
def State.poolStop (s : State) (c a : Nat) : Option Stop :=
  if poolAddr c poolSize ≤ a then some (.fault 0x02 a) else s.readStop c a

/-- Why a request for the line at `a` is not issued: its window, an unmapped address, or a pool's scoreboard; tags are compared
where the line is read (R143, R171, R286). -/
def State.issueStop (s : State) (who a : Nat) : Option Stop :=
  if regionOf a = .pool then s.readStop who a
  else if !s.inWindow who a false then some (.fault 0x02 a)
  else if (s.phys a).isNone then some (.fault 0x03 a)
  else none

/-- Read a descriptor of `n` bytes at a pool offset of core `c`: the first line outside the populated pool is
OUT_OF_WINDOW, an unfenced granule SCOREBOARD_INVALID, a ring granule that has not arrived waits. -/
def State.descStop (s : State) (c off n : Nat) : Option Stop :=
  (linesOf (poolAddr c off) n).findSome? fun a => s.poolStop c a

/-- The stream of which a void granule, first suppressed at `addr`, raises `code` at its consumer (R194); 0 for any other
fault. -/
def State.voidUnit (s : State) (code addr : Nat) : Nat :=
  ((s.streams.find? fun e => e.2.armed && e.2.voids.any fun v => v.2.1 == addr && v.2.2.code == code).map fun e => e.1 % 8).getD 0

/-- The fault of a read by engine `k` that is stopped. -/
def State.readFault (s : State) (k pc code addr : Nat) (home : Nat := 0) : FaultRec :=
  { engFault k pc code addr home with unit := s.voidUnit code addr }

/-- The lowest of several places, by rows of `n`. -/
def lowest (ks : List Nat) : Nat := ks.foldl min (ks.headD 0)

/-- Record a failed-tag read in the hub landing page (R292 KIND 1). -/
def State.noteStale (s : State) (code addr : Nat) : State :=
  if code = 0x09 then
    match s.tagWindow addr with
    | some (l, _) =>
      s.errReg Pg.landings Reg.Landings.ERR Reg.Landings.MULTI
        [(Reg.Landings.KIND, 1), (Reg.Landings.LANDING, l), (Reg.Landings.SLOT, 0)]
    | none => s
  else s

end Sys2Proof.Machine
end

