-- ==== Sys2Proof/Machine/Streams.lean ====
section
/-! DEFINITION. What consumers do with an armed stream: reading ring granules and scale lines, releasing them, and the end
of a stream (R66, R83, R84, R189, R193, R194). -/

namespace Sys2Proof.Machine

/-- Extent size E of a stream's data (R189). -/
def Stream.extent (x : Stream) : Nat :=
  if x.desc.swing then x.sw.kg * (fmtD x.sw.fmt).groupBytes
  else (x.desc.run + 1) * 64 * (x.desc.cnt1 + 1) * (x.desc.cnt2 + 1)

/-- Bytes of a group's elements: a panel group for KIND 0, 32 packed elements for KIND 1. -/
def Stream.gb (x : Stream) : Nat :=
  if x.desc.kind = 0 then (fmtD x.desc.fmt).groupBytes else 4 * (fmtD x.desc.fmt).bits

/-- Groups of the extent. -/
def Stream.groups (x : Stream) : Nat := ceilDiv x.extent x.gb

/-- Granules of the extent. -/
def Stream.granules (x : Stream) : Nat := ceilDiv x.extent 4096

/-- Groups of a ring whose data the consumer has read. -/
def Stream.groupsRead (x : Stream) : Nat := x.pos / x.gb

/-- A scale unit is next: that of the group at the data position, or for weights that of a group already requested. -/
def Stream.scaleDue (x : Stream) : Bool :=
  x.desc.scl && !x.desc.swing && x.sIssued < x.groups &&
    (if x.desc.kind = 0 then x.sIssued * x.gb ≤ x.issued
     else (x.sIssued + 1) * x.gb ≤ x.issued || x.extent ≤ x.issued)

/-- Nothing of the extent is left to request. -/
def Stream.exhausted (x : Stream) : Bool := x.extent ≤ x.issued && !x.scaleDue

/-- Pool offset of data byte `b` of a ring (R191). -/
def Stream.ringOff (x : Stream) (b : Nat) : Nat := (x.desc.rbase + b / 4096 % x.desc.rgn) * 4096 + b % 4096

/-- Show a stream's state in its core's page (R201). -/
def State.showStream (s : State) (c n st : Nat) : State :=
  let x := s.stream c n
  (s.wr (Pg.core c) Reg.Core.STATE [n] st).wr (Pg.core c) Reg.Core.VOID [n] (bit !x.voids.isEmpty)

/-- Free a stream's comparators in the core's page (R195). -/
def State.freeComps (s : State) (c : Nat) (x : Stream) : State :=
  x.comps.foldl (fun t e => t.wr (Pg.core c) Reg.Core.ARMED [e.1] 0) s

/-- The stream ends (R193): comparators freed, state disarmed. -/
def State.endStream (s : State) (c n : Nat) : State :=
  let x := s.stream c n
  let t := (s.freeComps c x).setStream c n Stream.idle
  t.showStream c n 0

/-- DISARM's last part (R193): the ring's valid bits are cleared and the stream ends. Weight groups that it has delivered stay in
the MVP's queue for the next PASS that names it: no rule takes them out (log entry 57). -/
def State.disarmNow (s : State) (c n : Nat) : State :=
  let x := s.stream c n
  let t := if x.armed ∧ x.desc.kind = 0 then
      s.setValids ((List.range x.desc.rgn).map fun i => (c, x.desc.rbase + i)) false
    else s
  t.endStream c n

/-- A read of data byte `b` of a ring: it waits for its granule, and the first read of a void granule faults. -/
def State.ringStop (s : State) (c n b : Nat) : Option Stop :=
  let x := s.stream c n
  if !s.valid c (x.ringOff b / 4096) then some .wait
  else match x.voids.find? fun v => v.1 == b / 4096 with
    | some (_, a, w) => some (.fault w.code a)
    | none => none

/-- The scale line of group `g` of a ring stream: a missing one waits, a suppressed one faults. -/
def State.scaleStop (s : State) (c n g : Nat) : Option Stop :=
  match (s.stream c n).scales.find? fun e => e.1 == g with
  | none => some .wait
  | some (_, _, some (a, w)) => some (.fault w.code a)
  | some (_, _, none) => none

/-- Bytes of the scale line of group `g`. -/
def Stream.scaleLine (x : Stream) (g : Nat) : List Byte :=
  match x.scales.find? fun e => e.1 == g with
  | some (_, bs, _) => bs
  | none => []

/-- The consumer has read a ring up to data byte `b` for the last time (R66, R84): granules wholly read are released,
scale lines of read groups leave the queue, and the release of the last granule ends the stream (R193). -/
def State.releaseRing (s : State) (c n b : Nat) : State :=
  let x := s.stream c n
  if !x.armed then s
  else
    let upto := if x.extent ≤ b then x.granules else b / 4096
    let gs := (List.range (upto - x.released)).map fun i => (c, x.ringOff ((x.released + i) * 4096) / 4096)
    let y := { x with
      pos := b
      released := max x.released upto
      voids := x.voids.filter fun v => upto ≤ v.1
      scales := x.scales.filter fun e => b < (e.1 + 1) * x.gb }
    let t := (s.setValids gs false).setStream c n y
    if x.granules ≤ y.released then t.endStream c n
    else t.showStream c n (if y.exhausted then 2 else 1)

end Sys2Proof.Machine
end

