-- ==== Sys2Proof/Machine/Wear.lean ====
section
/-! DEFINITION. Wear states and error counts (R396, R397, R410, R412). -/

namespace Sys2Proof.Machine

/-- Replace the bits of `mask` of a word. -/
def maskedPut (w mask v : Word) : Word := (w &&& ~~~mask) ||| (v &&& mask)

/-- Put masked bits into a live ST word and its staged copy. -/
def State.putLive (s : State) (p o : Nat) (mask v : Word) : State :=
  let t := s.setWord p o (maskedPut (s.word p o) mask v)
  t.setWord p (o + 0x700) (maskedPut (t.word p (o + 0x700)) mask v)

/-- An agent's change of a field of a polder's page: applied at the polder's next step boundary, at once while no program
of it runs (R387, R394, R511). -/
def State.agentPut (s : State) (p : Nat) (f : FieldSpec) (ix : List Nat) (v : Nat) : State :=
  let val := putField 0 f v
  match s.polderOfPage p with
  | some q =>
    if s.rd (Pg.program q) Reg.Program.STATE = 3 then
      { s with agentWrites := s.agentWrites ++ [(p, f.off ix, f.mask, val)] }
    else s.putLive p (f.off ix) f.mask val
  | none => s.putLive p (f.off ix) f.mask val

/-- Record a wear transition and raise the reliability page's interrupt (R396). -/
def State.wearEvent (s : State) (die clu kind num st cause : Nat) : State :=
  (s.errReg Pg.reliab Reg.Reliab.EV_VALID Reg.Reliab.EV_MULTI
    [(Reg.Reliab.EV_DIE, die), (Reg.Reliab.EV_CLU, clu), (Reg.Reliab.EV_KIND, kind), (Reg.Reliab.EV_NUM, num),
     (Reg.Reliab.EV_STATE, st), (Reg.Reliab.EV_CAUSE, cause)]).setEvent Pg.reliab

/-- Wear state of physical core `ph` of cluster `cl`. -/
def State.wstate (s : State) (cl ph : Nat) : Nat := s.rd (Pg.clu cl) Reg.Clu.WSTATE [ph]

/-- Raise VTRIM of a physical core by one step, up to VMAX (R397). -/
def State.raiseTrim (s : State) (cl ph : Nat) : State :=
  let v := s.rd (Pg.clu cl) Reg.Clu.VTRIM [ph]
  if v < s.rd Pg.reliab Reg.Reliab.VMAX then s.agentPut (Pg.clu cl) Reg.Clu.VTRIM [ph] (v + 1) else s

/-- A core enters SUSPECT (R396, R397). -/
def State.suspect (s : State) (cl ph cause : Nat) : State :=
  let t := (s.wr (Pg.clu cl) Reg.Clu.WSTATE [ph] 1).wearEvent (cl / 8) (cl % 8) 0 ph 1 cause
  if t.rd Pg.reliab Reg.Reliab.POLICY = 1 then
    if t.rd Pg.reliab Reg.Reliab.REMEDY = 0 then t.raiseTrim cl ph
    else t.wr Pg.reliab Reg.Reliab.DERATE_REQ [] 1
  else t

/-- An OK core whose error counts have reached a threshold becomes SUSPECT. -/
def State.judgeCounts (s : State) (cl ph : Nat) : State :=
  let p := Pg.clu cl
  if s.wstate cl ph ≠ 0 then s
  else if s.rd Pg.reliab Reg.Reliab.RES_TH ≤ s.rd p Reg.Clu.RES [ph] then s.suspect cl ph 0
  else if s.rd Pg.reliab Reg.Reliab.PAR_TH ≤
      s.rd p Reg.Clu.MEPAR [ph] + s.rd p Reg.Clu.VEPAR [ph] + s.rd p Reg.Clu.POOLPAR [ph] then s.suspect cl ph 1
  else s

/-- Count an error that the physical core of logical core `c` raised. -/
def State.countWear (s : State) (c : Nat) (f : FieldSpec) : State :=
  let cl := c / 8
  let ph := s.physCore c
  (s.count (Pg.clu cl) f [ph] 1).judgeCounts cl ph

/-- A pool parity error of core `c`'s pool (R54): POOL_PARITY recorded with bank, row, byte and requester, counted, and raised
in the page of that core. R54 gives the fault record no address: the model writes 0 (log entry 57). -/
def State.poolParity (s : State) (c pbank row byte req : Nat) (f : FaultRec) : State :=
  let p := Pg.core c
  let t := s.errReg p Reg.Core.ERR_108 Reg.Core.MULTI_108
    [(Reg.Core.PBANK, pbank), (Reg.Core.ROW_108, row), (Reg.Core.BYTE_108, byte), (Reg.Core.REQ, req)]
  (t.countWear c Reg.Clu.POOLPAR).raise { f with page := p, code := 0x40, addr := 0 }

end Sys2Proof.Machine
end

