-- ==== Sys2Proof/Machine/Me.lean ====
section
/-! DEFINITION. The matrix engine: MMA and DRAIN (R80 to R106). -/

namespace Sys2Proof.Machine

/-- Engine number of a core's ME. -/
def meKey (c : Nat) : Nat := 4 * c

/-! Instruction fields (R91). -/

def meOpc (i : BitVec 256) : Nat := iw i 0 3 0
def meAset (i : BitVec 256) : Nat := iw i 0 4 4
def meAcc (i : BitVec 256) : Nat := iw i 0 6 5
def meDrn (i : BitVec 256) : Bool := iw i 0 7 7 = 1
def meKg (i : BitVec 256) : Nat := iw i 7 12 0
def meZslot (i : BitVec 256) : Nat := iw i 7 24 13
def meZen (i : BitVec 256) : Bool := iw i 7 25 25 = 1
/-- Pool offset of the store descriptor. -/
def meSdesc (i : BitVec 256) : Nat := iw i 3 31 17 * 256
/-- Pool offset of the C_init tile. -/
def meCinit (i : BitVec 256) : Nat := iw i 4 31 17 * 256

/-- One operand of an MMA: where it comes from and its format (R82 to R84). -/
structure MeOperand where
  code : Nat
  mx   : Bool
  ring : Bool
  rel  : Bool
  /-- Pool offset in lines, or ring number. -/
  off  : Nat
  /-- Pool offset of the scale lines. -/
  scl  : Nat
  x    : Nat
  /-- Ring read position at the start of the panel. -/
  pos  : Nat
  deriving DecidableEq, Repr

def meA (i : BitVec 256) (pos : Nat) : MeOperand :=
  ⟨iw i 0 11 8, iw i 0 16 16 = 1, iw i 0 18 18 = 1, iw i 0 20 20 = 1, iw i 3 16 0, iw i 5 16 0 * 64, iw i 5 24 17, pos⟩

def meB (i : BitVec 256) (pos : Nat) : MeOperand :=
  ⟨iw i 0 15 12, iw i 0 17 17 = 1, iw i 0 19 19 = 1, iw i 0 21 21 = 1, iw i 4 16 0, iw i 6 16 0 * 64, iw i 6 24 17, pos⟩

def MeOperand.f (o : MeOperand) : Fmt := fmtD o.code
def MeOperand.stream (o : MeOperand) : Nat := o.off % 8

/-- The operand's own rules of R93, and R37: an MX operand begins on a block boundary. -/
def State.meOperandOk (s : State) (c : Nat) (o : MeOperand) : Bool :=
  operandOk o.code o.mx
    && (if o.f = .bf16 ∨ o.f = .fp16 then o.x == 0x7F else true)
    && (if o.ring then
          bits o.off 16 3 == 0 && (s.stream c o.stream).armed && (s.stream c o.stream).desc.kind == 0
            && (!o.mx || (s.stream c o.stream).pos % (s.stream c o.stream).gb == 0)
        else true)

/-- The set is one an MMA has opened since reset. -/
def State.setOpened (s : State) (c a : Nat) : Bool := (sget (fun _ => 0) s.meOpened c).testBit a

/-- An ME instruction that R93 does not make malformed by its own fields. -/
def State.meFieldsOk (s : State) (c : Nat) (i : BitVec 256) : Bool :=
  coreTokOk i &&
    if meOpc i = 1 then
      iw i 0 31 22 == 0 && meAcc i != 3 && iw i 5 31 25 == 0 && iw i 6 31 25 == 0 && iw i 7 31 26 == 0
        && 1 ≤ meKg i && meKg i ≤ 0x1000
        && s.meOperandOk c (meA i 0) && s.meOperandOk c (meB i 0) && pairable (meA i 0).f (meB i 0).f
    else if meOpc i = 2 then
      iw i 0 31 5 == 0 && iw i 3 16 0 == 0 && iw i 4 31 0 == 0 && iw i 5 31 0 == 0 && iw i 6 31 0 == 0
        && iw i 7 31 0 == 0 && s.setOpened c (meAset i)
    else false

/-- Judge a store or load descriptor at a pool offset of core `c` (R94, R96, R130): outside the pool or unfenced it
faults before it is read; a bad encoding is malformed. -/
def State.checkDesc (s : State) (c off : Nat) (load : Bool) : Option Stop :=
  match s.descStop c off 64 with
  | some f => some f
  | none => if (storeDesc (s.bytesAt (poolAddr c off) 64)).ok load then none else some (.fault 0x01 (poolAddr c off))

/-- Judge the head ME instruction once its tokens are present (R62, R93, R94). -/
def State.meCheck (s : State) (c : Nat) (i : BitVec 256) (pc : Nat) : Ready :=
  if (s.job (meKey c)).isSome then .wait 0
  else if !s.meFieldsOk c i then .fault 0x01 (s.fetchAddr (meKey c) pc)
  else if meDrn i || meOpc i = 2 then
    match s.checkDesc c (meSdesc i) false with
    | some x => x.ready
    | none => .go
  else .go

/-- The token counters after the ME of core `c` has fired, if it fires now (R63). -/
def State.meFires (s : State) (c : Nat) : State := s.firstTake (meKey c) fun s i pc => s.meCheck c i pc

/-! Storing a tile (R95 to R98, R131). -/

/-- Granules that a store through descriptor `d` claims: its destination, or with DSTK = 1 its staging image (R57,
R98). -/
def storeClaims (c : Nat) (d : StoreDesc) : List (Nat × Nat) :=
  let ls := d.touched.lines
  if d.dstk then granulesOf ((List.range ls.length).map fun j => poolAddr c (d.stage + 64 * j))
  else granulesOf (ls.map (·.1))

/-- Requests of a core's class, in the order of their issue: the first 48 are outstanding, the others wait (R67, R69). -/
def State.ofClass (s : State) (c cls : Nat) : List Req := s.reqs.filter fun r => r.core == c && r.cls == cls

/-- Show a class's OUT and HIGH in its core's page (R77). -/
def State.showClass (s : State) (c cls : Nat) : State :=
  let n := min (s.ofClass c cls).length 48
  let t := s.wr (Pg.core c) Reg.Core.HIGH [cls] (max (s.rd (Pg.core c) Reg.Core.HIGH [cls]) n)
  t.wr (Pg.core c) Reg.Core.OUT [cls] n

/-- Add requests of a class, updating OUT and HIGH of the class (R67, R77). -/
def State.addReqs (s : State) (c cls : Nat) (rs : List Req) : State :=
  let t := { s with reqs := s.reqs ++ rs, ids := s.ids + rs.length }
  (rs.foldl (fun t r => if r.void.isSome then t else t.acctMem (s.polderOfCore c) r.addr r.len r.write) t).showClass c cls

/-- The slot owner of a core's requests (R254). -/
def coreOwner (c : Nat) : Owner := ⟨c / 64, c / 8 % 8, c % 8⟩

/-- OUT transfers of a request: a command, and 1,536 bytes of write data with each (R255). -/
def outsOf (write : Bool) (n : Nat) : Nat := if write then ceilDiv n 1536 else 1

/-- Lines joined where one follows the other within a block: what one write covers (R144). -/
def joinBlocks : List (Nat × List (Option Byte)) → List (Nat × List (Option Byte))
  | [] => []
  | (a, b) :: r =>
    match joinBlocks r with
    | (a2, b2) :: q => if a2 = a + 64 ∧ a2 % 4096 ≠ 0 then (a, b ++ b2) :: q else (a, b) :: (a2, b2) :: q
    | [] => [(a, b)]

/-- Who writes: the codes of R201 and the in-flight instruction. -/
structure Writer where
  die   : Nat
  clu   : Nat
  unit  : Nat
  instr : Nat
  deriving DecidableEq, Repr

/-- The write of bytes at an address. -/
def Writer.write (w : Writer) (a : Nat) (bs : List (Option Byte)) (cvm : Bool) : StalledWrite :=
  ⟨a, bs, cvm, w.die, w.clu, w.unit, none, w.instr⟩

/-- Pieces written in order up to the first block whose merge fails its check: the writes done and the fault. -/
def State.writePieces (s : State) (who : Nat) (w : Writer) (cvm : Bool) :
    List (Nat × List (Option Byte)) → State × Option (Nat × Nat)
  | [] => (s, none)
  | (a, bs) :: r =>
    let t := (s.acctMem (s.polderOfCore (who % 256)) a bs.length true).store (w.write a bs cvm)
    match t.2 with
    | some b => (t.1, some (0x46, b))
    | none => State.writePieces t.1 who w cvm r

/-- Lines written in order up to the first that leaves its window (R133), each block in one write: the writes done and the
first fault. -/
def State.writeLines (s : State) (who : Nat) (w : Writer) (cvm : Bool) (ls : List (Nat × List (Option Byte))) :
    State × Option (Nat × Nat) :=
  let good := ls.takeWhile fun e => (s.writeStop who e.1).isNone
  let r := s.writePieces who w cvm (joinBlocks good)
  (r.1, r.2.or ((ls.drop good.length).head?.bind fun e => (s.writeStop who e.1).bind Stop.faultOf))

/-- The writer codes of R201 for core `c`, whose in-flight instruction `id` writes. -/
def coreWriter (c id : Nat) : Writer := ⟨c / 64, c / 8 % 8, c % 8, id⟩

/-- Store a tile of values through descriptor `d` for instruction `id` of engine `k`: pool writes at once, or the staging
image and its S2 requests (R97, R98, R133). Events are counted under base code `ev`. -/
def State.storeTile (s : State) (k id pc : Nat) (d : StoreDesc) (v : Nat → Nat → FVal) (ev : Nat) : State :=
  let c := k / 4
  let p := s.polderOfCore c
  let img := d.image (s.runKey p) (s.stepNo p) v
  let s := ((s.event (Pg.core c) ev img.events.invalid).event (Pg.core c) (ev + 1) img.events.overflow).event
    (Pg.core c) (ev + 2) img.events.nanLost
  if !d.dstk then
    let r := s.writeLines c (coreWriter c id) true img.lines
    match r.2 with
    | some (code, a) => r.1.stopInstr k id (engFault k pc code a)
    | none => (r.1.dropJob k).finish id
  else
    let ls := img.lines
    let stage := ls.zipIdx.map fun (e, j) => (poolAddr c (d.stage + 64 * j), e.2)
    let r := s.writeLines c (coreWriter c id) true stage
    -- the lines whose staging lines were written, up to the first destination outside its window
    let staged := stage.takeWhile fun e => (s.writeStop c e.1).isNone
    let good := (ls.take staged.length).takeWhile fun e => (s.writeStop c e.1).isNone
    let t := r.1.addReqs c 2 ((joinLines good d.stage).zipIdx.map fun (q, j) =>
      ⟨s.ids + j, c, 2, coreOwner c, engCode k, pc, id, true, q.1, q.2.2.length, true, q.2.2, .none, none,
        outsOf true q.2.2.length, false, 0, 0, 0, 0, [], 0⟩)
    match r.2.or ((ls.drop good.length).head?.bind fun e => (s.writeStop c e.1).bind Stop.faultOf) with
    | some (code, x) => t.stopInstr k id (engFault k pc code x)
    | none => (t.dropJob k).finish id

/-! Reading operands (R82 to R84). -/

/-- Pool address of byte `j` of group `g` of an operand. -/
def State.meByteAddr (s : State) (c : Nat) (o : MeOperand) (g j : Nat) : Nat :=
  let b := g * o.f.groupBytes + j
  if o.ring then poolAddr c ((s.stream c o.stream).ringOff (o.pos + b)) else poolAddr c (o.off * 64 + b)

/-- The byte reader of group `g` of an operand. -/
def State.meBytes (s : State) (c : Nat) (o : MeOperand) (g : Nat) : Nat → Byte :=
  fun j => s.byteAt (s.meByteAddr c o g j)

/-- Why the read of bytes [j, j + n) of a group stops. -/
def State.meReadStop (s : State) (c : Nat) (o : MeOperand) (g j n : Nat) : Option Stop :=
  if o.ring then
    let b := o.pos + g * o.f.groupBytes + j
    ([b, b + n - 1]).findSome? fun x => s.ringStop c o.stream x
  else (linesOf (poolAddr c (o.off * 64 + g * o.f.groupBytes + j)) n).findSome? fun a => s.poolStop c a

/-- Group number of the stream's scale line for group `g` of the panel. -/
def State.meScaleGroup (s : State) (c : Nat) (o : MeOperand) (g : Nat) : Nat :=
  o.pos / (s.stream c o.stream).gb + g

/-- Why the scale line of group `g` cannot be read. -/
def State.meScaleStop (s : State) (c : Nat) (o : MeOperand) (g : Nat) : Option Stop :=
  if !o.mx then none
  else if o.ring then s.scaleStop c o.stream (s.meScaleGroup c o g)
  else s.poolStop c (poolAddr c (o.scl + 64 * g))

/-- The scale of lane `l` in group `g`. -/
def State.meScale (s : State) (c : Nat) (o : MeOperand) (g l : Nat) : Nat :=
  if !o.mx then o.x
  else if o.ring then
    (((s.stream c o.stream).scaleLine (s.meScaleGroup c o g)).getD l 0).toNat
  else (s.byteAt (poolAddr c (o.scl + 64 * g) + l)).toNat

/-- The stream whose void granule or scale line stops group `g`: A's where A's reads stop first, else B's (R194). -/
def State.meVoidUnit (s : State) (c : Nat) (a b : MeOperand) (g : Nat) : Nat :=
  let ks := kstep a.f b.f
  let slice := fun (o : MeOperand) (t : Nat) =>
    if t * ks % o.f.ko = 0 then s.meReadStop c o g (t * ks / o.f.ko * o.f.sliceBytes) o.f.sliceBytes else none
  let inA := fun (x y : Option Stop) => if x.isSome then some true else if y.isSome then some false else none
  let first := (inA (s.meScaleStop c a g) (s.meScaleStop c b g)).or
    ((List.range (32 / ks)).findSome? fun t => inA (slice a t) (slice b t))
  let o := if first.getD true then a else b
  if o.ring then o.stream else 0

/-- The first stop among the reads of group `g`, in the order of the ACLK that make them (R83, R88). -/
def State.meGroupStop (s : State) (c : Nat) (a b : MeOperand) (g : Nat) : Option Stop :=
  let ks := kstep a.f b.f
  let slice := fun (o : MeOperand) (t : Nat) =>
    if t * ks % o.f.ko = 0 then s.meReadStop c o g (t * ks / o.f.ko * o.f.sliceBytes) o.f.sliceBytes else none
  match (s.meScaleStop c a g).or (s.meScaleStop c b g) with
  | some x => some x
  | none => (List.range (32 / ks)).findSome? fun t => (slice a t).or (slice b t)

/-! One group (R33, R99 to R101). -/

/-- Observed zero bit of a lane (R99). -/
def laneZero (scale : Nat) (vs : List FVal) : Bool := scale != 0xFF && vs.all FVal.isZero

/-- Index of a core's zero-map record. -/
def State.zmapKey (s : State) (c r : Nat) : Nat := ((c / 8) * 9 + s.physCore c) * 4096 + r % 4096

/-- ACLK of the first nonzero element of a lane, or the group's length. -/
def firstNonzero (ks : Nat) (vs : List FVal) : Nat :=
  match vs.findIdx? fun v => !v.isZero with
  | some k => k / ks
  | none => 32 / ks

/-- Predict, count and observe the zero lanes of a group (R100, R101). -/
def State.meZeroMap (s : State) (c rec ks : Nat) (la lb : List (Nat × List FVal)) : State :=
  let key := s.zmapKey c rec
  let old := sget (fun _ => (0 : BitVec 128)) s.zmap key
  let lanes := (la ++ lb).zipIdx
  let gated := lanes.filter fun e => old.getLsbD e.2
  let misses := (gated.filter fun e => e.1.2.any fun v => !v.isZero).length
  let cycles := (gated.map fun e => firstNonzero ks e.1.2).foldl (· + ·) 0
  let seen := lanes.foldl (fun (m : BitVec 128) e =>
    if laneZero e.1.1 e.1.2 then m ||| BitVec.ofNat 128 (2 ^ e.2) else m) 0
  let s := (s.event (Pg.core c) 0x0B0 misses).event (Pg.core c) 0x0B1 cycles
  { s with zmap := sset (fun _ => 0) s.zmap key seen }

/-- Accumulate group `g` of an MMA into set `aset`; group 0 with ACC = 0 starts from +0. A group whose own S is a NaN, with no
NaN among its operands, counts INVALID whatever the accumulator held: R127 does not say whether the accumulator is an
input of S (log entry 57). -/
def State.meGroup (s : State) (c aset : Nat) (zero : Bool) (a b : MeOperand) (g : Nat) (zen : Option Nat) : State :=
  let ga := s.meBytes c a g
  let gb := s.meBytes c b g
  let la := (List.range 64).map fun l => (s.meScale c a g l, panelLane a.f ga l)
  let lb := (List.range 64).map fun l => (s.meScale c b g l, panelLane b.f gb l)
  let w := groupWeight a.f b.f
  let upd := la.zipIdx.flatMap fun (x, m) => lb.zipIdx.map fun (y, n) =>
    let key := s.accKey c aset m n
    let old := if zero then 0 else s.word32 key
    let sum := groupSum w x.2 y.2 x.1 y.1
    let nan := sum.isNan && x.1 != 0xFF && y.1 != 0xFF && !x.2.any FVal.isNan && !y.2.any FVal.isNan
    let r := accumulate old sum
    (key, r.1, (⟨r.2.invalid + bit nan, r.2.overflow, 0⟩ : FpEvents))
  let ev := upd.foldl (fun e u => e.add u.2.2) FpEvents.none
  let s := match zen with
    | some r => s.meZeroMap c r (kstep a.f b.f) la lb
    | none => s
  let s := s.setWords32 (upd.map fun u => (u.1, u.2.1))
  (s.event (Pg.core c) 0x0A0 ev.invalid).event (Pg.core c) 0x0A1 ev.overflow

/-- Release a ring operand's granules read up to the end of group `g` (R84). -/
def State.meRelease (s : State) (c : Nat) (o : MeOperand) (g : Nat) : State :=
  if o.ring && o.rel then s.releaseRing c o.stream (o.pos + (g + 1) * o.f.groupBytes) else s

/-- An error the ME detects in group `g` (R104), or a pool parity error of its reads (R54). -/
def State.meError (s : State) (c id pc : Nat) (hw : HwErr) : State :=
  let k := meKey c
  match hw with
  | .me kind group cells =>
    let at_ := lowest (cells.map fun e => 64 * e.1 + e.2)
    let t := s.errReg (Pg.core c) Reg.Core.ERR_304 Reg.Core.MULTI_304
      [(Reg.Core.KIND_304, kind), (Reg.Core.ROW_304, at_ / 64), (Reg.Core.COL, at_ % 64), (Reg.Core.GROUP, group)]
    let t := if 1 < cells.length then t.wr (Pg.core c) Reg.Core.MULTI_304 [] 1 else t
    let t := t.countWear c (if kind % 4 < 2 then Reg.Clu.RES else Reg.Clu.MEPAR)
    t.stopInstr k id (engFault k pc (if kind % 4 < 2 then 0x41 else 0x42) 0)
  | .poolParity o b r y => (s.dropJob k).failInstr id |>.poolParity o.val b r y 0 (engFault k pc 0x40 0)
  | _ => s

/-- Whether a hardware error strikes the MMA at group `g`. -/
def meStruck (hw : HwErr) (g : Nat) : Bool :=
  match hw with
  | .me _ group _ => group == g
  | .poolParity .. => true
  | _ => false

/-- Whether a hardware error strikes a drain: parity of the accumulators that it reads (R103), or of its descriptor. -/
def drainStruck (hw : HwErr) (kg : Nat) : Bool :=
  match hw with
  | .me kind group _ => kind == 3 && kg ≤ group
  | .poolParity .. => true
  | _ => false

/-- Set `a` of core `c` is open or not (R87, R106). -/
def State.markOpen (s : State) (c a : Nat) (b : Bool) : State :=
  s.wr (Pg.core c) ⟨0x308, [], 2 + a, 2 + a, .ro, 0⟩ [] (bit b)

/-- Value of element (m, n) of an accumulator set. -/
def State.accVal (s : State) (c a m n : Nat) : FVal := f32 (s.word32 (s.accKey c a m n))

/-- Drain set `a` through a descriptor read at firing: the set's values do not change, and once the drain has completed it
is no longer open (R87, R95). -/
def State.drainSet (s : State) (c a id pc : Nat) (desc : List Byte) : State :=
  let t := s.storeTile (meKey c) id pc (storeDesc desc) (fun m n => s.accVal c a m n) 0x0A0
  if t.inflight.any fun x => x.id == id && x.failed then t else t.markOpen c a false

/-- Run the groups of an MMA from `g` on, at most `fuel` of them: a stop saves the position or faults, the end drains when
DRN is 1. -/
def State.meRun (s : State) (c : Nat) (j : Job) (hw : HwErr) : Nat → Nat → State
  | 0, _ => s
  | fuel + 1, g =>
    let i := j.instr
    let a := meA i j.aPos
    let b := meB i j.bPos
    if meKg i ≤ g then
      let t := s.dropJob (meKey c)
      if meDrn i then
        (if drainStruck hw (meKg i) then s.meError c j.id j.pc hw else t.drainSet c (meAset i) j.id j.pc j.desc)
      else t.finish j.id
    else if meStruck hw g then s.meError c j.id j.pc hw
    else
      match s.meGroupStop c a b g with
      | some .wait => (s.setJob (meKey c) { j with next := g }).stall (meKey c) 0
      | some (.fault code x) =>
        (s.noteStale code x).stopInstr (meKey c) j.id { engFault (meKey c) j.pc code x with unit := s.meVoidUnit c a b g }
      | none =>
        let zen := if meZen i then some (meZslot i + g) else none
        let t := s.meGroup c (meAset i) (g == 0 && meAcc i == 0) a b g zen
        let t := (t.meRelease c a g).meRelease c b g
        State.meRun t c j hw fuel (g + 1)

/-- Load C_init from the pool (R86): its lines are read in order. -/
def State.meLoadInit (s : State) (c aset off : Nat) : State × Option Stop :=
  match (linesOf (poolAddr c off) 16384).findSome? fun a => s.poolStop c a with
  | some x => (s, some x)
  | none =>
    (s.setWords32 ((List.range 64).flatMap fun m => (List.range 64).map fun n =>
      (s.accKey c aset m n, BitVec.ofNat 32 (s.numAt (poolAddr c (off + m * 256 + 4 * n)) 4))), none)

/-- An MMA runs on: with ACC = 2 it first loads C_init, for which it waits where a ring granule has not arrived (R66, R86). -/
def State.meGo (s : State) (c : Nat) (hw : HwErr) (j : Job) : State :=
  let k := meKey c
  let r : State × Option Stop := if j.init then s.meLoadInit c (meAset j.instr) (meCinit j.instr) else (s, none)
  match r.2 with
  | some (.fault code x) => (r.1.noteStale code x).stopInstr k j.id (s.readFault k j.pc code x)
  | some .wait => (r.1.setJob k j).stall k 0
  | none => r.1.meRun c { j with init := false } hw (meKg j.instr + 1 - j.next) j.next

/-- An MMA fires (R62, R86 to R88). -/
def State.mmaGo (s : State) (c : Nat) (hw : HwErr) (i : BitVec 256) (pc : Nat) : State :=
  let k := meKey c
  let desc := if meDrn i then s.bytesAt (poolAddr c (meSdesc i)) 64 else []
  let claims := if meDrn i then storeClaims c (storeDesc desc) else []
  let r := s.fire k i claims true
  let t := r.1.markOpen c (meAset i) true
  let t := { t with meOpened := sset (fun _ => 0) t.meOpened c
                                  (sget (fun _ => 0) t.meOpened c ||| 2 ^ meAset i) }
  t.meGo c hw ⟨i, pc, r.2, 0, (s.stream c (meA i 0).stream).pos, (s.stream c (meB i 0).stream).pos, desc, meAcc i == 2⟩

/-- MMA (R88): the MMA in progress continues, or the MMA at the head of the ME's queue fires. -/
def execMma (core : CoreId) (hw : HwErr) (s : State) : Host.Outcome State Fault Refusal :=
  let c := core.val
  .next <|
    match s.job (meKey c) with
    | some j => if s.canRun (meKey c) then s.meGo c hw j else s.stall (meKey c) 0
    | none => s.tryFire (meKey c) (fun i => meOpc i != 2) (fun s i pc => s.meCheck c i pc) (fun _ => 0)
        (fun s i pc => s.mmaGo c hw i pc)

/-- A DRAIN fires (R89). -/
def State.drainGo (s : State) (c : Nat) (hw : HwErr) (i : BitVec 256) (pc : Nat) : State :=
  let desc := s.bytesAt (poolAddr c (meSdesc i)) 64
  let r := s.fire (meKey c) i (storeClaims c (storeDesc desc)) true
  if drainStruck hw 0 then r.1.meError c r.2 pc hw else r.1.drainSet c (meAset i) r.2 pc desc

/-- DRAIN (R89): an ME DRAIN writes an accumulator set through its store descriptor. -/
def execDrain (core : CoreId) (hw : HwErr) (s : State) : Host.Outcome State Fault Refusal :=
  let c := core.val
  .next (s.tryFire (meKey c) (fun i => meOpc i == 2) (fun s i pc => s.meCheck c i pc) (fun _ => 0)
    (fun s i pc => s.drainGo c hw i pc))

end Sys2Proof.Machine
end

