-- ==== Sys2Proof/Machine/Stream.lean ====
section
/-! DEFINITION. The stream unit: descriptors, prefetch requests, and the arrival of stream data (R154 to R156, R188 to
R195). -/

namespace Sys2Proof.Machine

/-- Engine number of a core's stream unit. -/
def suKey (c : Nat) : Nat := 4 * c + 3

/-! Descriptors. -/

/-- A 48-bit address from two words of a descriptor. -/
def dAddr (d : List Byte) (o : Nat) : Nat := dword d o + bits (dword d (o + 4)) 15 0 * 2 ^ 32

def parseStream (d : List Byte) : StreamDesc :=
  let w := dword d 0
  { kind := bits w 1 0, swing := bits w 2 2 = 1, cvm := bits w 3 3 = 1, scl := bits w 4 4 = 1, fmt := bits w 8 5,
    rgn := bits w 19 9, rbase := bits w 30 20, src := dAddr d 4, run := bits (dword d 8) 31 16, cnt1 := dword d 0xC,
    str1 := dAddr d 0x10, cnt2 := dword d 0x18, str2 := dAddr d 0x1C, ssrc := dAddr d 0x24, sstr := dword d 0x2C,
    swd := bits (dword d 0x30) 16 0 * 64 }

/-- The reserved bits of a stream descriptor are zero (R188). -/
def streamClean (d : List Byte) : Bool :=
  bits (dword d 0) 31 31 == 0 && bits (dword d 0x14) 31 16 == 0 && bits (dword d 0x20) 31 16 == 0
    && bits (dword d 0x28) 31 16 == 0 && bits (dword d 0x30) 31 17 == 0 && ((d.drop 0x34).take 12).all (· == 0)

def parseSwing (d : List Byte) : SwingDesc :=
  let w := dword d 0
  { fmt := bits w 3 0, mx := bits w 4 4 = 1, lanes := bits w 10 5, rowstr := dword d 4, src := dAddr d 8,
    ssrc := dAddr d 0x10, srowstr := dword d 0x18, kg := bits (dword d 0x1C) 12 0 }

/-- A Swing descriptor that R155 does not make malformed. -/
def swingOk (d : List Byte) : Bool :=
  let x := parseSwing d
  bits (dword d 0) 31 11 == 0 && bits (dword d 0xC) 31 16 == 0 && bits (dword d 0x14) 31 16 == 0
    && bits (dword d 0x1C) 31 13 == 0 && operandOk x.fmt x.mx && 1 ≤ x.kg && x.kg ≤ 0x1000

/-! Extents. -/

/-- Source address of data byte `b` of a stream without Swing (R189). -/
def StreamDesc.addr (d : StreamDesc) (b : Nat) : Nat :=
  let r := (d.run + 1) * 64
  (d.src + b / r % (d.cnt1 + 1) * d.str1 + b / r / (d.cnt1 + 1) * d.str2 + b % r) % 2 ^ 48

/-- Join a range of `n` bytes at `a`, taken mod 2^48, into a bounding range. -/
def boundJoin (acc : Nat × Nat) (a n : Nat) : Nat × Nat :=
  let a := a % 2 ^ 48
  if 2 ^ 48 < a + n then (0, 2 ^ 48 - 1) else (min acc.1 a, max acc.2 (a + n - 1))

/-- Bounding range of `n` byte runs at `src + i × s1 + j × s2`, i to c1 and j to c2 (R195): closed form unless the extent
wraps. -/
def bounding (src n c1 s1 c2 s2 : Nat) : Nat × Nat :=
  if src + c1 * s1 + c2 * s2 + n ≤ 2 ^ 48 then (src, src + c1 * s1 + c2 * s2 + n - 1)
  else
    (List.range (c2 + 1)).foldl (fun acc j =>
      (List.range (c1 + 1)).foldl (fun acc i => boundJoin acc (src + i * s1 + j * s2) n) acc) (2 ^ 48, 0)

/-- Bytes of one source row of a Swing stream. -/
def SwingDesc.rowBytes (w : SwingDesc) : Nat := ((w.lanes + 1) * (fmtD w.fmt).bits + 7) / 8

/-- Bounding range of a stream's data bytes at the source. -/
def dataBounds (d : StreamDesc) (w : SwingDesc) : Nat × Nat :=
  if d.swing then bounding w.src w.rowBytes (32 * w.kg - 1) w.rowstr 0 0
  else bounding d.src ((d.run + 1) * 64) d.cnt1 d.str1 d.cnt2 d.str2

/-- Bounding range of its scale units. -/
def scaleBounds (d : StreamDesc) (w : SwingDesc) (groups : Nat) : Nat × Nat :=
  if d.swing then bounding w.ssrc (w.lanes + 1) (w.kg - 1) w.srowstr 0 0
  else bounding d.ssrc (if d.kind = 0 then 64 else 1) (groups - 1) d.sstr 0 0

/-! The end of a stream. -/

/-- Requests of stream `n` of core `c` in flight. -/
def State.streamReqs (s : State) (c n : Nat) : List Req :=
  s.reqs.filter fun r => r.core == c && r.cls == 0 &&
    match r.dest with
    | .ring m _ | .scale m _ | .weights m _ | .swing m _ _ _ => m == n
    | _ => false

/-- DISARMs that wait end once the stream has no request in flight (R193). -/
def State.tryEnd (s : State) (c n : Nat) : State :=
  let ids := (s.stream c n).ending
  if !ids.isEmpty && (s.streamReqs c n).isEmpty then ids.foldl State.finish (s.disarmNow c n) else s

/-! Prefetch requests (R190, R191, R194). -/

/-- A prefetch request before it is issued: address, length, destination. -/
abbrev Fetch := Nat × Nat × ReqDest

/-- Cut `n` bytes at `a` into 64-byte-aligned pieces within 4 KiB blocks; at most `fuel` pieces. -/
def linePieces : Nat → Nat → Nat → List (Nat × Nat)
  | 0, _, _ => []
  | f + 1, a, n =>
    if n = 0 then []
    else
      let lo := a / 64 * 64
      let hi := min ((a + n + 63) / 64 * 64) (lo / 4096 * 4096 + 4096)
      (lo % 2 ^ 48, hi - lo) :: linePieces f hi (a + n - hi)

/-- Reads that Swing makes for group `g`: 32 source rows, then the scale line. -/
def SwingDesc.reads (w : SwingDesc) (g : Nat) : List (Nat × Nat × Bool) :=
  let rows := (List.range 32).flatMap fun j => linePieces 3 ((w.src + (32 * g + j) * w.rowstr) % 2 ^ 48) w.rowBytes
  let line := if w.mx then linePieces 3 ((w.ssrc + g * w.srowstr) % 2 ^ 48) (w.lanes + 1) else []
  rows.map (fun e => (e.1, e.2, false)) ++ line.map fun e => (e.1, e.2, true)

/-- Bytes that a request brings into the weight queue of its core: all of it, or the scale byte (R108, R189). -/
def State.weightBytes (s : State) (c : Nat) (r : Req) : Nat :=
  match r.dest with
  | .weights _ _ => r.len
  | .scale n _ => if (s.stream c n).desc.kind = 1 then 1 else 0
  | _ => 0

/-- Bytes held in a core's weight queue: whole groups with their scale bytes, and the elements and scale bytes of groups that
are not yet whole. -/
def State.queueBytes (s : State) (c : Nat) : Nat :=
  (sget (fun _ => []) s.wqueue c).foldl (fun a g => a + g.elems.length + bit g.mx) 0
    + (List.range 8).foldl (fun a n =>
        let x := s.stream c n
        if x.armed && x.desc.kind == 1 then a + x.weights.length + x.scales.length else a) 0

/-- Requests kept for a core's weight queue. -/
def State.weightReqs (s : State) (c : Nat) : List Req :=
  s.reqs.filter fun r => r.core == c && 0 < s.weightBytes c r

/-- The weight queue takes one more request: 4 KiB of it are free, those that requests in flight will fill not counted, and
fewer than 16 requests are kept for it (R108, R191). -/
def State.weightRoom (s : State) (c : Nat) : Bool :=
  let w := s.weightReqs c
  w.length < 16 && s.queueBytes c + w.foldl (fun t r => t + s.weightBytes c r) 0 + 4096 ≤ 65536

/-- The next request of a stream, none when it has none ready. A ring read with REL = 0 keeps its 32 scale lines: nothing says
that they leave the queue, so the scale lines after them wait (log entry 57). -/
def State.nextFetch (s : State) (c n : Nat) : Option Fetch :=
  let x := s.stream c n
  let d := x.desc
  let more := x.issued < x.extent
  let room32 := x.sIssued < x.groupsRead + 32
  if !x.armed || !x.ending.isEmpty then none
  else if d.swing then
    let g := x.issued / x.gb
    let rs := x.sw.reads g
    let room := more && g < x.arrived / x.gb + 2 && (x.issued + x.gb - 1) / 4096 < x.released + d.rgn
      && (!d.scl || g < x.groupsRead + 32)
    match rs[x.swRow]? with
    | some (a, l, sc) => if room then some (a, l, .swing n g sc (x.swRow + 1 == rs.length)) else none
    | none => none
  else if x.scaleDue && (if d.kind = 1 then s.weightRoom c else room32) then
    some ((d.ssrc + x.sIssued * d.sstr) % 2 ^ 48 / 64 * 64, 64, .scale n x.sIssued)
  else if !more then none
  else
    let b := x.issued
    let a := d.addr b
    let l := min ((d.run + 1) * 64 - b % ((d.run + 1) * 64)) (4096 - a % 4096)
    if d.kind = 0 then
      if b / 4096 < x.released + d.rgn then some (a, min l (4096 - b % 4096), .ring n b) else none
    else if s.weightRoom c then some (a, l, .weights n b)
    else none

/-- Why a stream request at `a` is suppressed (R194). -/
def State.suppressed (s : State) (c a : Nat) : Option Void :=
  if !s.inWindow c a false then some .window else if (s.phys a).isNone then some .unmapped else none

/-- A stream after it issued a request. -/
def Stream.advance (x : Stream) : Fetch → Stream
  | (_, _, .swing _ _ _ true) => { x with swRow := 0, issued := x.issued + x.gb }
  | (_, _, .swing _ _ _ false) => { x with swRow := x.swRow + 1 }
  | (_, _, .scale _ _) => { x with sIssued := x.sIssued + 1 }
  | (_, l, _) => { x with issued := x.issued + l }

/-- The slot owner of a stream request: the core, or the cluster's Swing channel (R254). -/
def fetchOwner (c : Nat) (d : ReqDest) : Owner :=
  match d with
  | .swing _ _ _ _ => { coreOwner c with own := 12 }
  | _ => coreOwner c

/-- Issue a request of stream `n`. -/
def State.issueFetch (s : State) (c n : Nat) (f : Fetch) : State :=
  let x := (s.stream c n).advance f
  let v := s.suppressed c f.1
  let dead := v.isSome
  let t := (s.setStream c n x).showStream c n (if x.exhausted then 2 else 1)
  t.addReqs c 0 [⟨t.ids, c, 0, fetchOwner c f.2.2, 3, noPc, 0, false, f.1, f.2.1, x.desc.cvm, [], f.2.2, v,
    if dead then 0 else 1, false, 0, if dead then 0 else 1, 0, 0, [], 0⟩]

/-- Streams of a core with a request ready, ascending. -/
def State.firstFetch (s : State) (c : Nat) : Option (Nat × Fetch) :=
  (List.range 8).findSome? fun n => (s.nextFetch c n).map fun f => (n, f)

/-- PREFETCH_REQUEST (R191): the lowest-numbered armed stream with a request ready issues it, within the 48 requests of
class S0. -/
def execPrefetchRequest (core : CoreId) (s : State) : Host.Outcome State Fault Refusal :=
  let c := core.val
  .next <|
    if !s.canRun (suKey c) then s
    else
      match s.firstFetch c with
      | none => s
      | some (n, f) =>
        if 48 ≤ (s.reqs.filter fun r => r.core == c && r.cls == 0).length then s.stall (suKey c) 1
        else s.issueFetch c n f

/-! Arrival of stream data. -/

/-- Mark the granules of ring bytes [b, b + n) void, keeping the first address of each. -/
def Stream.markVoid (x : Stream) (b n a : Nat) (w : Void) : Stream :=
  let gs := (List.range ((b + n - 1) / 4096 - b / 4096 + 1)).map fun i => b / 4096 + i
  { x with voids := x.voids ++ (gs.filter fun g => !x.voids.any fun v => v.1 == g).map fun g => (g, a, w) }

/-- Data bytes [b, b + n) of a ring have arrived: granules that are whole become valid, the last one padded with zeros
(R66, R190). -/
def State.ringArrived (s : State) (c n b l : Nat) : State :=
  let x := s.stream c n
  let y := { x with arrived := b + l }
  let done := if y.extent ≤ b + l then y.granules else (b + l) / 4096
  let gs := (List.range (done - b / 4096)).map fun i => (c, (x.ringOff ((b / 4096 + i) * 4096)) / 4096)
  let pad := if y.extent ≤ b + l ∧ y.extent % 4096 ≠ 0 then 4096 - y.extent % 4096 else 0
  let t := s.pokeBytes (poolAddr c (x.ringOff y.extent)) (if pad = 0 then [] else List.replicate pad (some 0))
  let t := (t.setStream c n y).setValids gs true
  let t := t.wr (Pg.core c) Reg.Core.DELIVERED [n] (t.rd (Pg.core c) Reg.Core.DELIVERED [n] + gs.length)
  t.showStream c n (if !y.ending.isEmpty then 3 else if y.exhausted then 2 else 1)

/-- Write arrived bytes into a ring from data byte `b`. -/
def State.ringWrite (s : State) (c n b : Nat) (bs : List Byte) : State :=
  let x := s.stream c n
  s.poke (bs.zipIdx.flatMap fun (v, j) => (s.physAll (poolAddr c (x.ringOff (b + j)))).map fun p => (p, v))

/-- A value of `w` bits packed from element bit patterns, the first lowest (R25). -/
def packElems (w : Nat) : List Nat → Nat
  | [] => 0
  | v :: r => v % 2 ^ w + 2 ^ w * packElems w r

/-- Panel bytes of group `g` from the source bytes read (R155). -/
def SwingDesc.panel (w : SwingDesc) (src : Nat → Byte) (g : Nat) : List Byte :=
  let f := fmtD w.fmt
  (List.range (32 / f.ko)).flatMap fun t =>
    natBytes f.sliceBytes (packElems f.bits ((List.range (64 * f.ko)).map fun e =>
      let l := e / f.ko
      if l ≤ w.lanes then
        elemAtBit src f.bits (8 * ((w.src + (32 * g + t * f.ko + e % f.ko) * w.rowstr) % 2 ^ 48) + l * f.bits)
      else 0))

/-- The scale line of group `g` of a Swing stream. -/
def SwingDesc.scaleLine (w : SwingDesc) (src : Nat → Byte) (g : Nat) : List Byte :=
  (List.range 64).map fun l => if l ≤ w.lanes then src ((w.ssrc + g * w.srowstr + l) % 2 ^ 48) else 0x7F

/-- A read of Swing group `g` has arrived; the last one emits the group into the ring. -/
def State.swingArrived (s : State) (c n g : Nat) (scale last : Bool) (r : Req) : State :=
  let x := s.stream c n
  let rows := ssetMany (fun _ => 0) x.rows (r.data.zipIdx.map fun (v, j) => ((r.addr + j) % 2 ^ 48, v))
  let x := { x with rows := rows }
  let x := match r.void with
    | some w =>
      if scale then { x with sVoid := x.sVoid.or (some (r.addr, w)) } else x.markVoid (g * x.gb) x.gb r.addr w
    | none => x
  if !last then s.setStream c n x
  else
    let src := fun a => sget (fun _ => 0) rows a
    let sc := if x.desc.scl then [(g, x.sw.scaleLine src g, x.sVoid)] else []
    let y := { x with rows := [], sVoid := none, scales := x.scales ++ sc }
    ((s.setStream c n y).ringWrite c n (g * x.gb) (x.sw.panel src g)).ringArrived c n (g * x.gb) x.gb

/-- Weight groups of a KIND 1 stream that are whole enter the queue; at most `fuel` of them. What stands for the bytes of a last
group beyond the extent is open. -/
def State.weightGroups (s : State) (c n : Nat) : Nat → State
  | 0 => s
  | fuel + 1 =>
    let x := s.stream c n
    let gb := x.gb
    let g := x.arrived / gb
    let last := x.extent ≤ (g + 1) * gb
    let need := if last then x.extent - g * gb else gb
    let sc := x.scales.find? fun e => e.1 == g
    if x.weights.length < need ∨ x.groups ≤ g ∨ (x.desc.scl ∧ sc.isNone) then s
    else
      let pad := (List.range (gb - need)).map Config.weightPad
      let v := ((x.voids.find? fun v => v.1 == g).map fun v => (v.2.1, v.2.2)).or (sc.bind fun e => e.2.2)
      let w : WGroup := ⟨n, x.desc.scl, x.weights.take need ++ pad, ((x.scaleLine g).getD 0 0).toNat, v⟩
      let y := { x with
        weights := x.weights.drop need
        arrived := (g + 1) * gb
        voids := x.voids.filter fun v => v.1 != g
        scales := x.scales.filter fun e => e.1 != g }
      let q := sget (fun _ => []) s.wqueue c
      let t := { s with wqueue := sset (fun _ => []) s.wqueue c (q ++ [w]) }
      let t := t.setStream c n y
      let t := t.wr (Pg.core c) Reg.Core.DELIVERED [n] (t.rd (Pg.core c) Reg.Core.DELIVERED [n] + 1)
      if last then (if !y.ending.isEmpty then t else t.endStream c n) else State.weightGroups t c n fuel

/-- Data of a stream request has arrived (R190, R191, R194). -/
def State.streamArrived (s : State) (c : Nat) (r : Req) : State :=
  match r.dest with
  | .ring n b =>
    let x := s.stream c n
    match r.void with
    | some w => (s.setStream c n (x.markVoid b r.len r.addr w)).ringArrived c n b r.len
    | none => (s.ringWrite c n b r.data).ringArrived c n b r.len
  | .scale n g =>
    let x := s.stream c n
    let a := (x.desc.ssrc + g * x.desc.sstr) % 2 ^ 48
    let bs := if x.desc.kind = 0 then r.data else (r.data.drop (a % 64)).take 1
    let t := s.setStream c n { x with scales := x.scales ++ [(g, bs, r.void.map fun w => (r.addr, w))] }
    if x.desc.kind = 0 then t else t.weightGroups c n 2
  | .weights n b =>
    let x := s.stream c n
    let gs := (List.range ((b + r.len - 1) / x.gb - b / x.gb + 1)).map fun i => b / x.gb + i
    let vs := match r.void with
      | some w => (gs.filter fun g => !x.voids.any fun v => v.1 == g).map fun g => (g, r.addr, w)
      | none => []
    let bs := if r.void.isSome then List.replicate r.len 0 else r.data
    let y := { x with weights := x.weights ++ bs, voids := x.voids ++ vs }
    (s.setStream c n y).weightGroups c n (r.len / x.gb + 2)
  | .swing n g sc last => s.swingArrived c n g sc last r
  | _ => s

end Sys2Proof.Machine
end

