-- ==== Sys2Proof/Machine/Sched.lean ====
section
/-! DEFINITION. Instruction fetch, fences, the slots of the time wheel and the completion of requests (R64, R68, R174, R178,
R182, R185, R252 to R262). -/

namespace Sys2Proof.Machine

/-! Errors of SST and LPDDR5X (R176, R182, R390). -/

/-- Enter a page into a device's corrected-error log (R390): newest first, at most 16. -/
def logPage (l : List (Nat × Nat × Bool)) (ppn : Nat) (ce : Nat) (ue : Bool) : List (Nat × Nat × Bool) :=
  let old := (l.find? fun e => e.1 == ppn).getD (ppn, 0, false)
  ((ppn, min 255 (old.2.1 + ce), old.2.2 || ue) :: l.filter fun e => e.1 != ppn).take 16

def State.logCe (s : State) (dev ppn ce : Nat) (ue : Bool) : State :=
  { s with cel := sset (fun _ => []) s.cel dev (logPage (sget (fun _ => []) s.cel dev) ppn ce ue) }

/-- A corrected LPDDR5X error is counted (R182, R390). -/
def State.lpCorrected (s : State) (a : Nat) (onDie : Bool) : State :=
  match s.lpPage a with
  | some (dev, ppn) =>
    let t := s.count (Pg.die (dev / 8)) (if onDie then Reg.Die.DIE_CE else Reg.Die.LINK_CE) [dev % 8] 1
    if onDie then t.logCe dev ppn 1 false else t
  | none => s

/-- An uncorrectable LPDDR5X error of an access at `a` (R182); `lone` of one that abandons no step. -/
def State.lpUncorrectable (s : State) (a pc : Nat) (onDie lone : Bool) : State :=
  match s.lpPage a with
  | some (dev, ppn) =>
    let p := Pg.die (dev / 8)
    let t := s.errReg p Reg.Die.ERR_184 Reg.Die.MULTI_184
      [(Reg.Die.KIND_184, bit onDie), (Reg.Die.DEV, dev % 8), (Reg.Die.PPN, ppn)]
    (if onDie then t.logCe dev ppn 0 true else t).raise ⟨p, 0x45, 12, 0, dev % 8, pc, a, none, lone⟩
  | none => s

/-- An SST parity error in line `line` of the block of `a`, or in its side word (R176). -/
def State.sstParity (s : State) (a pc line : Nat) (side lone : Bool) : State :=
  let o := blockOf a + 64 * line - sstBase
  let d := bits o 33 32
  let p := Pg.die d
  let t := s.errReg p Reg.Die.ERR_108 Reg.Die.MULTI_108
    [(Reg.Die.KIND_108, bit side), (Reg.Die.SDIE, bits o 12 12),
     (Reg.Die.PBANK, s.sstBank d (bits o 12 12) (bits o 11 6)), (Reg.Die.ROW, bits o 31 13)]
  t.raise ⟨p, 0x44, 12, 0, bits o 12 12, pc, a, none, lone⟩

/-- What an error of the memory that holds `a` makes of a state whose access is stopped; none where none strikes. -/
def State.memErrorAs (s : State) (a pc : Nat) (hw : HwErr) (lone : Bool) : Option State :=
  match hw with
  | .sst line side => if regionOf a = .sst then some (s.sstParity a pc line.val side lone) else none
  | .lpUncorrectable d => if regionOf a = .lpddr then some (s.lpUncorrectable a pc d lone) else none
  | _ => none

/-- An error that an access of a hub unit at `a` meets, recorded where it is found as a fault that abandons no step: `req` is the
pool's requester code, `eng` the unit's engine code. None where none strikes. -/
def State.loneError (s : State) (a req eng : Nat) (hw : HwErr) : Option State :=
  match hw with
  | .poolParity c b r y =>
    if regionOf a = .pool then some (s.poolParity c.val b r y req ⟨0, 0x40, eng, c.val % 8, 0, noPc, 0, none, true⟩) else none
  | .unit => some s
  | _ => s.memErrorAs a noPc hw true

/-- Such an error of an engine's request, which abandons the step. -/
def State.memError (s : State) (a pc : Nat) (hw : HwErr) : Option State := s.memErrorAs a pc hw false

/-- The corrected errors a step meets are counted and the step goes on. -/
def State.noteHw (s : State) (a : Nat) (hw : HwErr) : State :=
  match hw with
  | .lpCorrected d => if regionOf a = .lpddr then s.lpCorrected a d else s
  | _ => s

/-! Instruction fetch. -/

/-- The engines of a die in the fetch path's fixed order. -/
def engsOfDie (d : Nat) : List Nat :=
  ((List.range 256).map fun i => 256 * d + i) ++ (List.range 32).map fun i => 1024 + 32 * d + i

/-- Instructions of engine `k` that its input queue has room for, and the section still holds. -/
def Engine.room (e : Engine) : Nat := min (8 - e.queue.length) (e.len - (e.head + e.queue.length))

/-- Address of the next instruction that an engine fetches. -/
def Engine.fetchFrom (e : Engine) : Nat := e.base + 32 * (e.head + e.queue.length)

/-- Fetch instructions of an engine until its input queue holds 8 or the section ends. -/
def State.refill (s : State) (k : Nat) : State :=
  let e := s.engine k
  if e.room = 0 then s
  else
    let new := (List.range e.room).map fun i => BitVec.ofNat 256 (s.numAt (e.fetchFrom + 32 * i) 32)
    (s.setEngine k { e with queue := e.queue ++ new }).occupancy k

/-- Engines of a die that have a section. -/
def State.engsWith (s : State) (d : Nat) : List Nat := (engsOfDie d).filter fun k => (s.engine k).len != 0

/-- Fetch for the engines of a list in order; an error of the SST strikes the first that fetches, which receives nothing
(R176). -/
def State.fetchAll (s : State) (ks : List Nat) (hw : HwErr) : State :=
  match ks.find? fun k => (s.engine k).room != 0 with
  | none => s
  | some k =>
    let e := s.engine k
    match s.memError e.fetchFrom (e.head + e.queue.length) hw with
    | some t => (ks.filter fun x => x != k).foldl State.refill t
    | none => ks.foldl State.refill s

/-- INSTRUCTION_FETCH (R252): every input queue of the die is refilled from its section in the SST. -/
def execInstructionFetch (die : DieId) (s : State) (hw : HwErr := .none) : Host.Outcome State Fault Refusal :=
  .next (if s.frozen || s.hold.now.isSome || !(s.polder (s.polderOfDie die.val)).live then s
    else s.fetchAll (s.engsWith die.val) hw)

/-! Fences. -/

/-- The writer codes of R201 of an engine, whose in-flight instruction `id` writes. -/
def engWriter (k id : Nat) : Writer :=
  if k < 1024 then coreWriter (k / 4) id else ⟨(k - 1024) / 32, (k - 1024) / 4 % 8, 8 + k % 4, id⟩

/-- Every write of an in-flight instruction has been accepted or acknowledged, and no work is left (R64 stage 1). -/
def State.fenceReady (s : State) (x : Inflight) : Bool :=
  !x.busy && !x.failed && !(s.reqs.any fun r => r.owner == x.id) && !(s.stalled.any fun w => w.instr == x.id)

/-- Stages 2 to 4 of a fence: valid bits, posts, retirement. -/
def State.retire (s : State) (x : Inflight) : State :=
  let t := s.setValids x.claims true
  let t := x.posts.foldl (fun t p => t.post x.eng x.pc p.1 p.2) t
  { t with inflight := t.inflight.filter fun y => y.id != x.id }

/-- FENCE (R64): the oldest in-flight instruction of the engine whose writes are all accepted retires. -/
def execFence (eng : EngineId) (s : State) : Host.Outcome State Fault Refusal :=
  .next <|
    if s.frozen || s.hold.now.isSome then s
    else
      match s.inflight.find? fun x => x.eng == EngineId.key eng && s.fenceReady x with
      | some x => s.retire x
      | none => s

/-! Slot tables. -/

/-- A slot-table entry (R254). -/
structure SlotEntry where
  v   : Bool
  tgt : Nat
  own : Nat
  cls : Nat
  deriving DecidableEq, Repr

def slotEntry (e : Nat) : SlotEntry := ⟨bits e 0 0 = 1, bits e 3 1, bits e 7 4, bits e 9 8⟩

/-- Entry of slot `n` in a table that begins at offset `o` of page `p`. -/
def State.entryAt (s : State) (p o n : Nat) : SlotEntry :=
  slotEntry (bits (s.word p (o + 4 * (n / 2))).toNat (16 * (n % 2) + 15) (16 * (n % 2)))

/-- Page and offset of the OUT table of network port `p` of die `d`; its IN table follows 0x80 above (R260). -/
def portTable (d p : Nat) : Nat × Nat := if p < 8 then (Pg.clu (8 * d + p), 0x400) else (Pg.die d, 0x400 + 0x100 * (p - 8))

/-- OUT and IN entries of port `p` of die `d`, and of the hub's tables for the link to die `d`. -/
def State.outAt (s : State) (d p n : Nat) : SlotEntry := s.entryAt (portTable d p).1 (portTable d p).2 n
def State.inAt (s : State) (d p n : Nat) : SlotEntry := s.entryAt (portTable d p).1 ((portTable d p).2 + 0x80) n
def State.hubOutAt (s : State) (d n : Nat) : SlotEntry := s.entryAt Pg.dieLink (0x400 + 0x100 * d) n
def State.hubInAt (s : State) (d n : Nat) : SlotEntry := s.entryAt Pg.dieLink (0x480 + 0x100 * d) n

/-- Die and target (0 to 3) that serve a module address (R173, R177, R254). -/
def State.homeOf (s : State) (a : Nat) : Option (Nat × Nat) :=
  match regionOf a with
  | .lpddr => (s.lpPage a).map fun p => (p.1 / 8, 2 + p.1 % 8 / 4)
  | .sst => some (bits (a - sstBase) 33 32, bits (a - sstBase) 12 12)
  | _ => none

/-- The owner code of asynchronous traffic (R257). -/
def asyncOwn : Nat := 14

/-- The entry names the owner and, of a core, the class of a request (R254). -/
def SlotEntry.holds (e : SlotEntry) (r : Req) : Bool :=
  e.own == r.own.own && (8 ≤ r.own.port || 8 ≤ r.own.own || e.cls == r.cls)

/-- The core or cluster engine that makes a request, none for another unit. -/
def Req.engKey (r : Req) : Option Nat :=
  if r.eng < 4 then some (4 * r.core + r.eng) else if r.eng < 8 then some (1024 + 4 * (r.core / 8) + (r.eng - 4)) else none

/-- Target of a request as its own die's tables name it: 4 for another die. -/
def State.tgtOf (s : State) (r : Req) : Option Nat :=
  (s.homeOf r.addr).map fun h => if h.1 = r.own.die then h.2 else 4

/-- A request has come from another die to die `d` and target `tgt`. -/
def State.farAt (s : State) (r : Req) (d tgt : Nat) : Bool := r.own.die != d && s.homeOf r.addr == some (d, tgt)

/-- Time of the slot in force, in root-clock periods: 24 to a slot (R253). -/
def State.slotTime (s : State) : Nat := 24 * s.wheel.slots

def State.putReq (s : State) (r : Req) : State :=
  { s with reqs := s.reqs.map fun x => if x.id = r.id then r else x }

/-- Requests that a class holds at most (R67); class 4 stands for the hub's units and the decoders together (R7). -/
def classLimit (cls : Nat) : Nat := if cls = 4 then 16384 else 48

/-- The request is outstanding: among the oldest of its class that the limit admits (R7, R69). -/
def State.issued (s : State) (r : Req) : Bool :=
  ((s.reqs.filter fun x => x.cls == r.cls && (r.cls == 4 || x.core == r.core)).take (classLimit r.cls)).any
    fun x => x.id == r.id

/-- A class of a core holds all the requests it may. -/
def State.classFull (s : State) (c cls : Nat) : Bool := classLimit cls ≤ (s.ofClass c cls).length

/-- A fault of a request, in the page of its engine or queue (R256, R262, R335, R363). -/
def State.reqFault (s : State) (r : Req) (code addr : Nat) : State :=
  if r.eng < 4 then s.raise ⟨Pg.core r.core, code, r.eng, r.core % 8, 0, r.pc, addr, none, false⟩
  else if r.eng < 8 then s.raise ⟨Pg.clu (r.core / 8), code, r.eng, r.core % 8, 0, r.pc, addr, none, false⟩
  else if r.eng = 9 then s.queueFault Pg.workQ 9 r.pc r.core code addr
  else if r.eng = 11 then s.queueFault Pg.sluiceQ 11 r.pc r.core code addr
  else if r.eng = 10 then s.raise ⟨Pg.wharf, code, 10, 0, r.pc, noPc, addr, some (s.polderOfCore r.core), false⟩
  else s

/-! Traffic whose data its unit's command has moved (log entry 11). -/

/-- A request of a unit whose command has moved the data; `tag` numbers the piece of work. -/
def Req.madeBy (o : Owner) (core cls eng pc owner tag : Nat) (write : Bool) : Req :=
  ⟨0, core, cls, o, eng, pc, owner, write, 0, 0, false, [], .made tag, none, 0, false, 0, 0, 0, 0, [], 0⟩

/-- The request made of template `r` for `n` bytes at `a`; the hub's units stand at port 8 of the die that holds the address
(R313). -/
def State.madeAt (s : State) (r : Req) (id a n : Nat) : Req :=
  let o := if r.own.port = 8 then { r.own with die := ((s.homeOf a).map (·.1)).getD r.own.die } else r.own
  { r with id := id, own := o, addr := a, len := n, outs := outsOf r.write n, ins := bit !r.write }

/-- Split ranges of addresses into requests of template `r` (R68) and add them. -/
def State.traffic (s : State) (r : Req) (ranges : List (Nat × Nat)) : State :=
  let ps := (ranges.flatMap fun e => linePieces (e.2 / 4096 + 2) e.1 e.2).filter fun p => (s.phys p.1).isSome
  if ps.isEmpty then s
  else
    let t := { s with
      reqs := s.reqs ++ ps.zipIdx.map (fun (p, j) => s.madeAt r (s.ids + j) p.1 p.2)
      ids := s.ids + ps.length }
    if r.cls < 4 then t.showClass r.core r.cls else t

/-- Port 8 of a die gives asynchronous traffic a slot towards a target. -/
def State.hasAsync (s : State) (d tgt : Nat) : Bool :=
  (List.range 64).any fun n => let e := s.outAt d 8 n; e.v && e.own == asyncOwn && e.tgt == tgt

/-- Traffic that the program does not issue (R257): it takes the OWN 14 slots of port 8 of the die it reaches. Where that die's
table has none for the target, the access takes no slot (log entry 11). -/
def State.asyncTraffic (s : State) (write : Bool) (a n : Nat) : State :=
  match s.homeOf a with
  | some h => if s.hasAsync h.1 h.2 then s.traffic (Req.madeBy ⟨h.1, 8, asyncOwn⟩ 0 4 15 noPc 0 0 write) [(a, n)] else s
  | none => s

/-- Requests of an owner that have not completed. -/
def State.owes (s : State) (o : Owner) : Bool := s.reqs.any fun r => r.own == o

/-! Service at the target (R174, R178). -/

/-- NCLK of the slot in which an SRAM die takes an access to lines [lo, hi] of a block: the first in which no bank
conflicts. -/
def State.sstSlotFor (s : State) (die lo hi : Nat) : Nat :=
  ((List.range 64).find? fun n => !s.sstNow.any fun e => e.1 == die && e.2.1 == n && e.2.2.1 ≤ hi && lo ≤ e.2.2.2).getD 0

/-- Chunks of 256 bytes that `n` bytes at page offset `o` touch, with the lines of each. -/
def chunksOf (o n : Nat) : List (Nat × Nat) :=
  (List.range ((o + n - 1) / 256 - o / 256 + 1)).map fun i =>
    let c := o / 256 + i
    (c, (min (o + n) (256 * c + 256) - max o (256 * c) + 63) / 64)

/-- Serve the chunks of a command that reaches device `dev` at MCLK `t`: state, start of the first chunk and of the last,
and the MCLK after the last data. -/
def State.lpServe (s : State) (dev t o n : Nat) : State × Option Nat × Nat :=
  (chunksOf o n).foldl (fun a c =>
    let ch := 4 * dev + c.1 % 4
    let bk := 16 * ch + c.1 / 4 % 16
    let start := max t (max (sget (fun _ => 0) a.1.lpChan ch) (sget (fun _ => 0) a.1.lpBank bk))
    ({ a.1 with
        lpChan := sset (fun _ => 0) a.1.lpChan ch (start + 4 * c.2)
        lpBank := sset (fun _ => 0) a.1.lpBank bk (start + 40) },
      some (min (a.2.1.getD start) start), max a.2.2 (start + 4 * c.2))) (s, none, 0)

/-- Commands that wait in a controller group's queue at MCLK `t`. -/
def State.lpWaiting (s : State) (g t : Nat) : List Nat :=
  (sget (fun _ => []) s.lpQueue g).filter fun x => t < x

/-- A block of a request is moved whole. -/
def Req.whole (r : Req) : Bool := r.addr % 4096 == 0 && r.len == 4096

/-- The request's target reads memory: for a read, and to merge a write into a block with a check value (R184). -/
def Req.reads (r : Req) : Bool := !r.write || (r.cvm && !r.whole)

/-- Code of a request that a stale tag has stopped, beside the check outcomes of `Req.fail`. -/
def failStale : Nat := 9

/-- Data and check of a read at its target (R185, R202): a check of part of a block that fails is the controller's and is
recorded in the die page. A tag that is older than its landing makes a stream's granule void and stops an ordinary request
(R286). -/
def State.readAt (s : State) (r : Req) : State × Req :=
  let b := blockOf r.addr
  let r := { r with data := s.bytesAt r.addr r.len }
  let k := if r.cvm && isModMem r.addr then s.verify b else .ok
  let s := if k != .ok && !r.whole then s.recordCheck b k else s
  let r := { r with fail := match k with | .ok => 0 | .mismatch => 2 | .absent => 3 }
  if !s.staleTag r.addr then (s, r)
  else if r.owner = 0 then (s, { r with void := some .staleTag })
  else (((s.failInstr r.owner).noteStale 0x09 b).reqFault r 0x09 b, { r with fail := failStale })

/-- A write is performed at its target; a merge that fails its check stops its instruction (R184). -/
def State.writeAt (s : State) (r : Req) : State :=
  if r.bytes.isEmpty then s
  else
    let st := s.store ((coreWriter r.core r.owner).write r.addr r.bytes r.cvm)
    match st.2 with
    | some b => (if r.owner = 0 then st.1 else st.1.failInstr r.owner).reqFault r 0x46 b
    | none => st.1

/-- The data of a request moves at its target: done before where its command did so. -/
def State.moveData (s : State) (r : Req) : State :=
  match r.dest with
  | .made _ => s.putReq r
  | _ => if r.write then (s.putReq r).writeAt r else let q := s.readAt r; q.1.putReq q.2

/-- The last OUT transfer of a request reaches its target: a write is performed, a read is served, and the request's
completion time is fixed. -/
def State.serve (s : State) (r : Req) (home : Nat × Nat) : State :=
  let t := s.slotTime
  let base : State × Nat :=
    if home.2 < 2 then
      let die := 2 * home.1 + home.2
      let lo := r.addr % 4096 / 64
      let hi := lo + r.len / 64 - 1
      let n := s.sstSlotFor die lo hi
      ({ s with sstNow := s.sstNow ++ [(die, n, lo, hi)] }, t + 6 * (n + (if r.write then 12 else 20)))
    else
      match s.lpPage r.addr with
      | some (dev, _) =>
        let u := s.lpServe dev (t / 8) (r.addr % 2 ^ 21) r.len
        let g := dev / 4
        let q := (s.lpWaiting g (t / 8)) ++ u.2.1.toList
        ({ u.1 with lpQueue := sset (fun _ => []) u.1.lpQueue g q }, 8 * (u.2.2 + 8))
      | none => (s, t)
  base.1.moveData { r with ready := base.2, ins := if r.write then 0 else if home.1 = r.own.die then 1 else 3 }

/-- Commands a hub link's queue holds: those that die `d` sends out (`way` false), and those that have come to it (R256). -/
def State.linkQueue (s : State) (d : Nat) (way : Bool) : Nat :=
  (s.reqs.filter fun r => if way then 0 < r.far && (s.homeOf r.addr).map (·.1) == some d else 0 < r.hub && r.own.die == d).length

/-- A command meets a full command queue of a controller group of 32 (R256, R262). An SRAM die takes four commands in a slot at
most, and starts every one of them in the NCLK that follow: its queue of 8 never fills. -/
def State.queueFull (s : State) (r : Req) (tgt : Nat) : Bool :=
  if 2 ≤ tgt then
    match s.lpPage r.addr with
    | some (dev, _) => 32 ≤ (s.lpWaiting (dev / 4) (s.slotTime / 8)).length
    | none => false
  else false

/-- Transfers a target takes in one slot and direction (R256). -/
def capacity (tgt : Nat) : Nat := if tgt < 2 then 4 else if tgt = 4 then 2 else 1

/-! One slot. -/

/-- The transfers made of a request before. -/
def Req.gone (r : Req) : Nat := outsOf r.write r.len - (r.outs + r.hub + r.far)

/-- The oldest outstanding request with an OUT transfer to make that the entry of port `p` of die `d` is held for. -/
def State.headOut (s : State) (d p : Nat) (e : SlotEntry) : Option Req :=
  s.reqs.find? fun r => r.own.die == d && r.own.port == p && e.holds r && 0 < r.outs && s.issued r

/-- Some entry of a port's table names a request's owner and target. -/
def State.holdsSlot (s : State) (out : Bool) (r : Req) (tgt : Nat) : Bool :=
  (List.range 64).any fun n =>
    let e := if out then s.outAt r.own.die r.own.port n else s.inAt r.own.die r.own.port n
    e.v && e.own == r.own.own && e.tgt == tgt

/-- Reads that port `p` of die `d` has sent to a target and not yet received (R255). -/
def State.outstanding (s : State) (d p tgt : Nat) : Nat :=
  (s.reqs.filter fun r => !r.write && r.outs == 0 &&
    ((r.own.die == d && r.own.port == p && 0 < r.ins && s.tgtOf r == some tgt)
      || (p == 8 && r.hub == 0 && r.far == 0 && r.ins == 3 && s.farAt r d tgt))).length

/-- The request is at the head of its port: no older one of its owner and class has a transfer to make. -/
def State.atHead (s : State) (r : Req) : Bool :=
  s.issued r && !s.reqs.any fun x => x.id < r.id && x.own == r.own && x.cls == r.cls && 0 < x.outs

/-- Remove a request and its class slot; HIGH keeps what OUT was (R77). -/
def State.dropReq (s : State) (r : Req) : State :=
  let t : State := { s with reqs := s.reqs.filter fun x => x.id != r.id }
  if r.cls < 4 then t.showClass r.core r.cls else t

/-- A stopped request: its instruction does not complete, and is no longer in progress. -/
def State.stopReq (s : State) (r : Req) : State :=
  let t := s.dropReq r
  if r.owner = 0 then t
  else
    let u := match t.inflight.find? fun x => x.id == r.owner with
      | some x => t.dropJob x.eng
      | none => t
    u.failInstr r.owner

/-- Requests whose owner lacks a slot raise NO_SLOT when they reach the head of their port, and are stopped (R255). Asynchronous
traffic waits (R257), and a step that is to be abandoned raises no more of them. -/
def State.noSlots (s : State) : State :=
  s.reqs.foldl (fun t r =>
    if r.outs = 0 ∨ r.sent ∨ r.own.own = asyncOwn ∨ !t.atHead r ∨ !t.faultFree (t.polder (t.polderOfCore r.core)) then t
    else
      match t.tgtOf r with
      | some tgt =>
        if t.holdsSlot true r tgt && (r.write || t.holdsSlot false r tgt) then t else (t.stopReq r).reqFault r 0x0F r.addr
      | none => t) s

/-- A transfer at a target beyond its capacity: the first raises SLOT_COLLISION; asynchronous traffic waits (R256, R257).
`used` has one entry for each transfer taken or turned away. -/
def State.beyondCap (s : State) (r : Req) (tgt : Nat) (used : List Nat) : State × List Nat :=
  if r.own.own = asyncOwn then (s, used)
  else (if used.count tgt = capacity tgt then s.reqFault r 0x06 r.addr else s, tgt :: used)

/-- What a transfer adds to the count of its target: nothing when it is asynchronous. -/
def Req.uses (r : Req) (tgt : Nat) (used : List Nat) : List Nat := if r.own.own = asyncOwn then used else tgt :: used

/-- One OUT transfer of a request from port 0 to 10 of its die. -/
def State.outOwn (s : State) (r : Req) (e : SlotEntry) (used : List Nat) : State × List Nat :=
  let d := r.own.die
  if s.tgtOf r ≠ some e.tgt ∨ (!r.write && 8 ≤ s.outstanding d r.own.port e.tgt) then (s, used)
  else if capacity e.tgt ≤ used.count e.tgt then s.beyondCap r e.tgt used
  else if !r.sent && (if e.tgt = 4 then 32 ≤ s.linkQueue d false else s.queueFull r e.tgt) then
    (if r.own.own = asyncOwn then (s, used) else (s.reqFault r 0x07 r.addr, e.tgt :: used))
  else
    let q := { r with outs := r.outs - 1, sent := true, hub := r.hub + bit (e.tgt == 4) }
    let u := s.putReq q
    match s.homeOf r.addr with
    | some h => (if q.outs = 0 ∧ e.tgt ≠ 4 then u.serve q h else u, r.uses e.tgt used)
    | none => (u, r.uses e.tgt used)

/-- One OUT transfer, at port 8 of die `d`, of a request that has come over the hub link (R258). -/
def State.outFar (s : State) (d : Nat) (r : Req) (e : SlotEntry) (used : List Nat) : State × List Nat :=
  if !r.write && 8 ≤ s.outstanding d 8 e.tgt then (s, used)
  else if capacity e.tgt ≤ used.count e.tgt then s.beyondCap r e.tgt used
  else if r.gone = 0 && s.queueFull r e.tgt then (s.reqFault r 0x07 r.addr, e.tgt :: used)
  else
    let q := { r with far := r.far - 1 }
    (if q.far = 0 ∧ q.hub = 0 ∧ q.outs = 0 then (s.putReq q).serve q (d, e.tgt) else s.putReq q, e.tgt :: used)

/-- The OUT transfers of one die in the slot: ports ascending, each target up to its capacity. -/
def State.slotOuts (s : State) (d n : Nat) : State :=
  ((List.range 11).foldl (fun (a : State × List Nat) p =>
    let t := a.1
    let e := t.outAt d p n
    if !e.v then a
    else
      match t.headOut d p e with
      | some r => t.outOwn r e a.2
      | none =>
        match if p = 8 then t.reqs.find? fun r => 0 < r.far && t.farAt r d e.tgt && r.own.port == e.own else none with
        | some r => t.outFar d r e a.2
        | none => a) (s, [])).1

/-- The crossings of the hub towards die `d` in the slot (R258): the entry names the target on the die and the port of
the die the transfer comes from. A command that finds 32 waiting at the die's end of the link overflows (R262). -/
def State.hubOuts (s : State) (d n : Nat) : State :=
  let e := s.hubOutAt d n
  if !e.v then s
  else
    match s.reqs.find? fun r => 0 < r.hub && s.farAt r d e.tgt && r.own.port == e.own with
    | some r =>
      if r.gone = 0 ∧ r.far = 0 ∧ 32 ≤ s.linkQueue d true then s.reqFault r 0x07 r.addr
      else s.putReq { r with hub := r.hub - 1, far := r.far + 1 }
    | none => s

/-- Every OUT transfer of a read has reached its target, and its data is ready for the transfer back number `st`: 3 from a
target on another die to its link, 2 over the hub, 1 into the requesting port. -/
def State.readyIn (s : State) (r : Req) (st : Nat) : Bool :=
  r.outs == 0 && r.hub == 0 && r.far == 0 && r.ins == st && r.ready ≤ s.slotTime

/-- The crossings of the hub back from die `d` in the slot. -/
def State.hubIns (s : State) (d n : Nat) : State :=
  let e := s.hubInAt d n
  if !e.v then s
  else
    match s.reqs.find? fun r => s.readyIn r 2 && s.farAt r d e.tgt && r.own.port == e.own with
    | some r => s.putReq { r with ins := 1 }
    | none => s

/-- Where the delivery buffer passes a read's data on (R253): a core's arrival port, 8 + core for its weight queue, 16 for
crossbar port 13. -/
def Req.passTo (r : Req) : Nat :=
  match r.dest with
  | .weights _ _ => 8 + r.core % 8
  | .made _ | .swing _ _ _ _ => 16
  | _ => r.core % 8

/-- What a delivery buffer holds after a slot's 6 ACLK: 1,536 bytes leave to each destination, oldest first. -/
def drainBuffer (l : List Passing) : List Passing :=
  let r := l.foldl (fun (a : List Passing × List (Nat × Nat)) x =>
    let gone := ((a.2.filter fun e => e.1 == x.dest).map (·.2)).foldl (· + ·) 0
    let m := min x.left (1536 - gone)
    (a.1 ++ [{ x with left := x.left - m }], (x.dest, m) :: a.2)) ([], [])
  r.1.filter fun x => 0 < x.left

/-- Bytes in a delivery buffer. -/
def bufferBytes (l : List Passing) : Nat := l.foldl (fun a x => a + x.left) 0

/-- The IN transfers of one die in the slot (R253, R255, R258): read data enters a cluster's 16 KiB delivery buffer where that
had room for all of it at the start of the slot, or reaches a port that has no buffer, or at port 8 the link to the die
that asked for it. -/
def State.slotIns (s : State) (d n : Nat) : State :=
  ((List.range 11).foldl (fun (a : State × List Nat) p =>
    let held := sget (fun _ => []) a.1.delivery (8 * d + p)
    let room := 16384 - bufferBytes held
    let left := drainBuffer held
    let t := if p < 8 then { a.1 with delivery := sset (fun _ => []) a.1.delivery (8 * d + p) left } else a.1
    let e := t.inAt d p n
    if !e.v then (t, a.2)
    else
      let own := t.reqs.find? fun r =>
        t.readyIn r 1 && r.own.die == d && r.own.port == p && r.own.own == e.own && t.tgtOf r == some e.tgt
      let far := if p = 8 then t.reqs.find? fun r => t.readyIn r 3 && t.farAt r d e.tgt && r.own.port == e.own else none
      match own.or far with
      | none => (t, a.2)
      | some r =>
        if p < 8 ∧ room < r.len then (t, a.2)
        else if capacity e.tgt ≤ a.2.count e.tgt then t.beyondCap r e.tgt a.2
        else
          let q := { r with ins := r.ins - 1 }
          let u := if p < 8 then
              { t with delivery := sset (fun _ => []) t.delivery (8 * d + p) (left ++ [⟨r.id, r.passTo, r.len⟩]) }
            else t
          (u.putReq q, r.uses e.tgt a.2)) (s, [])).1

/-- Requests that reach no target behind the slot tables (a pool across the crossbar) are served at once. -/
def State.crossbar (s : State) : State :=
  s.reqs.foldl (fun t r =>
    if 0 < r.outs ∧ (t.tgtOf r).isNone ∧ t.issued r then
      t.moveData { r with outs := 0, ins := 0, sent := true, ready := t.slotTime }
    else t) s

/-- A request waits in a slot that has passed from state `s` to state `t`: outstanding with a transfer to make, or with data
ready, and where it was. -/
def State.waitedSlot (s t : State) (r : Req) : Bool :=
  s.issued r && (0 < r.outs || (0 < r.ins && r.ready ≤ s.slotTime && r.hub == 0 && r.far == 0)) &&
    t.reqs.any fun x => x.id == r.id && x.outs == r.outs && x.ins == r.ins

/-- Count the 6 ACLK of a slot for every engine of which a request waits for a slot, or finds its class full (R69, R255). -/
def State.countWaits (s t : State) : State :=
  let ks := (s.reqs.filterMap Req.engKey).eraseDups
  ks.foldl (fun u k =>
    let mine := s.reqs.filter fun r => r.engKey == some k
    if mine.any (s.waitedSlot t) then u.stallFor k 2 6
    else if mine.any fun r => !s.issued r then u.stallFor k 1 6 else u) t

/-- The data of a request has left its delivery buffer. -/
def State.passed (s : State) (r : Req) : Bool := !s.delivery.any fun e => e.2.any fun x => x.id == r.id

/-- Every transfer of the request has been made and its data or acknowledgement has come. -/
def State.arrivedReq (s : State) (r : Req) : Bool := r.moved && r.ready ≤ s.slotTime && s.passed r

/-- Requests without a class have nothing to complete in order: they end when they have arrived. -/
def State.endClassless (s : State) : State := { s with reqs := s.reqs.filter fun r => r.cls != 4 || !s.arrivedReq r }

/-- SLOT (R253): the wheels pass through one slot of 4 NCLK. They stand during a hold, a freeze and before the root PLL
locks. -/
def execSlot (s : State) : Host.Outcome State Fault Refusal :=
  .next <|
    if s.frozen || s.hold.now.isSome || !s.wheel.turns then s
    else
      let n := s.wheel.slots % 64
      let t := ({ s with sstNow := [] } : State).noSlots.crossbar
      let t := (List.range 4).foldl (fun t d => (t.slotIns d n).slotOuts d n) t
      let t := (List.range 4).foldl (fun t d => (t.hubIns d n).hubOuts d n) t
      let t := s.countWaits t
      ({ t with wheel := { t.wheel with slots := t.wheel.slots + 1 } } : State).endClassless

/-! Completion. -/

/-- A parity error in a layout engine's buffer (R169): recorded with KIND 4 and raised by the engine. -/
def State.layoutParity (s : State) (cl unit pos : Nat) (f : FaultRec) : State :=
  (s.errReg (Pg.clu cl) Reg.Clu.ERR Reg.Clu.MULTI
    [(Reg.Clu.UNIT, unit), (Reg.Clu.KIND, 4), (Reg.Clu.POS, pos)]).raise { f with code := 0x48 }

/-- Deliver a request whose transfers are made. -/
def State.deliver (s : State) (r : Req) : State :=
  let t := match r.dest with
    | .staging off => s.poke (r.data.zipIdx.flatMap fun (v, j) => (s.physAll (poolAddr r.core (off + j))).map fun p => (p, v))
    | .none | .made _ => s
    | _ => s.streamArrived r.core r
  let dead := r.void == some .unmapped || r.void == some .window
  let t := if dead then t.event (Pg.core r.core) 0x0B2 1 else t
  let t := t.dropReq r
  (List.range 8).foldl (fun t n => t.tryEnd r.core n) t

/-- Requester code of a pool parity error that a request meets (R77): the reader of another core's pool stands at the
crossbar. -/
def Req.poolReq (r : Req) : Nat := if regionOf r.addr = .pool ∨ 3 ≤ r.cls then 5 else if r.eng = 0 then 0 else if r.write then 3 else 2

/-- Program counter of a request's faults: a hub queue has none. -/
def Req.faultPc (r : Req) : Nat := if r.eng < 8 then r.pc else noPc

/-- What an error does to a request that would complete: none where it does not strike it. A write reads the staging lines in
its core's pool, and memory where it merges; the LPDDR5X links are covered in both directions (R54, R176, R182). -/
def State.reqError (s : State) (r : Req) (hw : HwErr) : Option State :=
  let f : FaultRec := ⟨Pg.core r.core, 0x40, r.eng, r.core % 8, 0, r.faultPc, r.addr, none, false⟩
  match hw with
  | .poolParity o b w y =>
    if r.write || regionOf r.addr == .pool then some ((s.stopReq r).poolParity o.val b w y r.poolReq f) else none
  | .layout pos =>
    match r.dest with
    | .swing _ _ _ _ => some ((s.stopReq r).layoutParity (r.core / 8) 0 pos f)
    | _ => none
  | .lpUncorrectable false => (s.stopReq r).memError r.addr r.faultPc hw
  | _ => if r.reads then (s.stopReq r).memError r.addr r.faultPc hw else none

/-- A request that was suppressed at issue was never sent. -/
def State.completeReq (s : State) (r : Req) (hw : HwErr) : State :=
  if r.fail = failStale then s.stopReq r
  else if !r.sent then s.deliver r
  else
    match s.reqError r hw with
    | some t => t
    | none =>
      let t := s.noteHw r.addr hw
      if r.fail ≠ 0 then (t.stopReq r).reqFault r 0x46 (blockOf r.addr) else t.deliver r

/-- REQUEST_COMPLETE (R68, R70): the oldest request of the class completes, in issue order, once its transfers are made;
not while a hold is in force (R71). -/
def execRequestComplete (core : CoreId) (cls : ClassId) (hw : HwErr) (s : State) : Host.Outcome State Fault Refusal :=
  .next <|
    match s.reqs.find? fun r => r.core == core.val && r.cls == cls.val with
    | none => s
    | some r => if s.frozen || s.hold.now.isSome || !s.arrivedReq r then s else s.completeReq r hw

/-- Completions that a hold has held back take effect as it ends, in issue order within each class (R71). -/
def State.heldComplete (s : State) : State :=
  s.reqs.foldl (fun t r =>
    match t.reqs.find? fun x => x.core == r.core && x.cls == r.cls with
    | some x => if r.cls < 4 ∧ x.id = r.id ∧ t.arrivedReq x then t.completeReq x .none else t
    | none => t) s

end Sys2Proof.Machine
end

