-- ==== Sys2Proof/Machine/Elementary.lean ====
section
/-! DEFINITION. The elementary functions of the VE, correctly rounded (R126). EXP2 and LOG2 work on 192 fractional bits and
carry a sticky bit (log entry 9). -/

namespace Sys2Proof.Machine

/-- ln 2 × 2^192, truncated. -/
def ln2 : Nat := 0xB17217F7D1CF79ABC9E3B39803F2F6AF40F343267298B62D

/-- Taylor terms of e^x on 192 fractional bits: `t` is the term of index `k - 1`. -/
def expTerms (x : Nat) : Nat → Nat → Nat → Nat
  | 0, _, _ => 0
  | f + 1, k, t => t + expTerms x f (k + 1) (t * x / 2 ^ 192 / k)

/-- 2^(f / 2^192) × 2^192 for a fraction f. -/
def exp2Frac (f : Nat) : Nat := expTerms (f * ln2 / 2 ^ 192) 56 1 (2 ^ 192)

/-- Terms z^(2k+1) / (2k+1) on 192 fractional bits. -/
def atanhTerms (z2 : Nat) : Nat → Nat → Nat → Nat
  | 0, _, _ => 0
  | f + 1, k, t => t / k + atanhTerms z2 f (k + 2) (t * z2 / 2 ^ 192)

/-- log2(m / 2^l) × 2^192 for 2^l < m < 2^(l+1). -/
def log2Frac (m l : Nat) : Nat :=
  let z := (m - 2 ^ l) * 2 ^ 192 / (m + 2 ^ l)
  2 * atanhTerms (z * z / 2 ^ 192) 72 1 z * 2 ^ 192 / ln2

/-- ⌊√n⌋ for n < 4^b. -/
def isqrt (n : Nat) : Nat → Nat → Nat
  | 0, r => r
  | b + 1, r => isqrt n b (if (r + 2 ^ b) * (r + 2 ^ b) ≤ n then r + 2 ^ b else r)

/-- The functions of R117's class FN. -/
inductive FnOp where
  | exp2 | log2 | rcp | rsqrt | sqrt
  deriving DecidableEq, Repr

/-- 2^A. -/
def exp2Val : FVal → FVal
  | .nan => .nan
  | .inf true => .fin false 0 0
  | .inf false => .inf false
  | .fin n m e =>
    if m = 0 then .one
    else if (8 : Int) ≤ (Nat.log2 m : Int) + e then .fin false 1 (if n then -200 else 200)
    else if (Nat.log2 m : Int) + e < -25 then .one
    else if 0 ≤ e then
      let k : Int := m * 2 ^ e.toNat
      .fin false 1 (if n then -k else k)
    else
      let d : Nat := 2 ^ (-e).toNat
      let i : Int := if n then -(m : Int) else m
      let k : Int := i / (d : Int)
      let f := (i % (d : Int)).toNat
      if f = 0 then .fin false 1 k
      else .fin false (2 * exp2Frac (f * 2 ^ 192 / d) + 1) (k - 193)

/-- log2 A. -/
def log2Val : FVal → FVal
  | .nan => .nan
  | .inf true => .nan
  | .inf false => .inf false
  | .fin n m e =>
    if m = 0 then .inf true
    else if n then .nan
    else
      let l := Nat.log2 m
      let k : Int := e + l
      if m = 2 ^ l then .ofInt k 0
      else .ofInt (2 * (k * 2 ^ 192 + log2Frac m l) + 1) (-193)

/-- 1 / A. -/
def rcpVal : FVal → FVal
  | .nan => .nan
  | .inf n => .fin n 0 0
  | .fin n m e =>
    if m = 0 then .inf n
    else
      let k : Nat := 64 + Nat.log2 m
      .fin n (2 * (2 ^ k / m) + (if 2 ^ k % m = 0 then 0 else 1)) (-e - k - 1)

/-- √A. -/
def sqrtVal : FVal → FVal
  | .nan => .nan
  | .inf n => if n then .nan else .inf false
  | .fin n m e =>
    if m = 0 then .fin n 0 0
    else if n then .nan
    else
      let k : Nat := if e % 2 = 0 then 80 else 81
      let r := isqrt (m * 2 ^ k) 120 0
      .fin false (2 * r + (if r * r = m * 2 ^ k then 0 else 1)) ((e - k) / 2 - 1)

/-- 1 / √A. -/
def rsqrtVal : FVal → FVal
  | .nan => .nan
  | .inf n => if n then .nan else .fin false 0 0
  | .fin n m e =>
    if m = 0 then .inf n
    else if n then .nan
    else
      let k : Nat := 130 + Nat.log2 m
      let k : Nat := if (e + k) % 2 = 0 then k else k + 1
      let r := isqrt (2 ^ k / m) 120 0
      .fin false (2 * r + (if r * r * m = 2 ^ k then 0 else 1)) ((-e - k) / 2 - 1)

def FnOp.val : FnOp → FVal → FVal
  | .exp2 => exp2Val
  | .log2 => log2Val
  | .rcp => rcpVal
  | .rsqrt => rsqrtVal
  | .sqrt => sqrtVal

/-- A rounded result with the events of R127: INVALID for a NaN from inputs that are none, OVERFLOW for a finite exact
value that rounds to ∞. -/
def roundVe (anyNan : Bool) (v : FVal) : Word × FpEvents :=
  let r := Fmt.encode .fp32 .rne false v
  (BitVec.ofNat 32 r.1, ⟨if v.isNan && !anyNan then 1 else 0, r.2.overflow, 0⟩)

/-- The result of a class FN operation on one element. -/
def fnOp (o : FnOp) (a : Word) : Word × FpEvents := roundVe (f32 a).isNan (o.val (f32 a))

/-! Elementwise operations (R124, R125). -/

inductive EwOp where
  | add | sub | mul | fma | max | min | abs | neg | mov
  deriving DecidableEq, Repr

inductive CmpOp where
  | lt | le | eq | ne
  deriving DecidableEq, Repr

/-- The canonical NaN of FP32 (R20). -/
def nan32 : Word := 0x7FC00000
def one32 : Word := 0x3F800000

/-- A word that is no NaN as it stands, else the canonical NaN. -/
def canon (a : Word) : Word := if (f32 a).isNan then nan32 else a

/-- MAX or MIN of R124: −0 orders below +0. -/
def maxMin (isMax : Bool) (a b : Word) : Word :=
  let x := f32 a
  let y := f32 b
  if x.isNan || y.isNan then nan32
  else if x.lt y then (if isMax then b else a)
  else if y.lt x then (if isMax then a else b)
  else if a.getLsbD 31 == isMax then b else a

/-- An EW operation on one element. -/
def ewOp (o : EwOp) (a b c : Word) : Word × FpEvents :=
  let x := f32 a
  let y := f32 b
  let z := f32 c
  match o with
  | .add => roundVe (x.isNan || y.isNan) (x.add y)
  | .sub => roundVe (x.isNan || y.isNan) (x.add y.neg)
  | .mul => roundVe (x.isNan || y.isNan) (x.mul y)
  | .fma => roundVe (x.isNan || y.isNan || z.isNan) ((x.mul y).add z)
  | .max => (maxMin true a b, FpEvents.none)
  | .min => (maxMin false a b, FpEvents.none)
  | .abs => (if x.isNan then nan32 else a &&& 0x7FFFFFFF, FpEvents.none)
  | .neg => (if x.isNan then nan32 else a ^^^ 0x80000000, FpEvents.none)
  | .mov => (canon a, FpEvents.none)

/-- A CMP operation on one element (R125). -/
def cmpOp (o : CmpOp) (a b : Word) : Word :=
  let x := f32 a
  let y := f32 b
  let t := match o with
    | .lt => x.lt y
    | .le => x.lt y || x.same y
    | .eq => x.same y
    | .ne => !x.same y
  if t then one32 else 0

/-- SEL on one element (R125). -/
def selOp (a b c : Word) : Word := if (f32 a).isZero then canon c else canon b

/-! Reductions (R128). -/

inductive RedOp where
  | sum | max | min
  deriving DecidableEq, Repr

def RedOp.identity : RedOp → Word
  | .sum => 0x80000000
  | .max => 0xFF800000
  | .min => 0x7F800000

def RedOp.op : RedOp → Word → Word → Word × FpEvents
  | .sum, a, b => ewOp .add a b 0
  | .max, a, b => ewOp .max a b 0
  | .min, a, b => ewOp .min a b 0

/-- One level of the tree: the first half combined with the second. -/
def redLevel (o : RedOp) (l : List Word) : List Word × FpEvents :=
  let h := l.length / 2
  let r := List.zipWith o.op (l.take h) (l.drop h)
  (r.map (·.1), r.foldl (fun e x => e.add x.2) FpEvents.none)

/-- The tree of R128 over at most `2^f` slots. -/
def redTree (o : RedOp) : Nat → List Word → Word × FpEvents
  | 0, l => (canon (l.getD 0 0), FpEvents.none)
  | f + 1, l =>
    let r := redLevel o l
    let t := redTree o f r.1
    (t.1, r.2.add t.2)

/-- A line of 64 slots, those from `len` onwards holding the identity. -/
def redLine (o : RedOp) (len : Nat) (v : Nat → Word) : Word × FpEvents :=
  redTree o 6 ((List.range 64).map fun i => if i < len then v i else o.identity)

end Sys2Proof.Machine
end

