-- ==== Sys2Proof/Machine/Mvp.lean ====
section
/-! DEFINITION. The matrix-vector path: VLOAD and PASS (R107 to R112). -/

namespace Sys2Proof.Machine

/-- Engine number of a core's MVP. -/
def mvpKey (c : Nat) : Nat := 4 * c + 1

/-! Instruction fields (R111). -/

def mvOpc (i : BitVec 256) : Nat := iw i 0 3 0
def mvFmtW (i : BitVec 256) : Nat := iw i 0 7 4
def mvFmtV (i : BitVec 256) : Nat := iw i 0 11 8
def mvMxW (i : BitVec 256) : Bool := iw i 0 12 12 = 1
def mvMxV (i : BitVec 256) : Bool := iw i 0 13 13 = 1
/-- Number of vectors. -/
def mvNv (i : BitVec 256) : Nat := iw i 0 15 14 + 1
def mvAccin (i : BitVec 256) : Bool := iw i 0 16 16 = 1
/-- Pool offset of vector or output row `v`. -/
def mvRow (i : BitVec 256) (v : Nat) : Nat := iw i 3 16 0 * 64 + v * iw i 4 16 0 * 64
def mvKg (i : BitVec 256) : Nat := iw i 5 10 0
/-- Columns of a pass. -/
def mvNcol (i : BitVec 256) : Nat := iw i 6 16 0 + 1
def mvStream (i : BitVec 256) : Nat := iw i 7 2 0

/-- Bytes of a group of 32 packed elements. -/
def packBytes (f : Fmt) : Nat := 4 * f.bits

/-- KG fits the vector buffer (R109). -/
def mvKgOk (i : BitVec 256) : Bool := 1 ≤ mvKg i && mvKg i * packBytes (fmtD (mvFmtV i)) ≤ 16384

/-- An MVP instruction that is not malformed: no reserved bit or code, of fields it uses or not (R16, R109, R111). -/
def mvOk (i : BitVec 256) : Bool :=
  coreTokOk i && iw i 0 31 17 == 0 && iw i 3 31 17 == 0 && iw i 4 31 17 == 0 && iw i 5 31 11 == 0 && iw i 6 31 17 == 0
    && iw i 7 31 3 == 0 && (fmtOf (mvFmtW i)).isSome && operandOk (mvFmtV i) (mvMxV i) && mvKgOk i
    && (if mvOpc i = 1 then true
        else mvOpc i == 2 && operandOk (mvFmtW i) (mvMxW i) && pairable (fmtD (mvFmtW i)) (fmtD (mvFmtV i)))

/-- Judge the head MVP instruction once its tokens are present. -/
def State.mvJudge (s : State) (c : Nat) (i : BitVec 256) (pc : Nat) : Ready :=
  if (s.job (mvpKey c)).isSome then .wait 0
  else if !mvOk i then .fault 0x01 (s.fetchAddr (mvpKey c) pc)
  else .go

/-- The ME of the core fires before its MVP (R63). -/
def State.mvCheck (s : State) (c : Nat) (i : BitVec 256) (pc : Nat) : Ready :=
  (s.mvJudge c i pc).behind (s.meFires c) (waitsOf (mvpKey c) i)

/-- The token counters after the ME and the MVP of core `c` have fired, those that fire now. -/
def State.mvFires (s : State) (c : Nat) : State := (s.meFires c).firstTake (mvpKey c) fun s i pc => s.mvJudge c i pc

/-- Index of byte `b` of vector `v` in the vector buffer: 16 KiB of elements, then 1 KiB of scales (R109). -/
def State.mvBuf (s : State) (c v b : Nat) : Nat := ((c / 8) * 9 + s.physCore c) * 2 ^ 17 + v * 17408 + b

/-- Pool bytes that a VLOAD reads for vector `v`: elements, then scales at the next 64-byte boundary. -/
def mvElemBytes (i : BitVec 256) : Nat := mvKg i * packBytes (fmtD (mvFmtV i))
def mvScaleOff (i : BitVec 256) (v : Nat) : Nat := mvRow i v + ceilDiv (mvElemBytes i) 64 * 64

/-- The reads of a VLOAD, as (pool offset, bytes), in order. -/
def mvReads (i : BitVec 256) : List (Nat × Nat) :=
  (List.range (mvNv i)).flatMap fun v =>
    (mvRow i v, mvElemBytes i) :: (if mvMxV i then [(mvScaleOff i v, mvKg i)] else [])

/-- A VLOAD reads its vectors, or waits for a ring granule that has not arrived (R66). -/
def State.vloadRun (s : State) (c : Nat) (hw : HwErr) (j : Job) : State :=
  let k := mvpKey c
  let i := j.instr
  let t := s.dropJob k
  let stop : Option Stop := (mvReads i).findSome? fun (o, n) => (linesOf (poolAddr c o) n).findSome? fun a => t.poolStop c a
  match hw, stop with
  | .poolParity o b w y, _ => (t.failInstr j.id).poolParity o.val b w y 1 (engFault k j.pc 0x40 0)
  | _, some (.fault code a) => (t.noteStale code a).stopInstr k j.id (t.readFault k j.pc code a)
  | _, some .wait => (t.setJob k j).stall k 0
  | _, none =>
    let us := (List.range (mvNv i)).flatMap fun v =>
      ((List.range (mvElemBytes i)).map fun b => (t.mvBuf c v b, t.byteAt (poolAddr c (mvRow i v) + b)))
        ++ (if mvMxV i then
              (List.range (mvKg i)).map fun g => (t.mvBuf c v (16384 + g), t.byteAt (poolAddr c (mvScaleOff i v) + g))
            else [])
    ({ t with mvpBuf := ssetMany (fun _ => 0) t.mvpBuf us }).finish j.id

/-- A VLOAD fires. -/
def State.vloadGo (s : State) (c : Nat) (hw : HwErr) (i : BitVec 256) (pc : Nat) : State :=
  let r := s.fire (mvpKey c) i [] true
  r.1.vloadRun c hw ⟨i, pc, r.2, 0, 0, 0, [], false⟩

/-- VLOAD (R109): the VLOAD in progress continues, or the MVP fills its vector buffer from the pool. -/
def execVload (core : CoreId) (hw : HwErr) (s : State) : Host.Outcome State Fault Refusal :=
  let c := core.val
  .next <|
    match s.job (mvpKey c) with
    | some j =>
      if mvOpc j.instr = 2 then s else if s.canRun (mvpKey c) then s.vloadRun c hw j else s.stall (mvpKey c) 0
    | none => s.tryFire (mvpKey c) (fun i => mvOpc i != 2) (fun s i pc => s.mvCheck c i pc) (fun _ => 0)
        (fun s i pc => s.vloadGo c hw i pc)

/-! PASS. -/

/-- The 32 values of group `g` of vector `v` and their scale. -/
def State.mvVector (s : State) (c : Nat) (i : BitVec 256) (v g : Nat) : List FVal × Nat :=
  let f := fmtD (mvFmtV i)
  let byte := fun b => sget (fun _ => 0) s.mvpBuf (s.mvBuf c v (g * packBytes f + b))
  ((List.range 32).map fun j => f.decode (elemAtBit byte f.bits (j * f.bits)),
    if mvMxV i then (sget (fun _ => 0) s.mvpBuf (s.mvBuf c v (16384 + g))).toNat else 127)

/-- The 32 values of a weight group and their scale. The group is read by the PASS's FMTW: where the stream was cut by another
format, bytes that it lacks read as zero (the spec names no outcome; log entry 57). -/
def mvWeights (i : BitVec 256) (w : WGroup) : List FVal × Nat :=
  let f := fmtD (mvFmtW i)
  ((List.range 32).map fun j => f.decode (elemAtBit (fun b => w.elems.getD b 0) f.bits (j * f.bits)),
    if mvMxW i then w.scale else 127)

/-- Weight groups that wait in a core's queue for a stream, oldest first. -/
def State.wgroups (s : State) (c n : Nat) : List WGroup :=
  (sget (fun _ => []) s.wqueue c).filter fun w => w.stream == n

/-- Take the oldest `m` groups of stream `n` from a core's weight queue. -/
def dropGroups (n : Nat) : Nat → List WGroup → List WGroup
  | 0, l => l
  | _, [] => []
  | m + 1, w :: r => if w.stream = n then dropGroups n m r else w :: dropGroups n (m + 1) r

def State.takeGroups (s : State) (c n m : Nat) : State :=
  { s with wqueue := sset (fun _ => []) s.wqueue c (dropGroups n m (sget (fun _ => []) s.wqueue c)) }

/-- y[v][n] for one column's weight groups from a starting value (R33, R107). INVALID counts as in `State.meGroup`. -/
def State.mvColumn (s : State) (c : Nat) (i : BitVec 256) (ws : List WGroup) (v : Nat) (start : Word) :
    Word × FpEvents :=
  let l := groupWeight (fmtD (mvFmtW i)) (fmtD (mvFmtV i))
  ws.zipIdx.foldl (fun a e =>
    let x := s.mvVector c i v e.2
    let w := mvWeights i e.1
    let sum := groupSum l x.1 w.1 x.2 w.2
    let nan := sum.isNan && x.2 != 0xFF && w.2 != 0xFF && !x.1.any FVal.isNan && !w.1.any FVal.isNan
    let r := accumulate a.1 sum
    (r.1, (a.2.add r.2).add ⟨bit nan, 0, 0⟩)) (start, FpEvents.none)

/-- The first line of column `n`'s outputs that lies outside the core's populated pool (R112). -/
def passOutside (c : Nat) (i : BitVec 256) (n : Nat) : Option Nat :=
  (List.range (mvNv i)).findSome? fun v =>
    let a := poolAddr c (mvRow i v + 4 * n)
    if poolAddr c poolSize ≤ a then some (a / 64 * 64) else none

/-- Write the columns that the output buffer `buf` holds, the last of them column `n` − 1, line by line for each vector: the
state and the first line outside the pool (R110, R112). -/
def State.passFlush (s : State) (c id : Nat) (i : BitVec 256) (n : Nat) (buf : List Byte) : State × Option Nat :=
  let cols := chunks (4 * mvNv i) buf.length buf
  (List.range (mvNv i)).foldl (fun (r : State × Option Nat) v =>
    let a := poolAddr c (mvRow i v + 4 * (n - cols.length))
    if r.2.isSome then r
    else if poolAddr c poolSize ≤ a then (r.1, some (a / 64 * 64))
    else
      let bs := cols.flatMap fun y => (y.drop (4 * v)).take 4
      ((r.1.store ((coreWriter c id).write a (bs.map some) false)).1, none)) (s, none)

/-- Run the columns of a PASS from column `n` on (R107, R110): results leave the output buffer when a 64-byte line's 16 columns
are complete. With ACCIN the old value is read whatever its valid bit, which the PASS's own claim has cleared, and a PASS
whose stream is not armed and has delivered too few groups waits: no rule says otherwise (log entry 57). -/
def State.passRun (s : State) (c : Nat) (j : Job) : Nat → Nat → State
  | 0, _ => s
  | fuel + 1, n =>
    let k := mvpKey c
    let i := j.instr
    if mvNcol i ≤ n then (s.dropJob k).finish j.id
    else if s.heldBack k then (s.setJob k { j with next := n }).stall k 7
    else
      let ws := (s.wgroups c (mvStream i)).take (mvKg i)
      match (ws.findSome? (·.void)) with
      | some (a, w) =>
        (s.noteStale w.code a).stopInstr k j.id { engFault k j.pc w.code a with unit := mvStream i }
      | none =>
        if ws.length < mvKg i then (s.setJob k { j with next := n }).stall k 0
        else
          match if mvAccin i then passOutside c i n else none with
          | some a => s.stopInstr k j.id (engFault k j.pc 0x02 a)
          | none =>
            let ys := (List.range (mvNv i)).map fun v =>
              s.mvColumn c i ws v (if mvAccin i then BitVec.ofNat 32 (s.numAt (poolAddr c (mvRow i v + 4 * n)) 4) else 0)
            let ev := ys.foldl (fun e y => e.add y.2) FpEvents.none
            let buf := j.desc ++ ys.flatMap fun y => natBytes 4 y.1.toNat
            let t := (s.event (Pg.core c) 0x0A4 ev.invalid).event (Pg.core c) 0x0A5 ev.overflow
            let t := t.takeGroups c (mvStream i) (mvKg i)
            if (n + 1) % 16 = 0 ∨ n + 1 = mvNcol i then
              let r := t.passFlush c j.id i (n + 1) buf
              match r.2 with
              | some a => r.1.stopInstr k j.id (engFault k j.pc 0x02 a)
              | none => State.passRun r.1 c { j with desc := [] } fuel (n + 1)
            else State.passRun t c { j with desc := buf } fuel (n + 1)

/-- Granules of a PASS's output rows. -/
def mvClaims (c : Nat) (i : BitVec 256) : List (Nat × Nat) :=
  granulesOf ((List.range (mvNv i)).flatMap fun v =>
    (List.range ((mvRow i v + 4 * mvNcol i - 1) / 4096 - mvRow i v / 4096 + 1)).map fun g =>
      poolAddr c ((mvRow i v / 4096 + g) * 4096))

/-- A PASS fires. -/
def State.passGo (s : State) (c : Nat) (hw : HwErr) (i : BitVec 256) (pc : Nat) : State :=
  let k := mvpKey c
  let r := s.fire k i ((mvClaims c i).filter fun g => g.1 == c) true
  match hw with
  | .poolParity o b w y => (r.1.failInstr r.2).poolParity o.val b w y 1 (engFault k pc 0x40 0)
  | _ => r.1.passRun c ⟨i, pc, r.2, 0, 0, 0, [], false⟩ (mvNcol i + 1) 0

/-- PASS (R107): the PASS in progress continues, or the PASS at the head of the MVP's queue fires. -/
def execPass (core : CoreId) (hw : HwErr) (s : State) : Host.Outcome State Fault Refusal :=
  let c := core.val
  .next <|
    match s.job (mvpKey c) with
    | some j =>
      if mvOpc j.instr ≠ 2 then s
      else if s.canRun (mvpKey c) then s.passRun c j (mvNcol j.instr + 1 - j.next) j.next else s.stall (mvpKey c) 0
    | none => s.tryFire (mvpKey c) (fun i => mvOpc i == 2) (fun s i pc => s.mvCheck c i pc) (fun _ => 0)
        (fun s i pc => s.passGo c hw i pc)

end Sys2Proof.Machine
end

