-- ==== Sys2Proof/Machine/Ve.lean ====
section
/-! DEFINITION. The vector engine: loads, stores, elementwise operations, elementary functions, reductions, compares and
selects (R114 to R139). -/

namespace Sys2Proof.Machine

/-- Engine number of a core's VE. -/
def veKey (c : Nat) : Nat := 4 * c + 2

/-! Instruction fields (R116). -/

def veOpc (i : BitVec 256) : Nat := iw i 0 3 0
def veFunc (i : BitVec 256) : Nat := iw i 0 7 4
def veDst (i : BitVec 256) : Nat := iw i 0 11 8
def veDidx (i : BitVec 256) : Nat := iw i 0 17 12
def veAxis (i : BitVec 256) : Nat := iw i 0 18 18
def veRacc (i : BitVec 256) : Bool := iw i 0 19 19 = 1
def veNr (i : BitVec 256) : Nat := iw i 0 25 20
def veA (i : BitVec 256) : VeOperand := veOperand (iw i 3 15 0)
def veB (i : BitVec 256) : VeOperand := veOperand (iw i 3 31 16)
def veC (i : BitVec 256) : VeOperand := veOperand (iw i 4 15 0)
/-- Pool offset of the descriptor. -/
def veDesc (i : BitVec 256) : Nat := iw i 4 30 16 * 256
def veImm (i : BitVec 256) (n : Nat) : Word := BitVec.ofNat 32 (iw i (5 + n) 31 0)

/-- Operands an operation of a class uses: 0 for a reserved class or FUNC marked none. -/
def veUses (opc func : Nat) : Option Nat :=
  match opc with
  | 1 | 2 => if func = 0 then some 0 else none
  | 3 =>
    match func with
    | 0 | 1 | 2 | 4 | 5 => some 2
    | 3 => some 3
    | 6 | 7 | 8 => some 1
    | _ => none
  | 4 => if func ≤ 4 then some 1 else none
  | 5 => if func ≤ 2 then some 1 else none
  | 6 => if func ≤ 3 then some 2 else none
  | 7 => if func = 0 then some 3 else none
  | _ => none

/-- A VE instruction whose own fields R119 does not make malformed. -/
def veFieldsOk (i : BitVec 256) : Bool :=
  match veUses (veOpc i) (veFunc i) with
  | none => false
  | some n =>
    let sa := iw i 3 15 0
    let sb := iw i 3 31 16
    let sc := iw i 4 15 0
    coreTokOk i && iw i 0 31 26 == 0 && iw i 4 31 31 == 0 && iw i 7 31 0 == 0
      && (if 1 ≤ n then veOperandOk sa else sa == 0) && (if 2 ≤ n then veOperandOk sb else sb == 0)
      && (if 3 ≤ n then veOperandOk sc else sc == 0)
      && (if veOpc i = 5 then (veA i).mode == 0 else true)

/-- Judge the head VE instruction once its tokens are present (R62, R119, R133). -/
def State.veJudge (s : State) (c : Nat) (i : BitVec 256) (pc : Nat) : Ready :=
  if (s.job (veKey c)).isSome then .wait 0
  else if !veFieldsOk i then .fault 0x01 (s.fetchAddr (veKey c) pc)
  else if veOpc i = 1 || veOpc i = 2 then
    match s.checkDesc c (veDesc i) (veOpc i == 1) with
    | some x => x.ready
    | none => .go
  else .go

/-- The ME and the MVP of the core fire before its VE (R63). -/
def State.veCheck (s : State) (c : Nat) (i : BitVec 256) (pc : Nat) : Ready :=
  (s.veJudge c i pc).behind (s.mvFires c) (waitsOf (veKey c) i)

/-- The token counters after the engines of core `c` have fired, those that fire now (R63). -/
def State.veFires (s : State) (c : Nat) : State := (s.mvFires c).firstTake (veKey c) fun s i pc => s.veJudge c i pc

/-- Errors the VE detects (R138), of which the lowest is recorded, or a pool parity error of its access: requester `req`. -/
def State.veError (s : State) (c id pc req : Nat) (hw : HwErr) : State :=
  let k := veKey c
  match hw with
  | .ve kind places =>
    let at_ := lowest (places.map fun e => 16384 * e.1 + 256 * e.2.1 + e.2.2)
    let t := s.errReg (Pg.core c) Reg.Core.ERR_384 Reg.Core.MULTI_384
      [(Reg.Core.KIND_384, kind), (Reg.Core.TILE, at_ / 16384), (Reg.Core.ROW_384, at_ / 256 % 64),
       (Reg.Core.BYTE_384, at_ % 256)]
    let t := if 1 < places.length then t.wr (Pg.core c) Reg.Core.MULTI_384 [] 1 else t
    (t.countWear c Reg.Clu.VEPAR).stopInstr k id (engFault k pc 0x43 0)
  | .poolParity o b r y => ((s.dropJob k).failInstr id).poolParity o.val b r y req (engFault k pc 0x40 0)
  | _ => s

/-- Whether an error strikes an instruction that touches the pool (`mem`) or only the VE. -/
def veStruck (hw : HwErr) (mem : Bool) : Bool :=
  match hw with
  | .ve _ _ => true
  | .poolParity _ _ _ _ => mem
  | _ => false

/-- Fire a VE instruction of the class and function given, with effect `go` on the state after firing, the in-flight
identifier, the instruction and its index. -/
def State.veFire (s : State) (c : Nat) (want : BitVec 256 → Bool) (go : State → BitVec 256 → Nat → State) : State :=
  s.tryFire (veKey c) want (fun s i pc => s.veCheck c i pc) (fun _ => 0) go

/-- The head is operation `func` of class `opc`. -/
def veIs (opc func : Nat) (i : BitVec 256) : Bool := veOpc i == opc && veFunc i == func

/-- Rows 0 to NR of DST take a function of the operands; every operand is read before any element is written (R120,
R121). -/
def State.veMap (s : State) (c : Nat) (hw : HwErr) (i : BitVec 256) (pc : Nat)
    (f : Word → Word → Word → Word × FpEvents) : State :=
  let r := s.fire (veKey c) i [] false
  if veStruck hw false then r.1.veError c r.2 pc 2 hw
  else
    let e := fun o m n => s.veElem c (veImm i 0) (veImm i 1) o m n
    let us := (List.range (veNr i + 1)).flatMap fun m => (List.range 64).map fun n =>
      (s.tileKey c (veDst i) m n, f (e (veA i) m n) (e (veB i) m n) (e (veC i) m n))
    let ev := us.foldl (fun a u => a.add u.2.2) FpEvents.none
    let t := r.1.setWords32 (us.map fun u => (u.1, u.2.1))
    (t.event (Pg.core c) 0x0A8 ev.invalid).event (Pg.core c) 0x0A9 ev.overflow

/-- An EW operation of core `c`. -/
def State.veEw (s : State) (c : Nat) (hw : HwErr) (func : Nat) (o : EwOp) : State :=
  s.veFire c (veIs 3 func) fun s i pc => s.veMap c hw i pc (ewOp o)

/-- An FN operation. -/
def State.veFn (s : State) (c : Nat) (hw : HwErr) (func : Nat) (o : FnOp) : State :=
  s.veFire c (veIs 4 func) fun s i pc => s.veMap c hw i pc fun a _ _ => fnOp o a

/-- A CMP operation. -/
def State.veCmp (s : State) (c : Nat) (hw : HwErr) (func : Nat) (o : CmpOp) : State :=
  s.veFire c (veIs 6 func) fun s i pc => s.veMap c hw i pc fun a b _ => (cmpOp o a b, FpEvents.none)

/-- A RED operation (R128): 64 results into one column or row of DST. -/
def State.veRed (s : State) (c : Nat) (hw : HwErr) (func : Nat) (o : RedOp) : State :=
  s.veFire c (veIs 5 func) fun s i pc =>
    let r := s.fire (veKey c) i [] false
    if veStruck hw false then r.1.veError c r.2 pc 2 hw
    else
      let src := (veA i).tile
      let us := (List.range 64).map fun x =>
        let line := redLine o (veNr i + 1) fun y =>
          s.word32 (if veAxis i = 0 then s.tileKey c src x y else s.tileKey c src y x)
        let key := if veAxis i = 0 then s.tileKey c (veDst i) x (veDidx i) else s.tileKey c (veDst i) (veDidx i) x
        if veRacc i then
          let q := o.op (s.word32 key) line.1
          (key, q.1, line.2.add q.2)
        else (key, line.1, line.2)
      let ev := us.foldl (fun a u => a.add u.2.2) FpEvents.none
      let t := r.1.setWords32 (us.map fun u => (u.1, u.2.1))
      (t.event (Pg.core c) 0x0A8 ev.invalid).event (Pg.core c) 0x0A9 ev.overflow

/-! LD and ST (R130, R131, R133). -/

/-- Show whether the VE's issue stage holds an LD and which tile it will write (R139). -/
def State.vePend (s : State) (c : Nat) (dst : Option Nat) : State :=
  match dst with
  | some v => (s.wr (Pg.core c) Reg.Core.PEND [] (2 ^ v)).wr (Pg.core c) Reg.Core.ISSUING [] 1
  | none => (s.wr (Pg.core c) Reg.Core.PEND [] 0).wr (Pg.core c) Reg.Core.ISSUING [] 0

/-- Lines an element of a load needs. -/
def ldLines (d : StoreDesc) (m n : Nat) : List Nat :=
  let b := d.bitOf m n
  [b / 8 / 64 * 64, (b + d.f.bits - 1) / 8 / 64 * 64] ++ (if d.mx then [d.scaleOf m n / 64 * 64] else [])

/-- Write the elements of a load whose lines were all moved (`moved`); with every line moved, elements outside ROWS or
COLS become +0. -/
def State.ldTile (s : State) (c dst : Nat) (d : StoreDesc) (g : Nat → Byte) (moved : Option (List Nat)) : State :=
  let p := s.polderOfCore c
  let here := d.elems.filter fun e =>
    match moved with
    | some ls => (ldLines d e.1 e.2).all fun a => ls.contains a
    | none => true
  let us := here.map fun e => (s.tileKey c dst e.1 e.2, d.decode (s.runKey p) (s.stepNo p) g e.1 e.2)
  let zeros := if moved.isSome then [] else
    ((List.range 64).flatMap fun m => (List.range 64).map fun n => (m, n)).filterMap fun e =>
      if e.1 ≤ d.rows ∧ e.2 ≤ d.cols then none else some (s.tileKey c dst e.1 e.2, (0 : Word))
  let ev := us.foldl (fun a u => a.add u.2.2) FpEvents.none
  let t := s.setWords32 (us.map (fun u => (u.1, u.2.1)) ++ zeros)
  ((t.event (Pg.core c) 0x0A8 ev.invalid).event (Pg.core c) 0x0A9 ev.overflow).event (Pg.core c) 0x0AA ev.nanLost

/-- The byte at address `a` of a staging image whose lines are `ls`, at pool offset `stage`. -/
def State.stagedByte (s : State) (c stage : Nat) (ls : List Nat) (a : Nat) : Byte :=
  s.byteAt (poolAddr c (stage + 64 * ls.idxOf (a / 64 * 64) + a % 64))

/-- A load from the pool reads its lines in order: it waits at a ring granule that has not arrived, and at a fault the lines
before it have been moved (R66, R133). -/
def State.veLdPool (s : State) (c : Nat) (j : Job) : State :=
  let k := veKey c
  let d := storeDesc j.desc
  let dst := veDst j.instr
  let ls := d.touched.lines.map (·.1)
  let good := ls.takeWhile fun a => (s.readStop c a).isNone
  match (ls.drop good.length).head?.bind (s.readStop c) with
  | some (.fault code x) =>
    ((s.ldTile c dst d s.byteAt (some good)).noteStale code x).stopInstr k j.id (s.readFault k j.pc code x)
  | some .wait => ((s.setJob k j).vePend c (some dst)).stall k 0
  | none => ((s.ldTile c dst d s.byteAt none).dropJob k).finish j.id

/-- A load from module memory issues its S1 requests, each line into its staging line, up to the first line that may not be
read or staged (R130, R133). -/
def State.veLdIssue (s : State) (c : Nat) (j : Job) : State :=
  let k := veKey c
  let d := storeDesc j.desc
  let ls := d.touched.lines
  let stop := fun (e : (Nat × List (Option Byte)) × Nat) =>
    (s.issueStop c e.1.1).or (s.writeStop c (poolAddr c (d.stage + 64 * e.2)))
  let good := ls.zipIdx.takeWhile fun e => (stop e).isNone
  let bad := (ls.zipIdx.drop good.length).head?.bind stop
  if bad = some .wait then ((s.setJob k j).vePend c (some (veDst j.instr))).stall k 0
  else
    let t := s.addReqs c 1 ((joinLines (good.map (·.1)) d.stage).zipIdx.map fun (q, n) =>
      ⟨s.ids + n, c, 1, coreOwner c, engCode k, j.pc, j.id, false, q.1, q.2.2.length, true, [], .staging q.2.1, none,
        1, false, 0, 1, 0, 0, [], 0⟩)
    match bad.bind Stop.faultOf with
    | some (code, x) => (t.noteStale code x).stopInstr k j.id (t.readFault k j.pc code x)
    | none => (t.setJob k { j with init := false }).vePend c (some (veDst j.instr))

/-- A load whose requests have all completed reads its staging buffer. -/
def State.veLdFinish (s : State) (c : Nat) (j : Job) : State :=
  let k := veKey c
  if s.reqs.any fun r => r.owner == j.id then s.stall k 0
  else
    let d := storeDesc j.desc
    let ls := d.touched.lines.map (·.1)
    ((s.ldTile c (veDst j.instr) d (s.stagedByte c d.stage ls) none).dropJob k).finish j.id

/-- A load in progress goes on; an error strikes where it touches the pool or the tile. -/
def State.veLdRun (s : State) (c : Nat) (hw : HwErr) (j : Job) : State :=
  if veStruck hw true then s.veError c j.id j.pc 2 hw
  else if !(storeDesc j.desc).dstk then s.veLdPool c j
  else if j.init then s.veLdIssue c j
  else s.veLdFinish c j

/-- An LD fires: it claims the staging granules of a source in module memory (R57, R130). -/
def State.veLdGo (s : State) (c : Nat) (hw : HwErr) (i : BitVec 256) (pc : Nat) : State :=
  let desc := s.bytesAt (poolAddr c (veDesc i)) 64
  let d := storeDesc desc
  let stage := (List.range d.touched.lines.length).map fun j => poolAddr c (d.stage + 64 * j)
  let r := s.fire (veKey c) i (if d.dstk then granulesOf stage else []) true
  r.1.veLdRun c hw ⟨i, pc, r.2, 0, 0, 0, desc, true⟩

/-- VE_LD (R130): a load in progress goes on, or the LD at the head of the VE's queue fires. A head of a reserved class or
function is checked here too. -/
def execVeLd (core : CoreId) (hw : HwErr) (s : State) : Host.Outcome State Fault Refusal :=
  let c := core.val
  .next <|
    match s.job (veKey c) with
    | some j => if s.canRun (veKey c) then s.veLdRun c hw j else s.stall (veKey c) 0
    | none => s.veFire c (fun i => veOpc i == 1 || (veUses (veOpc i) (veFunc i)).isNone)
        fun s i pc => s.veLdGo c hw i pc

/-- An ST fires: its claim, then the tile encoded through the descriptor. -/
def State.veStGo (s : State) (c : Nat) (hw : HwErr) (i : BitVec 256) (pc : Nat) : State :=
  let k := veKey c
  let d := storeDesc (s.bytesAt (poolAddr c (veDesc i)) 64)
  let r := s.fire k i (storeClaims c d) true
  if veStruck hw true then r.1.veError c r.2 pc 3 hw
  else r.1.storeTile k r.2 pc d (fun m n => f32 (s.word32 (s.tileKey c (veDst i) m n))) 0x0A8

/-- VE_ST (R131). -/
def execVeSt (core : CoreId) (hw : HwErr) (s : State) : Host.Outcome State Fault Refusal :=
  .next (s.veFire core.val (veIs 2 0) fun s i pc => s.veStGo core.val hw i pc)

/-- EW_ADD (R124). -/
def execEwAdd (core : CoreId) (hw : HwErr) (s : State) : Host.Outcome State Fault Refusal :=
  .next (s.veEw core.val hw 0 .add)
/-- EW_SUB (R124). -/
def execEwSub (core : CoreId) (hw : HwErr) (s : State) : Host.Outcome State Fault Refusal :=
  .next (s.veEw core.val hw 1 .sub)
/-- EW_MUL (R124). -/
def execEwMul (core : CoreId) (hw : HwErr) (s : State) : Host.Outcome State Fault Refusal :=
  .next (s.veEw core.val hw 2 .mul)
/-- EW_FMA (R124). -/
def execEwFma (core : CoreId) (hw : HwErr) (s : State) : Host.Outcome State Fault Refusal :=
  .next (s.veEw core.val hw 3 .fma)
/-- EW_MAX (R124). -/
def execEwMax (core : CoreId) (hw : HwErr) (s : State) : Host.Outcome State Fault Refusal :=
  .next (s.veEw core.val hw 4 .max)
/-- EW_MIN (R124). -/
def execEwMin (core : CoreId) (hw : HwErr) (s : State) : Host.Outcome State Fault Refusal :=
  .next (s.veEw core.val hw 5 .min)
/-- EW_ABS (R124). -/
def execEwAbs (core : CoreId) (hw : HwErr) (s : State) : Host.Outcome State Fault Refusal :=
  .next (s.veEw core.val hw 6 .abs)
/-- EW_NEG (R124). -/
def execEwNeg (core : CoreId) (hw : HwErr) (s : State) : Host.Outcome State Fault Refusal :=
  .next (s.veEw core.val hw 7 .neg)
/-- EW_MOV (R124). -/
def execEwMov (core : CoreId) (hw : HwErr) (s : State) : Host.Outcome State Fault Refusal :=
  .next (s.veEw core.val hw 8 .mov)
/-- EXP2 (R126). -/
def execVExp2 (core : CoreId) (hw : HwErr) (s : State) : Host.Outcome State Fault Refusal :=
  .next (s.veFn core.val hw 0 .exp2)
/-- LOG2 (R126). -/
def execVLog2 (core : CoreId) (hw : HwErr) (s : State) : Host.Outcome State Fault Refusal :=
  .next (s.veFn core.val hw 1 .log2)
/-- RCP (R126). -/
def execVRcp (core : CoreId) (hw : HwErr) (s : State) : Host.Outcome State Fault Refusal :=
  .next (s.veFn core.val hw 2 .rcp)
/-- RSQRT (R126). -/
def execVRsqrt (core : CoreId) (hw : HwErr) (s : State) : Host.Outcome State Fault Refusal :=
  .next (s.veFn core.val hw 3 .rsqrt)
/-- SQRT (R126). -/
def execVSqrt (core : CoreId) (hw : HwErr) (s : State) : Host.Outcome State Fault Refusal :=
  .next (s.veFn core.val hw 4 .sqrt)
/-- RED_SUM (R128). -/
def execRedSum (core : CoreId) (hw : HwErr) (s : State) : Host.Outcome State Fault Refusal :=
  .next (s.veRed core.val hw 0 .sum)
/-- RED_MAX (R128). -/
def execRedMax (core : CoreId) (hw : HwErr) (s : State) : Host.Outcome State Fault Refusal :=
  .next (s.veRed core.val hw 1 .max)
/-- RED_MIN (R128). -/
def execRedMin (core : CoreId) (hw : HwErr) (s : State) : Host.Outcome State Fault Refusal :=
  .next (s.veRed core.val hw 2 .min)
/-- CMP_LT (R125). -/
def execCmpLt (core : CoreId) (hw : HwErr) (s : State) : Host.Outcome State Fault Refusal :=
  .next (s.veCmp core.val hw 0 .lt)
/-- CMP_LE (R125). -/
def execCmpLe (core : CoreId) (hw : HwErr) (s : State) : Host.Outcome State Fault Refusal :=
  .next (s.veCmp core.val hw 1 .le)
/-- CMP_EQ (R125). -/
def execCmpEq (core : CoreId) (hw : HwErr) (s : State) : Host.Outcome State Fault Refusal :=
  .next (s.veCmp core.val hw 2 .eq)
/-- CMP_NE (R125). -/
def execCmpNe (core : CoreId) (hw : HwErr) (s : State) : Host.Outcome State Fault Refusal :=
  .next (s.veCmp core.val hw 3 .ne)

/-- SEL (R125). -/
def execSel (core : CoreId) (hw : HwErr) (s : State) : Host.Outcome State Fault Refusal :=
  .next (s.veFire core.val (veIs 7 0) fun s i pc =>
    s.veMap core.val hw i pc fun a b c => (selOp a b c, FpEvents.none))

end Sys2Proof.Machine
end

