-- ==== Sys2Proof/Machine/Layout.lean ====
section
/-! DEFINITION. The Stepstone network and the Punt engines: PERMUTE, its tiles, NARROW, GATHER and SCATTER (R140 to
R161). -/

namespace Sys2Proof.Machine

/-- Engine number of engine `e` of cluster `cl`: 0 Stepstone, 1 P0, 2 P1, 3 Silt. -/
def cluKey (cl e : Nat) : Nat := 1024 + 4 * cl + e

/-- Home core of a cluster engine's instruction (R145). -/
def cluHome (cl : Nat) (i : BitVec 256) : Nat := 8 * cl + iw i 0 6 4

/-- An instruction of the engine, of the opcode where `opc` gives one, has fired and not retired (R146). -/
def State.cluBusy (s : State) (k : Nat) (opc : Option Nat) : Bool :=
  s.inflight.any fun x => x.eng == k &&
    match opc with
    | some o => x.opc == o
    | none => true

/-- Who accesses memory for a cluster engine's instruction: the engine, the key of its job, its in-flight identifier and
index, and its home core within the cluster. -/
structure Mover where
  k    : Nat
  job  : Nat
  id   : Nat
  pc   : Nat
  home : Nat
  deriving DecidableEq, Repr

def Mover.cl (x : Mover) : Nat := (x.k - 1024) / 4
def Mover.core (x : Mover) : Nat := 8 * x.cl + x.home

/-- The accesses of a job of engine `k`, kept under key `job`. -/
def Job.mover (j : Job) (k job : Nat) : Mover := ⟨k, job, j.id, j.pc, iw j.instr 0 6 4⟩

/-! Reading and writing elements. -/

/-- Why an access of a cluster engine does not go ahead. -/
inductive Bad where
  | stop (x : Stop)
  /-- The block at this address failed its check (R144); with the outcome where the memory controller made it, of part of a
  block (R185). -/
  | check (block : Nat) (part : Option Check)
  deriving DecidableEq, Repr

/-- Lines touched, by line number, each with the first byte touched in it. -/
abbrev Lines := Sparse Nat

def addByte (l : Lines) (a : Nat) : Lines :=
  let k := a / 64
  match l.find? fun e => e.1 == k with
  | some e => if a < e.2 then sins k a (sdrop l k) else l
  | none => sins k a l

/-- Add the bytes of `w` bits at bit address `b`; those in a second line begin at its start. -/
def addElem (l : Lines) (b w : Nat) : Lines :=
  let z := (b + w - 1) / 8
  if z / 64 = b / 8 / 64 then addByte l (b / 8) else addByte (addByte l (b / 8)) (z / 64 * 64)

/-- The check of the block at `b`, of which lines `l` are read (R144, R185). -/
def State.checkBlock (s : State) (l : Lines) (b : Nat) : Option Bad :=
  let k := s.verify b
  if k = .ok then none else some (.check b (if (l.filter fun e => e.1 / 64 == b / 4096).length = 64 then none else some k))

/-- The first line, in ascending address, that cannot be read, of those left to scan of lines `l`; with `cvm` each block is
verified once. -/
def State.scanFrom (s : State) (who : Nat) (cvm : Bool) (l : Lines) : Option Nat → Lines → Option (Nat × Bad)
  | _, [] => none
  | prev, e :: r =>
    let b := blockOf e.2
    match (s.readStop who e.2).map Bad.stop with
    | some x => some (e.2, x)
    | none =>
      match if cvm && isModMem e.2 && prev != some b then s.checkBlock l b else none with
      | some x => some (e.2, x)
      | none => State.scanFrom s who cvm l (some b) r

def State.scanLines (s : State) (who : Nat) (cvm : Bool) (l : Lines) : Option (Nat × Bad) := s.scanFrom who cvm l none l

/-- Charge the lines that an engine of core `c` reads (R431). -/
def State.acctLines (s : State) (c : Nat) (l : Lines) : State :=
  l.foldl (fun t e => t.acctMem (s.polderOfCore c) (64 * e.1) 64 false) s

/-- Consecutive lines as ranges of addresses. -/
def lineRanges : List Nat → List (Nat × Nat)
  | [] => []
  | a :: r =>
    match lineRanges r with
    | (b, n) :: q => if b = a + 64 then (a, n + 64) :: q else (a, 64) :: (b, n) :: q
    | [] => [(a, 64)]

/-- The requests of an instruction for lines of memory, in class S3 of its home core (R67, R145); its accesses to the home
core's own pool make none. -/
def State.cluTraffic (s : State) (x : Mover) (tag : Nat) (write : Bool) (ls : List Nat) : State :=
  let r := Req.madeBy ⟨x.cl / 8, x.cl % 8, 8 + x.k % 4⟩ x.core 3 (engCode x.k) x.pc x.id tag write
  s.traffic r (lineRanges (ls.filter fun a => !(regionOf a == .pool && poolCore a == x.core)))

/-- The reads of lines: charged, and requested. -/
def State.readLines (s : State) (x : Mover) (tag : Nat) (l : Lines) : State :=
  (s.acctLines x.core l).cluTraffic x tag false (l.map fun e => 64 * e.1)

/-- Bytes that bit writes touch, with their values: other bits of a byte keep what memory holds. -/
def State.mergeBits (s : State) (ws : List (Nat × Nat × Nat)) : Sparse Byte :=
  let old := ws.foldl (fun (l : Sparse Byte) w =>
    [w.1 / 8, (w.1 + w.2.1 - 1) / 8].foldl (fun l a => if l.any fun e => e.1 == a then l else sins a (s.byteAt a) l) l) []
  ws.foldl (fun l w => putBits l w.2.1 w.1 w.2.2) old

/-- The write of one element or scale of a destination: bit address, bits, value. -/
abbrev BitWrite := Nat × Nat × Nat

/-- Perform writes in ascending address up to the first that may not go ahead, and request them. -/
def State.putBitWrites (s : State) (x : Mover) (tag : Nat) (cvm : Bool) (ws : List BitWrite) : State × Option (Nat × Nat) :=
  let ls := imageLines (s.mergeBits ws)
  let r := s.writeLines x.core (engWriter x.k x.id) cvm ls
  (if r.2.isSome then r.1 else r.1.cluTraffic x tag true (ls.map (·.1)), r.2)

/-- Read and write plan of one element: source bit address, source scale, destination bit address, destination scale, and
whether the source is the padding of its last block, which reads as +0 (R23). -/
structure Shift where
  src  : Nat
  ssc  : Option Nat
  dst  : Nat
  dsc  : Option Nat
  pad  : Bool
  deriving DecidableEq, Repr

/-- The element at `ix` is padding of the tensor's last block (R23). -/
def TensorDesc.pads (d : TensorDesc) (ix : List Nat) : Bool :=
  let i := ix.getD d.bdim 0
  d.mx && d.n d.bdim ≤ i && i < 32 * ceilDiv (d.n d.bdim) 32

/-- The move of element `jx` of tensor `a` to element `ix` of tensor `d`, with the scale of the block that begins there. -/
def shiftOf (a d : TensorDesc) (jx ix : List Nat) : Shift :=
  let head := d.mx && ix.getD d.bdim 0 % 32 == 0
  ⟨a.bitOf jx, if head then some (a.scaleOf jx) else none, d.bitOf ix, if head then some (d.scaleOf ix) else none, a.pads jx⟩

/-- Pool granules that moves of `w` bits write. -/
def moveGranules (w : Nat) (ms : List Shift) : List (Nat × Nat) :=
  granulesOf (ms.flatMap fun m => [m.dst / 8, (m.dst + w - 1) / 8] ++ m.dsc.toList)

/-- Lines that moves of `w` bits read, data and scales. -/
def moveLines (w : Nat) (ms : List Shift) : Lines :=
  ms.foldl (fun l m =>
    let l := if m.pad then l else addElem l m.src w
    match m.ssc with
    | some a => addByte l a
    | none => l) []

/-- The encoding that a move copies. -/
def State.moveElem (s : State) (w : Nat) (m : Shift) : Nat :=
  if m.pad then 0 else elemAtBit (fun a => s.byteAt (a % 2 ^ 48)) w m.src

/-- The writes of moves whose sources are read from the state as it stands. -/
def State.moveWrites (s : State) (w : Nat) (ms : List Shift) : List BitWrite :=
  ms.flatMap fun m =>
    [(m.dst, w, s.moveElem w m)] ++
      match m.ssc, m.dsc with
      | some a, some b => [(8 * b, 8, (s.byteAt a).toNat)]
      | _, _ => []

/-- Moves in ascending source address. -/
def bySource (ms : List Shift) : List Shift :=
  ms.foldl (fun l x => (l.takeWhile fun y => y.src ≤ x.src) ++ [x] ++ l.dropWhile fun y => y.src ≤ x.src) []

/-- Moves, in the order given, that come before the first whose element or scale may not be read, and why it may not
(R161). -/
def State.goodMoves (s : State) (who w : Nat) (cvm : Bool) (ms : List Shift) : List Shift × Option (Nat × Bad) :=
  if (s.scanLines who cvm (moveLines w ms)).isNone then (ms, none)
  else
    let all := moveLines w ms
    let bad := fun (m : Shift) => (moveLines w [m]).findSome? fun e =>
      match (s.readStop who e.2).map Bad.stop with
      | some x => some (e.2, x)
      | none => if cvm && isModMem e.2 then (s.checkBlock all (blockOf e.2)).map fun x => (e.2, x) else none
    let good := ms.takeWhile fun m => (bad m).isNone
    (good, (ms.drop good.length).head?.bind bad)

/-- Record a layout-engine error with KIND, position and value (R167). -/
def State.layoutErr (s : State) (cl unit kind pos value : Nat) : State :=
  s.errReg (Pg.clu cl) Reg.Clu.ERR Reg.Clu.MULTI
    [(Reg.Clu.UNIT, unit), (Reg.Clu.KIND, kind), (Reg.Clu.POS, pos), (Reg.Clu.VALUE, value)]

/-- Stop an instruction with a fault. -/
def State.stopMover (s : State) (x : Mover) (code a : Nat) : State :=
  ((s.dropJob x.job).failInstr x.id).raise (s.readFault x.k x.pc code a x.home)

/-- Stop an instruction for a bad access at `a`; `pos` is its position for the error register. -/
def State.stopClu (s : State) (x : Mover) (pos a : Nat) : Bad → State
  | .check b part =>
    let t := match part with
      | some k => s.recordCheck b k
      | none => s
    (t.layoutErr x.cl (x.k % 4) 3 pos 0).stopMover x 0x46 b
  | .stop (.fault code y) => (s.noteStale code y).stopMover x code (if code = 0x02 then a else y)
  | .stop .wait => s

/-- Stop an instruction whose write failed. -/
def State.stopPut (s : State) (x : Mover) (pos : Nat) (f : Nat × Nat) : State :=
  (if f.1 = 0x46 then s.layoutErr x.cl (x.k % 4) 3 pos 0 else s).stopMover x f.1 f.2

/-- A hardware error that strikes a cluster engine's instruction: `a` is its first source address. -/
def State.cluError (s : State) (x : Mover) (a : Nat) (hw : HwErr) : Option State :=
  let dead := (s.dropJob x.job).failInstr x.id
  match hw with
  | .layout pos => some (dead.layoutParity x.cl (x.k % 4) pos (engFault x.k x.pc 0x48 0 x.home))
  | .poolParity o b r y => some (dead.poolParity o.val b r y 5 (engFault x.k x.pc 0x40 0 x.home))
  | _ => dead.memError a x.pc hw

/-- The instruction has a write held back, or a request that has not completed. -/
def State.owing (s : State) (id : Nat) : Bool := (s.stalled.any fun w => w.instr == id) || s.reqs.any fun r => r.owner == id

/-- Judge a tensor descriptor at home-pool offset `off` (R142, R145). -/
def State.checkTensor (s : State) (c off : Nat) : Option Stop :=
  match s.descStop c off 128 with
  | some f => some f
  | none => if (tensorDesc (s.bytesAt (poolAddr c off) 128)).ok then none else some (.fault 0x01 (poolAddr c off))

/-- A tensor descriptor of core `c`. -/
def State.tensorAt (s : State) (c off : Nat) : TensorDesc := tensorDesc (s.bytesAt (poolAddr c off) 128)

/-- The token counters after every engine of the cores of a cluster has fired, those that fire now (R63). -/
def State.coreFires (s : State) (cl : Nat) : State := (List.range 8).foldl (fun t j => t.veFires (8 * cl + j)) s

/-! Stepstone. -/

def stOpc (i : BitVec 256) : Nat := iw i 0 3 0
def stPerm (i : BitVec 256) (d : Nat) : Nat := iw i 0 (8 + 3 * d + 2) (8 + 3 * d)
def stTile (i : BitVec 256) (d : Nat) : Nat := iw i (5 + d / 2) (16 * (d % 2) + 15) (16 * (d % 2))
def stSrc (i : BitVec 256) : Nat := iw i 3 15 0 * 128
def stDst (i : BitVec 256) : Nat := iw i 3 31 16 * 128

/-- Extents of tile number `u`'s whole grid: tiles along each dimension (R150). -/
def stGrid (i : BitVec 256) (d : TensorDesc) : List Nat :=
  (List.range 6).map fun x => ceilDiv (d.n x) (stTile i x + 1)

/-- Extents of a tile and its first indices. -/
def stTileExt (i : BitVec 256) (d : TensorDesc) (u : Nat) : List Nat × List Nat :=
  let us := unlinear (stGrid i d) u
  let base := us.zipIdx.map fun (v, x) => v * (stTile i x + 1)
  (base.zipIdx.map fun (b, x) => min (stTile i x + 1) (d.n x - b), base)

/-- Destination indices of tile `u`, in linear order. -/
def stTileElems (i : BitVec 256) (d : TensorDesc) (u : Nat) : List (List Nat) :=
  let t := stTileExt i d u
  (List.range (t.1.foldl (· * ·) 1)).map fun x => (unlinear t.1 x).zipWith (· + ·) t.2

/-- Source index of a destination index (R149). -/
def stSourceIx (i : BitVec 256) (nd : Nat) (ix : List Nat) : List Nat :=
  (List.range (nd + 1)).foldl (fun l d => l.set (stPerm i d) (ix.getD d 0)) [0, 0, 0, 0, 0, 0]

/-- The move of the destination element at `ix`. -/
def stMove (i : BitVec 256) (a d : TensorDesc) (ix : List Nat) : Shift := shiftOf a d (stSourceIx i d.ndim ix) ix

/-- Bytes of the largest tile, scales included. -/
def stTileBytes (i : BitVec 256) (d : TensorDesc) : Nat :=
  let es := stTileElems i d 0
  (es.length * d.f.bits + 7) / 8 + (if d.mx then (es.filter fun ix => ix.getD d.bdim 0 % 32 == 0).length else 0)

/-- The fields and descriptors of a Stepstone instruction go together (R149, R153). -/
def stOk (i : BitVec 256) (a d : TensorDesc) : Bool :=
  let ps := (List.range (d.ndim + 1)).map fun x => stPerm i x
  ((List.range (d.ndim + 1)).all fun x => ps.contains x)
    && ((List.range 6).all fun x => x ≤ d.ndim || (stPerm i x == 0 && stTile i x == 0))
    && a.fmt == d.fmt && (a.mx == d.mx) && a.xt == d.xt
    && (!d.mx || stPerm i d.bdim == a.bdim)
    && (if stOpc i = 1 then (!d.mx || (stTile i d.bdim + 1) % 32 == 0) && stTileBytes i d ≤ 65536
        else (List.range 6).all fun x => stTile i x == 0)

/-- Judge the head Stepstone instruction. -/
def State.stJudge (s : State) (cl : Nat) (i : BitVec 256) (pc : Nat) : Ready :=
  let k := cluKey cl 0
  let c := cluHome cl i
  if s.cluBusy k (some (stOpc i)) then .wait 0
  else if !((stOpc i == 1 || stOpc i == 2) && cluTokOk i && iw i 0 7 7 == 0 && iw i 0 31 26 == 0 && iw i 4 31 0 == 0) then
    .fault 0x01 (s.fetchAddr k pc)
  else
    match (s.checkTensor c (stSrc i)).or (s.checkTensor c (stDst i)) with
    | some x => x.ready
    | none => if stOk i (s.tensorAt c (stSrc i)) (s.tensorAt c (stDst i)) then .go else .fault 0x01 (s.fetchAddr k pc)

/-- The engines of the cluster's cores fire before Stepstone (R146). -/
def State.stCheck (s : State) (cl : Nat) (i : BitVec 256) (pc : Nat) : Ready :=
  (s.stJudge cl i pc).behind (s.coreFires cl) (waitsOf (cluKey cl 0) i)

/-- The token counters after Stepstone too has fired, if it fires now. -/
def State.stFires (s : State) (cl : Nat) : State := (s.coreFires cl).firstTake (cluKey cl 0) fun s i pc => s.stJudge cl i pc

/-- First byte of a cluster's stage buffer in the readout space (R464). -/
def stageBase (cl : Nat) : Nat := 5 * 2 ^ 44 + cl / 8 * 2 ^ 31 + cl % 8 * 2 ^ 28

/-- The read phase: the tile's elements, packed in destination order, then its scales, into the stage buffer (R150, R152; log
entry 57). -/
def State.stageTile (s : State) (cl w : Nat) (ms : List Shift) : State :=
  let es := natBytes ((ms.length * w + 7) / 8) (packElems w (ms.map (s.moveElem w)))
  let ss := ms.filterMap fun m => m.ssc.map s.byteAt
  s.poke ((es ++ ss).zipIdx.map fun (b, j) => (stageBase cl + j, b))

/-- Position of the first element of a tile of which `f` holds. -/
def posOf (ms : List Shift) (f : Shift → Bool) : Nat := (ms.findIdx? f).getD 0

/-- Position of the first element that is read, or written, in the block of `a`. -/
def readPos (ms : List Shift) (a : Nat) : Nat :=
  posOf ms fun m => m.src / 8 / 4096 == a / 4096 || m.ssc.any fun y => y / 4096 == a / 4096
def writePos (ms : List Shift) (a : Nat) : Nat :=
  posOf ms fun m => m.dst / 8 / 4096 == a / 4096 || m.dsc.any fun y => y / 4096 == a / 4096

/-- The moves of the tile that job `j` has reached. -/
def Job.tileMoves (j : Job) : List Shift :=
  let d := tensorDesc (j.desc.drop 128)
  (stTileElems j.instr d j.next).map fun ix => stMove j.instr (tensorDesc (j.desc.take 128)) d ix

/-- The end of a tile's write phase: once every write is accepted or acknowledged the tile's granules are valid again, and the
PERMUTE is at its next tile or has no work left (R147, R150). -/
def State.tileEnd (s : State) (cl : Nat) (j : Job) : State :=
  let k := cluKey cl 0
  let d := tensorDesc (j.desc.drop 128)
  if s.owing j.id then s.setJob k { j with init := true }
  else
    let t := s.setValids (moveGranules d.f.bits j.tileMoves) true
    if (stGrid j.instr d).foldl (· * ·) 1 ≤ j.next + 1 then (t.dropJob k).finish j.id
    else t.setJob k { j with next := j.next + 1, init := false }

/-- Read and write one tile of instruction `j` of cluster `cl` (R150, R151): the whole tile is read before any of it is
written. -/
def State.stTileRun (s : State) (cl : Nat) (j : Job) (hw : HwErr) : State :=
  let k := cluKey cl 0
  let x := j.mover k k
  let a := tensorDesc (j.desc.take 128)
  let d := tensorDesc (j.desc.drop 128)
  let ms := j.tileMoves
  let s := (s.wr (Pg.clu cl) Reg.Clu.TILENO [] j.next).noteHw a.base hw
  match s.cluError x a.base hw with
  | some t => t
  | none =>
    match s.scanLines x.core a.cvm (moveLines a.f.bits ms) with
    | some (_, .stop .wait) => (s.setJob k j).stall k 0
    | some (y, b) => s.stopClu x (readPos ms y) y b
    | none =>
      let t := (s.readLines x j.next (moveLines a.f.bits ms)).stageTile cl a.f.bits ms
      let r := (t.setValids (moveGranules d.f.bits ms) false).putBitWrites x j.next d.cvm (s.moveWrites a.f.bits ms)
      match r.2 with
      | some f => r.1.stopPut x (writePos ms f.2) f
      | none => r.1.tileEnd cl j

/-- PERMUTE's job is kept under the engine's number, NARROW's under the engine's number + 2,048, so that one of each may
be in progress (R153). -/
def narrowKey (cl : Nat) : Nat := cluKey cl 0 + 2048

/-- A PERMUTE fires and runs its first tile. -/
def State.permuteGo (s : State) (cl : Nat) (hw : HwErr) (i : BitVec 256) (pc : Nat) : State :=
  let c := cluHome cl i
  let r := s.fire (cluKey cl 0) i [] true
  let desc := s.bytesAt (poolAddr c (stSrc i)) 128 ++ s.bytesAt (poolAddr c (stDst i)) 128
  r.1.stTileRun cl ⟨i, pc, r.2, 0, 0, 0, desc, false⟩ hw

/-- PERMUTE (R149). A head of a reserved opcode is checked here too. -/
def execPermute (clu : ClusterId) (hw : HwErr) (s : State) : Host.Outcome State Fault Refusal :=
  let cl := clu.val
  .next (s.tryFire (cluKey cl 0) (fun i => stOpc i != 2) (fun s i pc => s.stCheck cl i pc) (fun i => iw i 0 6 4)
    fun s i pc => s.permuteGo cl hw i pc)

/-- A PERMUTE in progress goes on: its tile's write phase ends where it can, and the next tile runs. -/
def State.tileStep (s : State) (cl : Nat) (hw : HwErr) (j : Job) : State :=
  if !j.init then s.stTileRun cl j hw
  else
    let t := s.tileEnd cl j
    match t.job (cluKey cl 0) with
    | some q => if q.init then t.stall (cluKey cl 0) 0 else t.stTileRun cl q hw
    | none => t

/-- STEPSTONE_TILE (R150): the next tile of the PERMUTE in progress, once the previous tile's writes are complete. -/
def execStepstoneTile (clu : ClusterId) (hw : HwErr) (s : State) : Host.Outcome State Fault Refusal :=
  let k := cluKey clu.val 0
  .next <|
    match s.job k with
    | none => s
    | some j => if s.canRun k then s.tileStep clu.val hw j else s.stall k 0

/-- The move of element `n` of a NARROW. -/
def narrowMoveOf (i : BitVec 256) (a d : TensorDesc) (n : Nat) : Shift := stMove i a d (unlinear d.ext n)

/-- What a NARROW reads for element `n`: the element, and its scale for every element of an MX tensor. -/
def narrowReads (i : BitVec 256) (a d : TensorDesc) (n : Nat) : Lines :=
  moveLines a.f.bits
    [{ narrowMoveOf i a d n with ssc := if d.mx then some (a.scaleOf (stSourceIx i d.ndim (unlinear d.ext n))) else none }]

/-- Elements of a NARROW from linear index `n` on, at most `fuel` of them: each is read, then written, and the next follows
once the write is complete (R153). -/
def State.narrowRun (s : State) (cl : Nat) (j : Job) (a d : TensorDesc) : Nat → Nat → State
  | 0, n => s.setJob (narrowKey cl) { j with next := n }
  | fuel + 1, n =>
    let k := cluKey cl 0
    let x := j.mover k (narrowKey cl)
    if d.total ≤ n then (s.dropJob (narrowKey cl)).finish j.id
    else
      let m := narrowMoveOf j.instr a d n
      match s.scanLines x.core a.cvm (narrowReads j.instr a d n) with
      | some (_, .stop .wait) => (s.setJob (narrowKey cl) { j with next := n }).stall k 0
      | some (y, b) => s.stopClu x n y b
      | none =>
        let t := (s.readLines x n (narrowReads j.instr a d n)).setValids (moveGranules d.f.bits [m]) false
        let r := t.putBitWrites x n d.cvm (s.moveWrites a.f.bits [m])
        match r.2 with
        | some f => r.1.stopPut x n f
        | none =>
          if r.1.owing j.id then (r.1.setJob (narrowKey cl) { j with next := n, init := true }).stall k 0
          else State.narrowRun (r.1.setValids (moveGranules d.f.bits [m]) true) cl j a d fuel (n + 1)

/-- A NARROW runs from where it stands: an element whose write was not complete is valid once it is. -/
def State.narrowJob (s : State) (cl : Nat) (j : Job) (hw : HwErr) : State :=
  let a := tensorDesc (j.desc.take 128)
  let d := tensorDesc (j.desc.drop 128)
  let s := s.noteHw a.base hw
  match s.cluError (j.mover (cluKey cl 0) (narrowKey cl)) a.base hw with
  | some t => t
  | none =>
    if !j.init then s.narrowRun cl j a d (d.total + 1 - j.next) j.next
    else if s.owing j.id then s.stall (cluKey cl 0) 0
    else
      (s.setValids (moveGranules d.f.bits [narrowMoveOf j.instr a d j.next]) true).narrowRun cl { j with init := false } a d
        (d.total - j.next) (j.next + 1)

/-- A NARROW fires. -/
def State.narrowGo (s : State) (cl : Nat) (hw : HwErr) (i : BitVec 256) (pc : Nat) : State :=
  let c := cluHome cl i
  let r := s.fire (cluKey cl 0) i [] true
  let desc := s.bytesAt (poolAddr c (stSrc i)) 128 ++ s.bytesAt (poolAddr c (stDst i)) 128
  r.1.narrowJob cl ⟨i, pc, r.2, 0, 0, 0, desc, false⟩ hw

/-- NARROW (R153): the NARROW in progress continues, or the NARROW at the head of Stepstone's queue fires. -/
def execNarrow (clu : ClusterId) (hw : HwErr) (s : State) : Host.Outcome State Fault Refusal :=
  let cl := clu.val
  let k := cluKey cl 0
  .next <|
    match s.job (narrowKey cl) with
    | some j => if s.canRun k then s.narrowJob cl j hw else s.stall k 0
    | none => s.tryFire k (fun i => stOpc i == 2) (fun s i pc => s.stCheck cl i pc) (fun i => iw i 0 6 4)
        fun s i pc => s.narrowGo cl hw i pc

/-! Punt. -/

def puOpc (i : BitVec 256) : Nat := iw i 0 3 0
def puGdim (i : BitVec 256) : Nat := iw i 0 9 7
def puPol (i : BitVec 256) : Nat := iw i 0 11 10
def puSrc (i : BitVec 256) : Nat := iw i 3 15 0 * 128
def puDst (i : BitVec 256) : Nat := iw i 3 31 16 * 128
def puIdx (i : BitVec 256) : Nat := iw i 4 15 0 * 128
/-- Number of indices. -/
def puN (i : BitVec 256) : Nat := iw i 5 23 0 + 1

/-- The data descriptors and the index descriptor of a Punt instruction go together (R157). -/
def puOk (i : BitVec 256) (a d x : TensorDesc) : Bool :=
  x.fmt == 9 && !x.mx && a.fmt == d.fmt && (a.mx == d.mx) && a.xt == d.xt
    && (!d.mx || (puGdim i != a.bdim && puGdim i != d.bdim))

/-- Judge the head Punt instruction of engine `e` (1 or 2). -/
def State.puJudge (s : State) (cl e : Nat) (i : BitVec 256) (pc : Nat) : Ready :=
  let k := cluKey cl e
  let c := cluHome cl i
  if s.cluBusy k none then .wait 0
  else if !((puOpc i == 1 || puOpc i == 2) && cluTokOk i && puGdim i ≤ 5 && puPol i != 3 && iw i 0 31 12 == 0
      && iw i 4 31 16 == 0 && iw i 5 31 24 == 0 && iw i 6 31 0 == 0 && iw i 7 31 0 == 0) then .fault 0x01 (s.fetchAddr k pc)
  else
    match ((s.checkTensor c (puSrc i)).or (s.checkTensor c (puDst i))).or (s.checkTensor c (puIdx i)) with
    | some x => x.ready
    | none =>
      if puOk i (s.tensorAt c (puSrc i)) (s.tensorAt c (puDst i)) (s.tensorAt c (puIdx i)) then .go
      else .fault 0x01 (s.fetchAddr k pc)

/-- The token counters after Stepstone, and with `e` = 2 P0, have fired, those that fire now (R146). -/
def State.puFires (s : State) (cl e : Nat) : State :=
  if e = 1 then s.stFires cl else (s.stFires cl).firstTake (cluKey cl 1) fun s i pc => s.puJudge cl 1 i pc

/-- The engines before a Punt engine in the order of R146 fire before it. -/
def State.puCheck (s : State) (cl e : Nat) (i : BitVec 256) (pc : Nat) : Ready :=
  (s.puJudge cl e i pc).behind (s.puFires cl e) (waitsOf (cluKey cl e) i)

/-- The runs of a tensor with extents `ext`: first bit and bits. -/
def TensorDesc.runs (d : TensorDesc) (ext : List Nat) : List (Nat × Nat) :=
  let outer := ext.set 0 1
  (List.range (outer.foldl (· * ·) 1)).map fun x => (d.bitOf (unlinear outer x), ext.getD 0 1 * d.f.bits)

/-- Granules a tensor of extents `ext` covers in pools. -/
def TensorDesc.granules (d : TensorDesc) (ext : List Nat) : List (Nat × Nat) :=
  granulesOf ((d.runs ext).flatMap fun r =>
    let a := r.1 / 8
    let z := (r.1 + r.2 - 1) / 8
    (List.range (z / 4096 - a / 4096 + 1)).map fun j => (a / 4096 + j) * 4096)

/-- Granules of its scales. -/
def TensorDesc.scaleGranules (d : TensorDesc) : List (Nat × Nat) :=
  if d.mx then
    let n := (d.ext.set d.bdim (ceilDiv (d.n d.bdim) 32)).foldl (· * ·) 1
    granulesOf ((List.range ((d.sbase + n - 1) / 4096 - d.sbase / 4096 + 1)).map fun j => (d.sbase / 4096 + j) * 4096)
  else []

/-- Granules a Punt destination claims when the instruction fires (R147): for a GATHER the slices it writes. -/
def puClaims (i : BitVec 256) (d : TensorDesc) : List (Nat × Nat) :=
  (d.granules (if puOpc i = 1 then d.ext.set (puGdim i) (puN i) else d.ext) ++ d.scaleGranules).eraseDups

/-- Element `j` of an index tensor as a signed number, with its bit address (R43, R157). -/
def TensorDesc.indexBit (x : TensorDesc) (j : Nat) : Nat := x.bitOf (unlinear x.ext j)

def State.indexAt (s : State) (x : TensorDesc) (j : Nat) : Int :=
  (BitVec.ofNat 32 (elemAtBit (fun a => s.byteAt (a % 2 ^ 48)) 32 (x.indexBit j))).toInt

/-- Moves of one slice: source coordinate `p` and destination coordinate `q` along GDIM, the others over extents
`ext`; padding of the destination is never written (R23). -/
def puMoves (i : BitVec 256) (a d : TensorDesc) (ext : List Nat) (p q : Nat) : List Shift :=
  let g := puGdim i
  let e := ext.set g 1
  let ixs := ((List.range (e.foldl (· * ·) 1)).map (unlinear e)).filter fun ix => !d.pads (ix.set g q)
  bySource (ixs.map fun ix => shiftOf a d (ix.set g p) (ix.set g q))

/-- The slice an index selects under POL: a coordinate, none for a slice that is skipped or zero-filled, or the fault. -/
inductive Slice where
  | at (n : Nat)
  | skip
  | fault
  deriving DecidableEq, Repr

def sliceOf (pol ext : Nat) (v : Int) : Slice :=
  if 0 ≤ v ∧ v < (ext : Int) then .at v.toNat
  else if pol = 0 then .fault
  else if pol = 1 then .at (if v < 0 then 0 else ext - 1)
  else .skip

/-- Show the position a Punt engine issued last. -/
def State.showJ (s : State) (cl e j : Nat) : State :=
  s.wr (Pg.clu cl) (if e = 1 then Reg.Clu.P0J else Reg.Clu.P1J) [] j

/-- Slices of an instruction in flight: those with a request that has not completed (R160). -/
def State.slicesOut (s : State) (id : Nat) : Nat :=
  ((s.reqs.filter fun r => r.owner == id).map fun r => r.dest).eraseDups.length

/-- Slices a Punt engine keeps in flight at most (R160). -/
def State.puDepth (s : State) (cl e : Nat) : Nat := s.rd (Pg.clu cl) (if e = 1 then Reg.Clu.DEPTH0 else Reg.Clu.DEPTH1)

/-- The slice of position `n` waits: with cause 7 behind a write held back, with cause 1 for a place among the slices in flight
or in class S3 of the home core (R160, R371). -/
def State.puHeld (s : State) (cl e : Nat) (x : Mover) : Option Nat :=
  if s.heldBack x.k then some 7
  else if max 1 (s.puDepth cl e) ≤ s.slicesOut x.id ∨ s.classFull x.core 3 then some 1 else none

/-- The line of 64 indices that holds index `j` of an index tensor, where `j` is the first that a Punt instruction reads there
(R160). -/
def TensorDesc.indexLine (x : TensorDesc) (j : Nat) : List Nat :=
  let line := fun n => x.indexBit n / 8 / 256 * 256
  if 0 < j ∧ line (j - 1) = line j then [] else [line j, line j + 64, line j + 128, line j + 192]

/-- The writes of a zero-filled slice: zero bytes, and scales of 0x7F (R158). -/
def zeroFill (w : Nat) (ms : List Shift) : List BitWrite :=
  ms.flatMap fun m => [(m.dst, w, 0)] ++ (m.dsc.map fun b => (8 * b, 8, 0x7F)).toList

/-- Slices of a Punt instruction from position `n` on, at most `fuel` of them, in ascending j (R158, R159, R161). -/
def State.puRun (s : State) (cl e : Nat) (jb : Job) (a d x : TensorDesc) : Nat → Nat → State
  | 0, n => s.setJob (cluKey cl e) { jb with next := n }
  | fuel + 1, n =>
    let k := cluKey cl e
    let i := jb.instr
    let y := jb.mover k k
    let gather := puOpc i == 1
    if puN i ≤ n then (s.dropJob k).finish jb.id
    else
      match s.puHeld cl e y with
      | some cause => (s.setJob k { jb with next := n }).stall k cause
      | none =>
      match s.scanLines y.core x.cvm (addElem [] (x.indexBit n) 32) with
      | some (_, .stop .wait) => (s.setJob k { jb with next := n }).stall k 0
      | some (z, b) => s.stopClu y n z b
      | none =>
        let v := s.indexAt x n
        let t := (s.showJ cl e n).cluTraffic y n false (x.indexLine n)
        match sliceOf (puPol i) (if gather then a.n (puGdim i) else d.n (puGdim i)) v with
        | .fault =>
          (t.layoutErr cl (k % 4) 0 n ((BitVec.ofInt 32 v).toNat)).stopMover y 0x0A n
        | .skip =>
          if gather then
            let r := t.putBitWrites y n d.cvm (zeroFill d.f.bits (puMoves i a d d.ext 0 n))
            match r.2 with
            | some f => r.1.stopPut y n f
            | none => State.puRun r.1 cl e jb a d x fuel (n + 1)
          else State.puRun t cl e jb a d x fuel (n + 1)
        | .at p =>
          let ms := if gather then puMoves i a d d.ext p n else puMoves i a d a.ext n p
          let g := t.goodMoves y.core a.f.bits a.cvm ms
          match g.2 with
          | some (_, .stop .wait) => (s.setJob k { jb with next := n }).stall k 0
          | _ =>
            let r := (t.readLines y n (moveLines a.f.bits g.1)).putBitWrites y n d.cvm (t.moveWrites a.f.bits g.1)
            match r.2, g.2 with
            | some f, _ => r.1.stopPut y n f
            | none, some (z, b) => r.1.stopClu y n z b
            | none, none => State.puRun r.1 cl e jb a d x fuel (n + 1)

/-- A Punt instruction in progress runs from where it stands. -/
def State.puJob (s : State) (cl e : Nat) (j : Job) (hw : HwErr) : State :=
  let a := tensorDesc (j.desc.take 128)
  let d := tensorDesc ((j.desc.drop 128).take 128)
  let x := tensorDesc (j.desc.drop 256)
  let s := s.noteHw a.base hw
  match s.cluError (j.mover (cluKey cl e) (cluKey cl e)) a.base hw with
  | some t => t
  | none => s.puRun cl e j a d x (puN j.instr + 1 - j.next) j.next

/-- A Punt instruction fires: it claims its pool destination, then handles its indices. -/
def State.puGo (s : State) (cl e : Nat) (hw : HwErr) (i : BitVec 256) (pc : Nat) : State :=
  let c := cluHome cl i
  let d := s.tensorAt c (puDst i)
  let r := s.fire (cluKey cl e) i (puClaims i d) true
  let desc := s.bytesAt (poolAddr c (puSrc i)) 128 ++ s.bytesAt (poolAddr c (puDst i)) 128
    ++ s.bytesAt (poolAddr c (puIdx i)) 128
  r.1.puJob cl e ⟨i, pc, r.2, 0, 0, 0, desc, false⟩ hw

/-- A Punt command: the instruction in progress continues, or the head of the queue fires. -/
def State.punt (s : State) (cl e : Nat) (hw : HwErr) (want : Nat → Bool) : State :=
  let k := cluKey cl e
  match s.job k with
  | some j =>
    if !want (puOpc j.instr) then s else if s.canRun k then s.puJob cl e j hw else s.stall k 0
  | none => s.tryFire k (fun i => want (puOpc i)) (fun s i pc => s.puCheck cl e i pc) (fun i => iw i 0 6 4)
      fun s i pc => s.puGo cl e hw i pc

/-- GATHER (R158). A head of a reserved opcode is checked here too. -/
def execGather (clu : ClusterId) (eng : PuntId) (hw : HwErr) (s : State) : Host.Outcome State Fault Refusal :=
  .next (s.punt clu.val (1 + eng.val) hw fun o => o != 2)

/-- SCATTER (R158). -/
def execScatter (clu : ClusterId) (eng : PuntId) (hw : HwErr) (s : State) : Host.Outcome State Fault Refusal :=
  .next (s.punt clu.val (1 + eng.val) hw fun o => o == 2)

end Sys2Proof.Machine
end

