-- ==== Sys2Proof/Machine/Silt.lean ====
section
/-! DEFINITION. The Silt unit: OPEN, ANCHOR, ADD and CLOSE (R162 to R166). -/

namespace Sys2Proof.Machine

def slOpc (i : BitVec 256) : Nat := iw i 0 3 0
def slSdim (i : BitVec 256) : Nat := iw i 0 9 7
def slPol (i : BitVec 256) : Nat := iw i 0 11 10
def slSrc (i : BitVec 256) : Nat := iw i 3 15 0 * 128
def slDst (i : BitVec 256) : Nat := iw i 3 31 16 * 128
def slIdx (i : BitVec 256) : Nat := iw i 4 15 0 * 128
def slN (i : BitVec 256) : Nat := iw i 5 23 0 + 1

def State.siltOf (s : State) (cl : Nat) : Silt := sget (fun _ => Silt.closed) s.silt cl

/-- Put a session back and show it in the cluster page (R167). -/
def State.setSilt (s : State) (cl : Nat) (x : Silt) : State :=
  let t := { s with silt := sset (fun _ => Silt.closed) s.silt cl x }
  (t.wr (Pg.clu cl) Reg.Clu.SESSION [] (bit x.open_)).wr (Pg.clu cl) Reg.Clu.SPHASE [] (bit x.adding)

/-- The fields of a Silt instruction are legal, unused ones zero (R162). -/
def slFieldsOk (i : BitVec 256) : Bool :=
  cluTokOk i && iw i 0 31 16 == 0 && iw i 4 31 16 == 0 && iw i 5 31 24 == 0 && iw i 6 31 0 == 0 && iw i 7 31 0 == 0 &&
    match slOpc i with
    | 1 => iw i 0 11 7 == 0 && iw i 0 15 14 == 0 && iw i 3 15 0 == 0 && iw i 4 15 0 == 0 && iw i 5 23 0 == 0
    | 2 | 3 => slSdim i ≤ 5 && slPol i != 3 && iw i 0 15 12 == 0 && iw i 3 31 16 == 0
    | 4 => iw i 0 13 7 == 0 && iw i 0 15 14 ≤ 1 && iw i 3 31 0 == 0 && iw i 4 15 0 == 0 && iw i 5 23 0 == 0
    | _ => false

/-- Judge the head Silt instruction (R162, R163). -/
def State.slJudge (s : State) (cl : Nat) (i : BitVec 256) (pc : Nat) : Ready :=
  let k := cluKey cl 3
  let c := cluHome cl i
  let x := s.siltOf cl
  let bad := Ready.fault 0x01 (s.fetchAddr k pc)
  if s.cluBusy k none then .wait 0
  else if !slFieldsOk i then bad
  else
    match slOpc i with
    | 1 =>
      match s.checkTensor c (slDst i) with
      | some x => x.ready
      | none =>
        let d := s.tensorAt c (slDst i)
        if x.open_ ∨ 65536 < d.total ∨ ¬ (d.f = .fp32 ∨ d.f = .bf16) then bad else .go
    | 4 => if x.open_ then .go else bad
    | o =>
      match (s.checkTensor c (slSrc i)).or (s.checkTensor c (slIdx i)) with
      | some x => x.ready
      | none =>
        let n := s.tensorAt c (slIdx i)
        if n.fmt ≠ 9 ∨ n.mx ∨ ¬ x.open_ ∨ (o = 2 ∧ x.adding) then bad else .go

/-- The token counters after Stepstone, P0 and P1 have fired, those that fire now (R146). -/
def State.punFires (s : State) (cl : Nat) : State :=
  (s.puFires cl 2).firstTake (cluKey cl 2) fun s i pc => s.puJudge cl 2 i pc

/-- Every other engine of the cluster that reads its counters fires before Silt, the stream units apart. -/
def State.slCheck (s : State) (cl : Nat) (i : BitVec 256) (pc : Nat) : Ready :=
  (s.slJudge cl i pc).behind (s.punFires cl) (waitsOf (cluKey cl 3) i)

/-- The token counters after every engine of the cluster but the stream units has fired, those that fire now (R187). -/
def State.cluFires (s : State) (cl : Nat) : State := (s.punFires cl).firstTake (cluKey cl 3) fun s i pc => s.slJudge cl i pc

/-- The lines of every element of a tensor, scales included. -/
def tensorLines (d : TensorDesc) : Lines :=
  (List.range d.total).foldl (fun l n =>
    let ix := unlinear d.ext n
    let l := addElem l (d.bitOf ix) d.f.bits
    if d.mx then addByte l (d.scaleOf ix) else l) []

/-- The value of element `n` of a tensor. -/
def State.elemAt (s : State) (d : TensorDesc) (n : Nat) : FVal :=
  d.value (fun a => s.byteAt (a % 2 ^ 48)) (unlinear d.ext n)

/-- Take a value into the anchor of the block of element `e`. -/
def Silt.anchorIn (x : Silt) (e : Nat) (v : FVal) : Silt :=
  let b := e / 256
  { x with anchor := sset (fun _ => 0) x.anchor b (max (sget (fun _ => 0) x.anchor b) (anchorOf v)) }

/-- Add a value to element `e`. -/
def Silt.addIn (x : Silt) (e : Nat) (v : FVal) : Silt :=
  let a := sget (fun _ => 0) x.anchor (e / 256)
  { x with acc := sset (fun _ => 0) x.acc e (cwJoin a (sget (fun _ => 0) x.acc e) (cwWord x.c48 a v)) }

/-- OPEN takes the destination's values into the anchors, where INIT asks for it, once they can be read (R66, R164). -/
def State.siltOpenRun (s : State) (cl : Nat) (hw : HwErr) (j : Job) : State :=
  let k := cluKey cl 3
  let x := j.mover k k
  let i := j.instr
  let d := tensorDesc j.desc
  let init := iw i 0 13 13 == 1
  let s := s.noteHw d.base hw
  let cnt : Sparse Nat := if init then (List.range d.total).map fun e => (e, 1) else []
  let y : Silt := { Silt.closed with open_ := true, c48 := iw i 0 12 12 == 1, init := init, dst := j.desc, cnt := cnt }
  match s.cluError x d.base hw with
  | some t => t
  | none =>
    if !init then ((s.setSilt cl y).dropJob k).finish j.id
    else
      match s.scanLines x.core d.cvm (tensorLines d) with
      | some (_, .stop .wait) => (s.setJob k j).stall k 0
      | some (a, b) => s.stopClu x 0 a b
      | none =>
        let t := s.readLines x 0 (tensorLines d)
        ((t.setSilt cl ((List.range d.total).foldl (fun y e => y.anchorIn e (s.elemAt d e)) y)).dropJob k).finish j.id

/-- OPEN fires (R164). -/
def State.siltOpenGo (s : State) (cl : Nat) (hw : HwErr) (i : BitVec 256) (pc : Nat) : State :=
  let r := s.fire (cluKey cl 3) i [] true
  r.1.siltOpenRun cl hw ⟨i, pc, r.2, 0, 0, 0, s.bytesAt (poolAddr (cluHome cl i) (slDst i)) 128, false⟩

/-- A contribution element: source bit address, source scale, its value's index in the source and its destination
element. -/
structure Contrib where
  move : Shift
  src  : List Nat
  dst  : Nat
  deriving DecidableEq, Repr

/-- Contributions of slice `j` into destination slice `q` (R164), in ascending source address. -/
def slContribs (i : BitVec 256) (a d : TensorDesc) (j q : Nat) : List Contrib :=
  let g := slSdim i
  let e := a.ext.set g 1
  let cs := (List.range (e.foldl (· * ·) 1)).map fun x =>
    let ix := unlinear e x
    let jx := ix.set g j
    (⟨⟨a.bitOf jx, if a.mx then some (a.scaleOf jx) else none, 0, none, false⟩, jx, linearOf d.ext (ix.set g q) % 65536⟩ : Contrib)
  cs.foldl (fun l x =>
    (l.takeWhile fun y => y.move.src ≤ x.move.src) ++ [x] ++ l.dropWhile fun y => y.move.src ≤ x.move.src) []

/-- Take the contributions of one slice into the session, ANCHOR or ADD, up to the first that faults: session, code and
destination element of the fault. -/
def slTake (add : Bool) (val : Contrib → FVal) : List Contrib → Silt → Silt × Option (Nat × Nat)
  | [], x => (x, none)
  | c :: r, x =>
    let v := val c
    if !add then slTake add val r (x.anchorIn c.dst v)
    else
      let n := sget (fun _ => 0) x.cnt c.dst
      if sget (fun _ => 0) x.anchor (c.dst / 256) < anchorOf v then (x, some (0x0B, c.dst))
      else if 65536 ≤ n then (x, some (0x0C, c.dst))
      else slTake add val r { x.addIn c.dst v with cnt := sset (fun _ => 0) x.cnt c.dst (n + 1) }

/-- Slices of an ANCHOR or ADD from position `n` on, at most `fuel` of them. -/
def State.slRun (s : State) (cl : Nat) (jb : Job) (a x : TensorDesc) : Nat → Nat → State
  | 0, n => s.setJob (cluKey cl 3) { jb with next := n }
  | fuel + 1, n =>
    let k := cluKey cl 3
    let i := jb.instr
    let y := jb.mover k k
    let d := tensorDesc (s.siltOf cl).dst
    if slN i ≤ n then (s.dropJob k).finish jb.id
    else if s.classFull y.core 3 then (s.setJob k { jb with next := n }).stall k 1
    else
      match s.scanLines y.core x.cvm (addElem [] (x.indexBit n) 32) with
      | some (_, .stop .wait) => (s.setJob k { jb with next := n }).stall k 0
      | some (z, b) => s.stopClu y n z b
      | none =>
        let v := s.indexAt x n
        match sliceOf (slPol i) (d.n (slSdim i)) v with
        | .fault => (s.layoutErr cl 3 0 n ((BitVec.ofInt 32 v).toNat)).stopMover y 0x0A n
        | .skip => State.slRun s cl jb a x fuel (n + 1)
        | .at q =>
          let cs := slContribs i a d n q
          let g := s.goodMoves y.core a.f.bits a.cvm (cs.map (·.move))
          match g.2 with
          | some (_, .stop .wait) => (s.setJob k { jb with next := n }).stall k 0
          | _ =>
            let r := slTake (slOpc i == 3) (fun y => a.value (fun b => s.byteAt (b % 2 ^ 48)) y.src) (cs.take g.1.length)
              (s.siltOf cl)
            let t := (s.readLines y n (moveLines a.f.bits g.1)).setSilt cl r.1
            match r.2, g.2 with
            | some (code, e), _ => (t.layoutErr cl 3 (if code = 0x0B then 2 else 1) n e).stopMover y code e
            | none, some (z, b) => t.stopClu y n z b
            | none, none => State.slRun t cl jb a x fuel (n + 1)

/-- An ANCHOR or ADD in progress runs from where it stands. -/
def State.slJob (s : State) (cl : Nat) (j : Job) (hw : HwErr) : State :=
  let a := tensorDesc (j.desc.take 128)
  let x := tensorDesc (j.desc.drop 128)
  let s := s.noteHw a.base hw
  match s.cluError (j.mover (cluKey cl 3) (cluKey cl 3)) a.base hw with
  | some t => t
  | none => s.slRun cl j a x (slN j.instr + 1 - j.next) j.next

/-- An ANCHOR or ADD fires. -/
def State.slGo (s : State) (cl : Nat) (hw : HwErr) (i : BitVec 256) (pc : Nat) : State :=
  let c := cluHome cl i
  let r := s.fire (cluKey cl 3) i [] true
  let t := if slOpc i = 3 then r.1.setSilt cl { r.1.siltOf cl with adding := true } else r.1
  let desc := s.bytesAt (poolAddr c (slSrc i)) 128 ++ s.bytesAt (poolAddr c (slIdx i)) 128
  t.slJob cl ⟨i, pc, r.2, 0, 0, 0, desc, false⟩ hw

/-- The rounding of destination element `e` at CLOSE. -/
def State.slRounding (s : State) (c : Nat) (i : BitVec 256) (d : TensorDesc) (e : Nat) : Rnd :=
  let p := s.polderOfCore c
  if iw i 0 15 14 = 1 then
    .sr (srHash (s.runKey p) (BitVec.ofNat 32 (s.stepNo p)) (BitVec.ofNat 32 d.tid) (e % 2 ^ 40))
  else .rne

/-- The writes of CLOSE from a session, INIT's values taken once more (R164). -/
def State.closeWrites (s : State) (cl : Nat) (i : BitVec 256) (x : Silt) : List BitWrite :=
  let d := tensorDesc x.dst
  let y := if x.init then (List.range d.total).foldl (fun y e => y.addIn e (s.elemAt d e)) x else x
  (List.range d.total).map fun e =>
    let q := cwResult x.c48 (sget (fun _ => 0) y.anchor (e / 256)) (sget (fun _ => 0) y.acc e) d.f
      (s.slRounding (cluHome cl i) i d e) false
    (d.bitOf (unlinear d.ext e), d.f.bits, q.1)

/-- CLOSE's effect (R164): INIT's values once more, one rounding, and the destination written. Its own claim has cleared the
destination's valid bits, which the reads of INIT are not checked against (R147). -/
def State.siltCloseGo (s : State) (cl : Nat) (hw : HwErr) (i : BitVec 256) (pc : Nat) : State :=
  let k := cluKey cl 3
  let y := s.siltOf cl
  let d := tensorDesc y.dst
  let r := s.fire k i (d.granules d.ext) true
  let x : Mover := ⟨k, k, r.2, pc, iw i 0 6 4⟩
  let s := r.1.noteHw d.base hw
  match s.cluError x d.base hw with
  | some t => t
  | none =>
    match if y.init then (s.setValids (d.granules d.ext) true).scanLines x.core d.cvm (tensorLines d) else none with
    | some (a, b) => s.stopClu x 0 a b
    | none =>
      let t := if y.init then s.readLines x 0 (tensorLines d) else s
      let w := t.putBitWrites x 1 d.cvm (s.closeWrites cl i y)
      match w.2 with
      | some f => w.1.stopPut x 0 f
      | none => (w.1.setSilt cl Silt.closed).finish r.2

/-- The job of a Silt instruction goes on. -/
def State.siltJob (s : State) (cl : Nat) (j : Job) (hw : HwErr) : State :=
  if slOpc j.instr = 1 then s.siltOpenRun cl hw j else s.slJob cl j hw

/-- A Silt command for opcode `want`: the instruction in progress continues, or the head fires. -/
def State.siltCmd (s : State) (cl : Nat) (hw : HwErr) (want : Nat → Bool)
    (go : State → Nat → HwErr → BitVec 256 → Nat → State) : State :=
  let k := cluKey cl 3
  match s.job k with
  | some j => if !want (slOpc j.instr) then s else if s.canRun k then s.siltJob cl j hw else s.stall k 0
  | none => s.tryFire k (fun i => want (slOpc i)) (fun s i pc => s.slCheck cl i pc) (fun i => iw i 0 6 4)
      fun s i pc => go s cl hw i pc

/-- SILT_OPEN (R164). A head of a reserved opcode is checked here too. -/
def execSiltOpen (clu : ClusterId) (hw : HwErr) (s : State) : Host.Outcome State Fault Refusal :=
  .next (s.siltCmd clu.val hw (fun o => o == 0 || o == 1 || 5 ≤ o) State.siltOpenGo)

/-- SILT_ANCHOR_OP (R164). -/
def execSiltAnchorOp (clu : ClusterId) (hw : HwErr) (s : State) : Host.Outcome State Fault Refusal :=
  .next (s.siltCmd clu.val hw (· == 2) State.slGo)

/-- SILT_ADD (R164). -/
def execSiltAdd (clu : ClusterId) (hw : HwErr) (s : State) : Host.Outcome State Fault Refusal :=
  .next (s.siltCmd clu.val hw (· == 3) State.slGo)

/-- SILT_CLOSE (R164). -/
def execSiltClose (clu : ClusterId) (hw : HwErr) (s : State) : Host.Outcome State Fault Refusal :=
  .next (s.siltCmd clu.val hw (· == 4) State.siltCloseGo)

end Sys2Proof.Machine
end

