-- ==== Sys2Proof/Machine/Arm.lean ====
section
/-! DEFINITION. The stream unit's instructions: ARM and DISARM (R187, R188, R192, R193, R195). -/

namespace Sys2Proof.Machine

/-! ARM. -/

def suOpc (i : BitVec 256) : Nat := iw i 0 3 0
def suStream (i : BitVec 256) : Nat := iw i 0 6 4
/-- Pool offset of the stream descriptor. -/
def suDesc (i : BitVec 256) : Nat := iw i 3 16 0 * 64

/-- A stream-unit instruction without a reserved encoding (R187). -/
def suFieldsOk (i : BitVec 256) : Bool :=
  (suOpc i == 1 || suOpc i == 2) && coreTokOk i && iw i 0 31 7 == 0 && iw i 3 31 17 == 0
    && (suOpc i == 1 || iw i 3 16 0 == 0) && iw i 4 31 0 == 0 && iw i 5 31 0 == 0 && iw i 6 31 0 == 0 && iw i 7 31 0 == 0

/-- The ring of a descriptor lies in the pool and apart from the core's other armed rings (R192). -/
def State.ringOk (s : State) (c : Nat) (d : StreamDesc) : Bool :=
  1 ≤ d.rgn && d.rgn ≤ 0x600 && d.rbase + d.rgn ≤ 1536 &&
    (List.range 8).all fun n =>
      let x := s.stream c n
      !(x.armed && x.desc.kind == 0 && x.desc.rbase < d.rbase + d.rgn && d.rbase < x.desc.rbase + x.desc.rgn)

/-- A stream of these descriptors before anything was fetched. -/
def freshStream (d : StreamDesc) (w : SwingDesc) : Stream := { Stream.idle with desc := d, sw := w, armed := true }

/-- The descriptors of an ARM of stream `n` are legal (R192). -/
def State.armOk (s : State) (c n : Nat) (raw swraw : List Byte) : Bool :=
  let d := parseStream raw
  let w := parseSwing swraw
  let x := freshStream d w
  streamClean raw && d.kind ≤ 1 && operandOk d.fmt d.scl && !(s.stream c n).armed
    && (if d.swing then
          d.kind == 0 && swingOk swraw && d.fmt == w.fmt && (d.scl == w.mx) && d.src == 0 && d.run == 0 && d.cnt1 == 0
            && d.str1 == 0 && d.cnt2 == 0 && d.str2 == 0 && d.ssrc == 0 && d.sstr == 0
        else d.src % 64 == 0 && d.str1 % 64 == 0 && d.str2 % 64 == 0)
    && (if d.kind = 0 then s.ringOk c d && (!d.scl || (d.ssrc % 64 == 0 && d.sstr % 64 == 0))
        else
          let r := dataBounds d w
          d.rgn == 0 && d.rbase == 0 && regionOf r.1 == .sst && regionOf r.2 == .sst
            && (if d.scl then
                  let q := scaleBounds d w x.groups
                  regionOf q.1 == .sst && regionOf q.2 == .sst
                else true))

/-- Another Swing stream holds the channel of core `c`'s cluster (R156). -/
def State.swingBusy (s : State) (c : Nat) : Bool :=
  (List.range 8).any fun k => (List.range 8).any fun n =>
    let x := s.stream (c / 8 * 8 + k) n
    x.armed && x.desc.swing

/-- Judge the head stream-unit instruction (R62, R192); every engine of the cluster fires before it (R187). -/
def State.suCheck (s : State) (c : Nat) (i : BitVec 256) (pc : Nat) : Ready :=
  if !suFieldsOk i then .fault 0x01 (s.fetchAddr (suKey c) pc)
  else if suOpc i = 2 then Ready.go.behind (s.cluFires (c / 8)) (waitsOf (suKey c) i)
  else
    match s.descStop c (suDesc i) 64 with
    | some x => x.ready
    | none =>
      let raw := s.bytesAt (poolAddr c (suDesc i)) 64
      let d := parseStream raw
      match if d.swing then s.descStop c d.swd 32 else none with
      | some x => x.ready
      | none =>
        let sw := s.bytesAt (poolAddr c d.swd) 32
        if !s.armOk c (suStream i) raw sw then .fault 0x01 (poolAddr c (suDesc i))
        else if d.swing && s.swingBusy c then .wait 2
        else Ready.go.behind (s.cluFires (c / 8)) (waitsOf (suKey c) i)

/-- Numbers of a core's free comparators, ascending. -/
def State.freeCompNums (s : State) (c : Nat) : List Nat :=
  (List.range 16).filter fun w => s.rd (Pg.core c) Reg.Core.ARMED [w] == 0

/-- Show a comparator in the core's page (R201). -/
def State.showComp (s : State) (c : Nat) (e : Nat × Nat × Nat) : State :=
  let p := Pg.core c
  let lo := e.2.1 / 64
  let hi := e.2.2 / 64
  ((((s.wr p Reg.Core.WLO [e.1] lo).wr p Reg.Core.WLO_HI [e.1] (lo / 2 ^ 32)).wr p Reg.Core.WHI [e.1] hi).wr p
    Reg.Core.WHI_HI [e.1] (hi / 2 ^ 32)).wr p Reg.Core.ARMED [e.1] 1

/-- ARM's effect (R187, R193, R195). -/
def State.armGo (s : State) (c : Nat) (i : BitVec 256) (_pc : Nat) : State :=
  let n := suStream i
  let d := parseStream (s.bytesAt (poolAddr c (suDesc i)) 64)
  let w := if d.swing then parseSwing (s.bytesAt (poolAddr c d.swd) 32) else SwingDesc.zero
  let x := freshStream d w
  let t := (s.fire (suKey c) i [] false).1
  let ranges := [dataBounds d w] ++ (if d.scl then [scaleBounds d w x.groups] else [])
  let comps := (t.freeCompNums c).zip ranges
  let t := t.setStream c n { x with comps := comps }
  let t := comps.foldl (fun t e => t.showComp c e) t
  let t := if d.kind = 0 then t.setValids ((List.range d.rgn).map fun g => (c, d.rbase + g)) false else t
  (t.wr (Pg.core c) Reg.Core.DELIVERED [n] 0).showStream c n 1

/-- A pool parity error of a descriptor read by the stream unit, in the pool of core `o`. R77 has no requester code for this
read: the model records 4, the stream unit's arrivals (log entry 57). -/
def State.suParity (s : State) (c pc : Nat) (o b r y : Nat) : State :=
  s.poolParity o b r y 4 (engFault (suKey c) pc 0x40 0)

/-- ARM (R187). A head of a reserved opcode is checked here too. -/
def execArm (core : CoreId) (hw : HwErr) (s : State) : Host.Outcome State Fault Refusal :=
  let c := core.val
  .next (s.tryFire (suKey c) (fun i => suOpc i != 2) (fun s i pc => s.suCheck c i pc) (fun _ => 0)
    fun s i pc =>
      match hw with
      | .poolParity o b r y => s.suParity c pc o.val b r y
      | _ => s.armGo c i pc)

/-! DISARM. -/

/-- DISARM's effect (R193). -/
def State.disarmGo (s : State) (c : Nat) (i : BitVec 256) (_pc : Nat) : State :=
  let n := suStream i
  let x := s.stream c n
  let r := s.fire (suKey c) i [] x.armed
  if x.armed then ((r.1.setStream c n { x with ending := x.ending ++ [r.2] }).showStream c n 3).tryEnd c n else r.1

/-- DISARM (R193). -/
def execDisarm (core : CoreId) (s : State) : Host.Outcome State Fault Refusal :=
  let c := core.val
  .next (s.tryFire (suKey c) (fun i => suOpc i == 2) (fun s i pc => s.suCheck c i pc) (fun _ => 0)
    fun s i pc => s.disarmGo c i pc)

end Sys2Proof.Machine
end

