-- ==== Sys2Proof/Machine/Crypto.lean ====
section
/-! DEFINITION. SHA-256, used by records, digests, shards, manifests and the security functions; HMAC, HKDF and ECDSA on
P-256 with the nonces of RFC 6979 (R444). -/

namespace Sys2Proof.Machine

/-- The largest number below 2^b whose `k`-th power is at most `n`, `r` being the bits found so far. -/
def rootBits (k n : Nat) : Nat → Nat → Nat
  | 0, r => r
  | b + 1, r => rootBits k n b (if (r + 2 ^ b) ^ k ≤ n then r + 2 ^ b else r)

/-- The first 32 bits of the fraction of the `k`-th root of `p`. -/
def rootFrac (k p : Nat) : Nat := rootBits k (p * 2 ^ (32 * k)) 36 0 % 2 ^ 32

/-- The first 64 primes: each composite below 312 has a divisor below 18. -/
def primes64 : List Nat :=
  (List.range 312).filter fun n => 2 ≤ n && (List.range 18).all fun d => d < 2 || n ≤ d || n % d != 0

/-- SHA-256 takes its round constants from the cube roots of those primes, and its initial value from the square roots of the
first eight. -/
def shaK : List Nat := primes64.map (rootFrac 3)
def shaH : List Nat := (primes64.take 8).map (rootFrac 2)

def rotr (x n : Nat) : Nat := (x / 2 ^ n ||| x * 2 ^ (32 - n)) % 2 ^ 32

/-- Big-endian value of bytes. -/
def beNat (l : List Byte) : Nat := l.foldl (fun a b => a * 256 + b.toNat) 0
/-- The low `n` bytes of a number, big-endian. -/
def beBytes (n v : Nat) : List Byte := (natBytes n v).reverse

/-- Message schedule of a block, last word first. -/
def shaSchedule (ws : List Nat) : List Nat :=
  (List.range 48).foldl (fun r _ =>
    let w15 := r.getD 14 0
    let w2 := r.getD 1 0
    let s0 := rotr w15 7 ^^^ rotr w15 18 ^^^ (w15 / 8)
    let s1 := rotr w2 17 ^^^ rotr w2 19 ^^^ (w2 / 1024)
    (r.getD 15 0 + s0 + r.getD 6 0 + s1) % 2 ^ 32 :: r) ws.reverse

/-- The eight working variables. -/
structure ShaVars where
  a : Nat
  b : Nat
  c : Nat
  d : Nat
  e : Nat
  f : Nat
  g : Nat
  h : Nat
  deriving DecidableEq, Repr

def shaRound (v : ShaVars) (kw : Nat × Nat) : ShaVars :=
  let s1 := rotr v.e 6 ^^^ rotr v.e 11 ^^^ rotr v.e 25
  let ch := (v.e &&& v.f) ^^^ ((2 ^ 32 - 1 - v.e) &&& v.g)
  let t1 := v.h + s1 + ch + kw.1 + kw.2
  let s0 := rotr v.a 2 ^^^ rotr v.a 13 ^^^ rotr v.a 22
  let mj := (v.a &&& v.b) ^^^ (v.a &&& v.c) ^^^ (v.b &&& v.c)
  ⟨(t1 + s0 + mj) % 2 ^ 32, v.a, v.b, v.c, (v.d + t1) % 2 ^ 32, v.e, v.f, v.g⟩

/-- One compression of a 64-byte block into a hash value. -/
def shaBlock (h : List Nat) (b : List Byte) : List Nat :=
  let ws := (shaSchedule ((List.range 16).map fun i => beNat ((b.drop (4 * i)).take 4))).reverse
  let i := fun n => h.getD n 0
  let v := (shaK.zip ws).foldl shaRound ⟨i 0, i 1, i 2, i 3, i 4, i 5, i 6, i 7⟩
  [i 0 + v.a, i 1 + v.b, i 2 + v.c, i 3 + v.d, i 4 + v.e, i 5 + v.f, i 6 + v.g, i 7 + v.h].map (· % 2 ^ 32)

/-- The padded message. -/
def shaPad (m : List Byte) : List Byte :=
  let z := (119 - m.length % 64) % 64
  m ++ [0x80] ++ List.replicate z 0 ++ beBytes 8 (8 * m.length)

/-- SHA-256 of a byte string, 32 bytes. -/
def sha256 (m : List Byte) : List Byte :=
  let p := shaPad m
  ((chunks 64 (p.length / 64 + 1) p).foldl shaBlock shaH).flatMap (beBytes 4)

/-! HMAC-SHA256 and HKDF-SHA256. -/

/-- HMAC with a key of at most 64 bytes. -/
def hmac (k m : List Byte) : List Byte :=
  let pad := fun (c : Byte) => (k ++ List.replicate (64 - k.length) 0).map (· ^^^ c)
  sha256 (pad 0x5C ++ sha256 (pad 0x36 ++ m))

/-- 48 bytes of HKDF with an empty salt. -/
def hkdf48 (ikm info : List Byte) : List Byte :=
  let prk := hmac (List.replicate 32 0) ikm
  let t1 := hmac prk (info ++ [1])
  (t1 ++ hmac prk (t1 ++ info ++ [2])).take 48

/-! The curve P-256. -/

def p256p : Nat := 0xffffffff00000001000000000000000000000000ffffffffffffffffffffffff
def p256n : Nat := 0xffffffff00000000ffffffffffffffffbce6faada7179e84f3b9cac2fc632551
def p256b : Nat := 0x5ac635d8aa3a93e7b3ebbd55769886bc651d06b0cc53b0f63bce3c3e27d2604b
/-- The base point. -/
def p256g : Option (Nat × Nat) :=
  some (0x6b17d1f2e12c4247f8bce6e563a440f277037d812deb33a0f4a13945d898c296,
    0x4fe342e2fe1a7f9b8ee7eb4a7c0f9e162bce33576b315ececbb6406837bf51f5)

/-- `b^e mod m` for an `e` below 16^fuel, four bits of it at a time. -/
def modPow (m : Nat) : Nat → Nat → Nat → Nat
  | 0, _, _ => 1
  | f + 1, b, e => modPow m f b (e / 16) ^ 16 * b ^ (e % 16) % m

/-- The inverse modulo a prime of 256 bits. -/
def modInv (m a : Nat) : Nat := modPow m 64 (a % m) (m - 2)

/-- Sum of two points; none is the point at infinity. -/
def ecAdd : Option (Nat × Nat) → Option (Nat × Nat) → Option (Nat × Nat)
  | none, q => q
  | p, none => p
  | some (x1, y1), some (x2, y2) =>
    let p := p256p
    if x1 = x2 ∧ (y1 + y2) % p = 0 then none
    else
      let l := if x1 = x2 then (3 * x1 * x1 + (p - 3)) * modInv p (2 * y1) % p
        else (y2 + (p - y1)) * modInv p (x2 + (p - x1)) % p
      let x3 := (l * l + 2 * p - x1 - x2) % p
      some (x3, (l * (x1 + p - x3) + (p - y1)) % p)

/-- `acc + k × q`, over at most `fuel` bits of `k`. -/
def ecMulAdd : Nat → Nat → Option (Nat × Nat) → Option (Nat × Nat) → Option (Nat × Nat)
  | 0, _, _, acc => acc
  | f + 1, k, q, acc => ecMulAdd f (k / 2) (ecAdd q q) (if k % 2 = 1 then ecAdd acc q else acc)

def ecMul (k : Nat) (q : Option (Nat × Nat)) : Option (Nat × Nat) := ecMulAdd 256 k q none

/-- x‖y of a point. -/
def ecBytes : Option (Nat × Nat) → List Byte
  | some (x, y) => beBytes 32 x ++ beBytes 32 y
  | none => List.replicate 64 0

/-- A point on the curve from x‖y. -/
def ecPoint (b : List Byte) : Option (Nat × Nat) :=
  let x := beNat (b.take 32)
  let y := beNat (b.drop 32)
  if b.length = 64 ∧ x < p256p ∧ y < p256p ∧ y * y % p256p = (x * x * x + (p256p - 3) * x + p256b) % p256p then some (x, y)
  else none

/-! ECDSA. -/

/-- Candidates for the nonce of RFC 6979, at most `fuel`; the first in range is taken. -/
def nonceFrom : Nat → List Byte → List Byte → Nat
  | 0, _, _ => 1
  | f + 1, k, v =>
    let v := hmac k v
    let c := beNat v
    if 0 < c ∧ c < p256n then c
    else
      let k := hmac k (v ++ [0])
      nonceFrom f k (hmac k v)

/-- The nonce of RFC 6979 for private key `d` and message digest `h`. -/
def ecNonce (d h : Nat) : Nat :=
  let x := beBytes 32 d ++ beBytes 32 (h % p256n)
  let v := List.replicate 32 (1 : Byte)
  let k := hmac (List.replicate 32 0) (v ++ [0] ++ x)
  let v := hmac k v
  let k := hmac k (v ++ [1] ++ x)
  nonceFrom 64 k (hmac k v)

/-- r‖s over a message digest. -/
def ecSign (d : Nat) (digest : List Byte) : List Byte :=
  let h := beNat digest
  let k := ecNonce d h
  let r := ((ecMul k p256g).map fun q => q.1 % p256n).getD 0
  beBytes 32 r ++ beBytes 32 (modInv p256n k * (h + r * d) % p256n)

/-- A signature verifies. -/
def ecVerify (pub digest sig : List Byte) : Bool :=
  let r := beNat (sig.take 32)
  let s := beNat (sig.drop 32)
  let q := ecPoint pub
  q.isSome && 0 < r && r < p256n && 0 < s && s < p256n && sig.length == 64
    && (let w := modInv p256n s
        let h := beNat digest
        match ecMulAdd 256 (r * w % p256n) q (ecMul (h * w % p256n) p256g) with
        | some (x, _) => x % p256n == r
        | none => false)

end Sys2Proof.Machine
end

