-- ==== Sys2Proof/Machine/Link.lean ====
section
/-! DEFINITION. Routing of Ferry crossings, the ports' output queues, and requests for a freeze (R296, R307 to R310, R462,
R467). -/

namespace Sys2Proof.Machine

/-! Crossings. -/

/-- Crossing kinds of R296. -/
def Kind.idle : BitVec 4 := 0
def Kind.control : BitVec 4 := 1
def Kind.head : BitVec 4 := 2
def Kind.data : BitVec 4 := 3
def Kind.signal : BitVec 4 := 4
def Kind.endack : BitVec 4 := 5
def Kind.refuse : BitVec 4 := 6
def Kind.cwExp : BitVec 4 := 7
def Kind.cwData : BitVec 4 := 8
def Kind.barrier : BitVec 4 := 9
def Kind.freeze : BitVec 4 := 10

/-- The first `n` bytes of `l`, filled up with zeros. -/
def padTo (n : Nat) (l : List Byte) : List Byte := l.take n ++ List.replicate (n - l.length) 0

/-- A crossing before it is given a VC and a SEQ. -/
def mkCross (kind : BitVec 4) (last : Bool) (dst src xid fill : Nat) (payload : List Byte) : Crossing :=
  ⟨0, kind, last, BitVec.ofNat 12 dst, BitVec.ofNat 12 src, 0, BitVec.ofNat 12 xid, BitVec.ofNat 2 fill, padTo 256 payload, []⟩

/-- Bytes 0x000 to 0x107 of a crossing (R295). -/
def crossBytes (x : Crossing) : List Byte :=
  natBytes 4 (x.vc.toNat + x.kind.toNat * 2 ^ 3 + bit x.last * 2 ^ 7 + x.dst.toNat * 2 ^ 8 + x.src.toNat * 2 ^ 20)
    ++ natBytes 4 (x.seq.toNat + x.xid.toNat * 2 ^ 12 + x.fill.toNat * 2 ^ 24) ++ padTo 256 x.payload

/-- A crossing as a port sends it: 268 bytes, closed by its CRC. Forwarding rewrites VC and SEQ, and with them the CRC (R296). -/
def crossWire (x : Crossing) : List Byte := crossBytes x ++ natBytes 4 (crc32c (crossBytes x))

/-- The CRC of received bytes holds (R295, R297). -/
def crossCrcOk (raw : List Byte) : Bool := bytesNat ((raw.drop 0x108).take 4) == crc32c (raw.take 0x108)

/-- KIND and SEQ of received bytes. -/
def rawKind (raw : List Byte) : Nat := bits (bytesNat (raw.take 4)) 6 3
def rawSeq (raw : List Byte) : Nat := bits (bytesNat ((raw.drop 4).take 4)) 11 0

/-- XID of a slot of a work queue. -/
def xidOf (q slot : Nat) : Nat := q % 32 * 128 + slot % 128

/-- Valid payload bytes of a data crossing. -/
def crossBody (x : Crossing) : List Byte := if x.last then x.payload.take (64 * (x.fill.toNat + 1)) else x.payload

/-- `n` bytes at offset `o` of the payload as a number. -/
def crossNum (x : Crossing) (o n : Nat) : Nat := bytesNat ((x.payload.drop o).take n)

/-! The wiring table (R307). -/

structure Dim where
  shift : Nat
  width : Nat
  /-- Extent. -/
  n     : Nat
  torus : Bool
  plus  : Nat
  minus : Nat

def State.modId (s : State) : Nat := s.rd Pg.routing Reg.Routing.MODID

def State.dim (s : State) (d : Nat) : Dim :=
  let r := Pg.routing
  ⟨s.rd r Reg.Routing.SHIFT [d], s.rd r Reg.Routing.WIDTH [d], s.rd r Reg.Routing.EXT [d] + 1,
    s.rd r Reg.Routing.TORUS [d] = 1, s.rd r Reg.Routing.PMASK [d], s.rd r Reg.Routing.MMASK [d]⟩

def State.dims (s : State) : List Dim := (List.range (s.rd Pg.routing Reg.Routing.DIMS)).map s.dim

/-- A module's coordinate. -/
def Dim.coord (x : Dim) (m : Nat) : Nat := m / 2 ^ x.shift % 2 ^ x.width

/-- The bits of a module identity a dimension uses. -/
def Dim.mask (x : Dim) : Nat := (2 ^ x.width - 1) * 2 ^ x.shift

def State.port (s : State) (p : Nat) : Port := s.ports.getD p Port.fresh
def State.setPort (s : State) (p : Nat) (x : Port) : State := { s with ports := s.ports.set p x }

/-- The port is up; a retrying port is. -/
def State.portUp (s : State) (p : Nat) : Bool := 2 ≤ s.rd (Pg.ferry p) Reg.Ferry.PSTATE

def State.livePorts (s : State) (mask : Nat) : List Nat := (List.range 16).filter fun p => mask.testBit p && s.portUp p

/-- The dimension whose masks name a port. -/
def State.portDim (s : State) (p : Nat) : Option Nat :=
  (s.dims.zipIdx.find? fun e => e.1.plus.testBit p || e.1.minus.testBit p).map (·.2)

/-- Where a crossing goes. -/
inductive Route where
  | here
  /-- Output port, dimension, and whether the hop crosses the dimension's dateline. -/
  | out (port dim : Nat) (dateline : Bool)
  /-- Unroutable (R310). -/
  | lost
  deriving DecidableEq, Repr

/-- Whether the plus direction is taken from coordinate `m` to `c` (R307). -/
def Dim.goesPlus (x : Dim) (c m : Nat) : Bool :=
  if x.torus then
    let f := (((c : Int) - m) % x.n).toNat
    f ≤ x.n - f
  else m < c

def State.route (s : State) (dst src xid : Nat) : Route :=
  let me := s.modId
  let covered := s.dims.foldl (fun a x => a ||| x.mask) 0
  if (dst ^^^ me) &&& (4095 ^^^ (covered &&& 4095)) ≠ 0 ∨ s.dims.any (fun x => x.n ≤ x.coord dst) then .lost
  else
    match s.dims.zipIdx.find? fun e => e.1.coord dst != e.1.coord me with
    | none => .here
    | some (x, d) =>
      let m := x.coord me
      let plus := x.goesPlus (x.coord dst) m
      let live := s.livePorts (if plus then x.plus else x.minus)
      match live[(src + dst + xid) % live.length]? with
      | some p => .out p d (if plus then m + 1 == x.n else m == 0)
      | none => .lost

/-- A crossing enters a port's output queue. -/
def State.enqueue (s : State) (p : Nat) (x : Crossing) : State :=
  let o := s.port p
  s.setPort p { o with out := o.out ++ [x] }

/-- Send a crossing of traffic class `tc` on its way (R307, R308). `inp` is the arrival port and whether it arrived on the
upper VC, for a crossing that is forwarded. One for this module is dropped here: its sender acts locally instead. -/
def State.send (s : State) (tc : Nat) (x : Crossing) (inp : Option (Nat × Bool) := none) : State :=
  match s.route x.dst.toNat x.src.toNat x.xid.toNat with
  | .out p d dl =>
    let up := dl || (match inp with
      | some (q, u) => u && s.portDim q == some d
      | none => false)
    s.enqueue p { x with vc := BitVec.ofNat 3 (2 * tc + bit up), seq := 0 }
  | .here => s
  | .lost => s.count Pg.routing Reg.Routing.UNROUTABLE [] 1

/-- Send a crossing that a queue or engine of polder `pol` originates; DATA payload is charged to the polder (R431). -/
def State.sendFor (s : State) (pol tc : Nat) (x : Crossing) : State :=
  match s.route x.dst.toNat x.src.toNat x.xid.toNat with
  | .out p _ _ =>
    let t := if x.kind = Kind.data ∨ x.kind = Kind.cwData then s.acct pol (16 + p) (crossBody x).length else s
    t.send tc x
  | _ => s.send tc x

/-! Freeze requests (R462, R467). -/

/-- A FREEZE or THAW crossing. -/
def freezeCross (op gen init me : Nat) : Crossing :=
  mkCross Kind.freeze true 0 me 0 0 ([BitVec.ofNat 8 op, 0] ++ natBytes 2 gen ++ natBytes 2 init)

/-- Flood a crossing on every up port but one, ahead of all other traffic. -/
def State.flood (s : State) (x : Crossing) (except : Option Nat) : State :=
  (List.range 16).foldl (fun t p =>
    if t.portUp p && except != some p then t.setPort p { t.port p with out := x :: (t.port p).out } else t) s

/-- A request for a freeze from source `src` of FSRC: pin, register, landing, crossing. -/
def State.requestFreeze (s : State) (src : Nat) : State :=
  let p := Pg.slack
  let st := s.rd p Reg.Slack.FSTATE
  if 2 ≤ st ∨ s.rd Pg.selfTest Reg.SelfTest.STSTATE = 1 ∨ s.rd Pg.security Reg.Security.FWU_BUSY = 1 then s.count p Reg.Slack.FRZ_IGNORED [] 1
  else if st = 1 then s
  else
    let t := (s.wr p Reg.Slack.FSTATE [] 1).wr p Reg.Slack.FSRC [] src
    let t := { t with freeze := { t.freeze with asked := some t.timestamp } }
    if t.rd p Reg.Slack.FRZ_MODE = 1 ∧ src ≠ 3 then
      let g := (t.rd p Reg.Slack.FGEN + 1) % 2 ^ 16
      let t := (t.wr p Reg.Slack.FGEN [] g).wr p Reg.Slack.FINIT [] t.modId
      let t : State := { t with freeze := { t.freeze with known := true } }
      t.flood (freezeCross 1 g t.modId t.modId) none
    else t

end Sys2Proof.Machine
end

