-- ==== Sys2Proof/Machine/Record.lean ====
section
/-! DEFINITION. Bapen records, the trace buffer and Towpath (R478 to R488). -/

namespace Sys2Proof.Machine

/-! The trace buffer. -/

def traceSize : Nat := 8388608

def State.traceUsed (s : State) : Nat := s.trace.foldl (fun n r => n + r.bytes.length) 0

/-- A record: header of R481, payload, padding. -/
def bapen (type pol seq step time key : Nat) (payload : List Byte) : List Byte :=
  let h := natBytes 4 (type + pol * 2 ^ 8) ++ natBytes 4 payload.length ++ natBytes 4 seq ++ natBytes 4 step
    ++ natBytes 8 time ++ natBytes 4 key
  h ++ natBytes 4 (crc32c (h ++ payload)) ++ padTo ((payload.length + 31) / 32 * 32) payload

/-- Put a record into the trace buffer. -/
def State.traceAdd (s : State) (tow : Bool) (type pol key : Nat) (payload : List Byte) : State :=
  let b := bapen type pol s.traceSeq (s.stepNo pol) s.timestamp key payload
  let t := { s with trace := s.trace ++ [TraceRec.mk tow pol b], traceSeq := (s.traceSeq + 1) % 2 ^ 32 }
  t.wr Pg.trace Reg.Trace.OCC [] t.traceUsed

/-- Bytes a record of this payload occupies. -/
def recordBytes (payload : List Byte) : Nat := 32 + (payload.length + 31) / 32 * 32

def State.tow (s : State) (p : Nat) : Towpath := s.towpath.getD p Towpath.idle
def State.setTow (s : State) (p : Nat) (x : Towpath) : State := { s with towpath := s.towpath.set p x }

/-- Count a Towpath record of polder `p` as lost (R479). -/
def State.towLost (s : State) (p : Nat) : State :=
  let w := s.tow p
  let t := s.count Pg.trace Reg.Trace.TP_LOST [] 1
  t.setTow p { w with lost := w.lost + 1, lostStep := if w.lost = 0 then s.stepNo p else w.lostStep }

/-- Admit a Towpath record, after a GAP record when earlier ones were lost (R479). -/
def State.towAdmit (s : State) (p type key : Nat) (payload : List Byte) : State :=
  let w := s.tow p
  let gap := natBytes 4 w.lost ++ natBytes 4 w.lostStep
  let need := recordBytes payload + (if w.lost = 0 then 0 else recordBytes gap)
  if traceSize < s.traceUsed + need then s.towLost p
  else
    let t := if w.lost = 0 then s else (s.traceAdd true 0x09 p 0 gap).setTow p { w with lost := 0 }
    t.traceAdd true type p key payload

/-- Admit a counter snapshot (R479). -/
def State.snapAdmit (s : State) (key : Nat) (payload : List Byte) : State :=
  if traceSize < s.traceUsed + recordBytes payload + 1048576 then s.count Pg.trace Reg.Trace.SNAP_LOST [] 1
  else s.traceAdd false 0x10 0 key payload

/-! Reading the replay source (R486). -/

/-- A record of the replay source: its offset, its fields, its payload, and whether its CRC holds. -/
structure Record where
  off     : Nat
  type    : Nat
  pol     : Nat
  seq     : Nat
  step    : Nat
  key     : Nat
  payload : List Byte
  good    : Bool
  deriving DecidableEq, Repr

def Record.next (r : Record) : Nat := r.off + recordBytes r.payload

def State.rplBase (s : State) (p : Nat) : Nat := s.rd2 Pg.trace Reg.Trace.RPL_LO Reg.Trace.RPL_HI [p]
def State.rplLen (s : State) (p : Nat) : Nat := (s.rd Pg.trace Reg.Trace.RPL_LEN [p] + 1) * 65536

/-- The record at an offset of polder `p`'s replay source; none at its end. -/
def State.recordAt (s : State) (p o : Nat) : Option Record :=
  let len := s.rplLen p
  if len < o + 32 then none
  else
    let h := s.bytesAt (s.rplBase p + o) 32
    let n := dwordAt h 4
    if len < o + 32 + n ∨ (h.getD 0 0).toNat = 0 then none
    else
      let pl := s.bytesAt (s.rplBase p + o + 32) n
      some ⟨o, dwordAt h 0 % 256, dwordAt h 0 / 256 % 4, dwordAt h 8, dwordAt h 12, dwordAt h 24, pl,
        dwordAt h 28 == crc32c (h.take 28 ++ pl)⟩
where
  /-- Little-endian word at byte `i`. -/
  dwordAt (l : List Byte) (i : Nat) : Nat := bytesNat ((l.drop i).take 4)

/-- Records of the source from offset `o` to offset `lim` that satisfy `q`, at most `fuel` records looked at. -/
def State.recordsFrom (s : State) (p lim : Nat) (q : Record → Bool) : Nat → Nat → List Record
  | 0, _ => []
  | f + 1, o =>
    if lim ≤ o then []
    else
      match s.recordAt p o with
      | none => []
      | some r => if q r then r :: State.recordsFrom s p lim q f r.next else State.recordsFrom s p lim q f r.next

/-- Records the verifier can see: 16 MiB from the oldest unmatched one. -/
def State.reach (s : State) (p : Nat) (q : Record → Bool) : List Record :=
  let o := (s.tow p).pos
  s.recordsFrom p (o + 16777216) q 524288 o

/-- A record that verification matches against an input of polder `p`. -/
def Record.matches (r : Record) (p : Nat) : Bool := r.pol == p && r.type != 0x10 && r.type != 0x02 && r.type != 0x09

/-- Mark a record as matched and move past matched and skipped records. -/
def State.useRecord (s : State) (p : Nat) (r : Record) : State :=
  let w := s.tow p
  let t := s.setTow p { w with used := r.off :: w.used }
  let rest := t.reach p fun x => x.matches p && !(t.tow p).used.contains x.off
  let pos := match rest.head? with
    | some x => x.off
    | none => max w.pos r.next
  t.setTow p { t.tow p with pos := pos, used := (t.tow p).used.filter fun o => pos ≤ o }

/-- A divergence of R488. -/
def State.diverge (s : State) (p kind type seq key : Nat) : State :=
  let g := Pg.trace
  let t := s.count g Reg.Trace.DCOUNT [p] 1
  if s.rd g Reg.Trace.DIVERGED [p] = 1 then t
  else
    let t := (t.wr g Reg.Trace.DIVERGED [p] 1).wr g Reg.Trace.DKIND [p] kind
    let t := (t.wr g Reg.Trace.DTYPE [p] type).wr g Reg.Trace.DSEQ [p] seq
    let t := ((t.wr g Reg.Trace.DSTEP [p] (s.stepNo p)).wr g Reg.Trace.DKEY [p] key).setEvent g
    if s.rd g Reg.Trace.DIV_FREEZE [p] = 1 then t.requestFreeze 1 else t

/-- A GAP record in reach covers the polder's step. -/
def State.gapCovers (s : State) (p : Nat) : Bool :=
  !(s.reach p fun r => r.pol == p && r.type == 0x09 && bytesNat ((r.payload.drop 4).take 4) ≤ s.stepNo p).isEmpty

/-- Compare an input with record `r`, none where none is in reach; SIGNALS is left out of remote signals by the caller. -/
def State.compare (s : State) (p type key : Nat) (payload : List Byte) (r : Option Record) : State :=
  match r with
  | none => s.diverge p (if s.gapCovers p then 5 else 3) type 0 key
  | some r =>
    let t := s.useRecord p r
    if !r.good then t.diverge p 4 r.type r.seq r.key
    else if r.type ≠ type ∨ r.key ≠ key then t.diverge p 1 r.type r.seq r.key
    else if r.payload ≠ payload then t.diverge p 0 r.type r.seq r.key
    else t

/-- The next unmatched record of polder `p` with one of the types. -/
def State.nextRecord (s : State) (p : Nat) (types : List Nat) : Option Record :=
  (s.reach p fun r => r.matches p && types.contains r.type && !(s.tow p).used.contains r.off).head?

/-! Inputs (R482, R484). -/

def State.towMode (s : State) (p : Nat) : Nat := s.rd Pg.trace Reg.Trace.MODE [p]

/-- Record or verify an input whose record is the next of its types. -/
def State.inputInOrder (s : State) (p type key : Nat) (payload : List Byte) (types : List Nat) : State :=
  match s.towMode p with
  | 0 => s
  | 1 => s.towAdmit p type key payload
  | _ => s.compare p type key payload (s.nextRecord p types)

/-- A host write or host signal of polder `p`. Inputs that replay itself injected are matched already. -/
def State.hostInput (s : State) (p type : Nat) (payload : List Byte) : State :=
  if s.towMode p = 0 then s
  else
    let w := s.tow p
    let t := s.setTow p { w with hostOrd := w.hostOrd + 1 }
    if s.towMode p = 3 then t else t.inputInOrder p type w.hostOrd payload [0x04, 0x05]

/-- A remote PUT or signal: recorded, or kept for the comparison at the boundary. -/
def State.remoteInput (s : State) (p type key : Nat) (payload : List Byte) : State :=
  match s.towMode p with
  | 0 => s
  | 1 => s.towAdmit p type key payload
  | _ =>
    let w := s.tow p
    s.setTow p { w with remote := w.remote ++ [(type * 2 ^ 32 + key, if type = 0x07 then payload.dropLast.dropLast.dropLast.dropLast else payload)] }

/-- A collective or RESHARD completed: compared with the record of its KEY. -/
def State.collectiveInput (s : State) (p key : Nat) (payload : List Byte) : State :=
  match s.towMode p with
  | 0 => s
  | 1 => s.towAdmit p 0x08 key payload
  | _ =>
    s.compare p 0x08 key payload
      ((s.reach p fun r => r.matches p && r.type == 0x08 && r.key == key && !(s.tow p).used.contains r.off).head?)

/-- Polders whose inputs include landing `n`. -/
def State.landingPolders (s : State) (n : Nat) : List Nat :=
  (List.range 4).filter fun p =>
    s.towMode p != 0 && s.rd Pg.trace Reg.Trace.LFIRST [p] ≤ n && n ≤ s.rd Pg.trace Reg.Trace.LLAST [p]

/-! The chain (R485). -/

def State.bytes32 (s : State) (f : FieldSpec) (ix : List Nat) : List Byte :=
  (List.range 8).flatMap fun i => natBytes 4 (s.rd Pg.trace f (ix ++ [i]))

def State.setBytes32 (s : State) (f : FieldSpec) (ix : List Nat) (v : List Byte) : State :=
  (List.range 8).foldl (fun t i => t.wr Pg.trace f (ix ++ [i]) (bytesNat ((v.drop (4 * i)).take 4))) s

def State.resetChain (s : State) (p : Nat) : State := s.setBytes32 Reg.Trace.CHAIN [p] (List.replicate 32 0)

/-- Write or verify the samples of a polder whose earlier samples are all done, and extend the chain; at most `fuel`. -/
def State.flushSamples (s : State) (p : Nat) : Nat → State
  | 0 => s
  | f + 1 =>
    let w := s.tow p
    match w.samples.find? fun e => e.1 == w.nextSamp with
    | none => s
    | some (n, key, pl) =>
      let t := s.setTow p { w with samples := w.samples.filter fun e => e.1 != n, nextSamp := n + 1 }
      let t := t.inputInOrder p 0x03 key pl [0x03]
      let c := sha256 (t.bytes32 Reg.Trace.CHAIN [p] ++ (pl.drop 32).take 32)
      State.flushSamples (t.setBytes32 Reg.Trace.CHAIN [p] c) p f

/-- A sample of polder `p`, number `ord` in the order of R484, has ended. -/
def State.sampleDone (s : State) (p ord key : Nat) (payload : List Byte) : State :=
  if s.towMode p = 0 then s
  else
    let w := s.tow p
    (s.setTow p { w with samples := w.samples ++ [(ord, key, payload)] }).flushSamples p (w.samples.length + 1)

/-! The boundary (R486). -/

/-- Payload of a remote record as it is compared. -/
def Record.remoteKey (r : Record) : Nat × List Byte :=
  (r.type * 2 ^ 32 + r.key, if r.type = 0x07 then r.payload.take (r.payload.length - 4) else r.payload)

/-- Compare the remote inputs of the step with the records of the step, as multisets. -/
def State.verifyRemote (s : State) (p step : Nat) : State :=
  let w := s.tow p
  let rs := s.reach p fun r => r.matches p && (r.type == 0x06 || r.type == 0x07) && r.step == step && !w.used.contains r.off
  let s := s.setTow p { w with remote := [] }
  let a := w.remote.foldl (fun (a : State × List Record) i =>
    match a.2.find? fun r => r.good && r.remoteKey == i with
    | some r => (a.1.useRecord p r, a.2.filter fun x => x.off != r.off)
    | none => (a.1.diverge p (if a.1.gapCovers p then 5 else 3) (i.1 / 2 ^ 32) 0 (i.1 % 2 ^ 32), a.2)) (s, rs)
  a.2.foldl (fun t r => (t.useRecord p r).diverge p (if r.good then 2 else 4) r.type r.seq r.key) a.1

/-- Towpath's work at a step boundary: `step` is the number of the step just ended. -/
def State.towBoundary (s : State) (p step : Nat) : State :=
  match s.towMode p with
  | 0 => s
  | m =>
    let t := s.setBytes32 Reg.Trace.CHAIN_STEP [p] (s.bytes32 Reg.Trace.CHAIN [p])
    let t := if m = 1 then t else t.verifyRemote p step
    let pd := (List.range 8).flatMap fun i => natBytes 4 (t.rd (Pg.program p) Reg.Program.PROGRAM_DIGEST [i])
    let t := t.inputInOrder p 0x01 0 (pd ++ t.bytes32 Reg.Trace.CHAIN_STEP [p]) [0x01]
    t.setTow p { t.tow p with hostOrd := 0 }

end Sys2Proof.Machine
end

