-- ==== Sys2Proof/Machine/HostMem.lean ====
section
/-! DEFINITION. Host writes to module memory: gather buffers, pool writes and their records (R186, R418 to R423, R484). -/

namespace Sys2Proof.Machine

/-- Record a host access error in the CXL page and raise its interrupt (R419). -/
def State.hostError (s : State) (kind a : Nat) (write : Bool) : State :=
  let p := Pg.cxl
  let t := if kind = 0 then s.count p Reg.Cxl.HOST_UNMAPPED [] 1 else s
  (t.errReg p Reg.Cxl.ERR Reg.Cxl.MULTI
    [(Reg.Cxl.KIND, kind), (Reg.Cxl.WRITE, bit write), (Reg.Cxl.EADDR_LO, a), (Reg.Cxl.EADDR_HI, a / 2 ^ 32)]).setEvent p

/-- A write by the host at a module address: not watched, held back at an uncopied granule, a failed merge recorded. -/
def State.hostStore (s : State) (a : Nat) (bs : List (Option Byte)) : State :=
  let r := s.store ⟨a, bs, isModMem a, hostWriter, 0, 0, none, 0⟩
  match r.2 with
  | some b => r.1.hostError 1 b true
  | none => r.1.asyncTraffic true a bs.length

/-! Records of host writes (R482, R484). -/

/-- Polders with an enabled live region that holds an address. -/
def State.livePolders (s : State) (a : Nat) : List Nat :=
  (List.range 4).filter fun p =>
    s.towMode p != 0 && (List.range 16).any fun r =>
      let b := s.rd Pg.trace Reg.Trace.LIVE_BASE [p, r] * 65536
      s.rd Pg.trace Reg.Trace.LIVE_EN [p, r] == 1 && b ≤ a
        && a < b + (s.rd Pg.trace Reg.Trace.LIVE_LEN [p, r] + 1) * 65536

/-- Payload of a HOST_WRITE record for the lines of a mask, with the lines or their digest. -/
def State.hostPayload (s : State) (a mask : Nat) (full : Bool) : List Byte :=
  let ls := ((List.range 64).filter mask.testBit).flatMap fun i => s.bytesAt (a + 64 * i) 64
  natBytes 8 a ++ natBytes 8 mask ++ (if full then ls else sha256 ls)

/-- Record or verify the lines just written in a block or pool line at `a`, for one polder. -/
def State.hostWritten (s : State) (a mask p : Nat) : State :=
  if s.towMode p = 2 then
    let full := match s.nextRecord p [0x04, 0x05] with
      | some r => r.payload.length != 48
      | none => s.rd Pg.trace Reg.Trace.HOSTW [p] == 1
    s.hostInput p 0x04 (s.hostPayload a mask full)
  else s.hostInput p 0x04 (s.hostPayload a mask (s.rd Pg.trace Reg.Trace.HOSTW [p] == 1))

/-! Gather buffers (R421). -/

/-- Lines of a block that a buffer has bytes of. -/
def GatherBuf.mask (b : GatherBuf) : Nat := b.data.foldl (fun m e => m ||| 2 ^ (e.1 / 64)) 0

/-- Bytes of a buffer from its first to its last offset. -/
def GatherBuf.span (b : GatherBuf) : Nat × List (Option Byte) :=
  let lo := ((b.data.head?.map fun e => e.1)).getD 0
  let hi := ((b.data.getLast?.map fun e => e.1)).getD 0
  (lo, (List.range (hi + 1 - lo)).map fun i => sget (fun _ => none) (b.data.map fun e => (e.1, some e.2)) (lo + i))

/-- A gathered block is written: whole with a new check value, or merged (R184, R186). -/
def State.flushBuf (s : State) (b : GatherBuf) : State :=
  let t := { s with gather := s.gather.filter fun x => x.buf != b.buf }
  let t := if b.data.length = 4096 then t else t.count Pg.cxl Reg.Cxl.GATHER_PARTIAL [] 1
  let t := t.hostStore (b.block + b.span.1) b.span.2
  (s.livePolders b.block).foldl (fun t p => t.hostWritten b.block b.mask p) t

/-- Write every gather buffer to memory, oldest first (R423). -/
def State.drainGather (s : State) : State := s.gather.foldl State.flushBuf s

/-- The byte a host read sees: a buffered one, else memory's. -/
def State.hostByte (s : State) (a : Nat) : Byte :=
  match s.gather.find? fun b => b.block == blockOf a with
  | some b => sget (fun _ => s.byteAt a) b.data (a % 4096)
  | none => s.byteAt a

/-- A free buffer number. -/
def State.freeBuf (s : State) : Option Nat := (List.range 16).find? fun i => !s.gather.any fun b => b.buf == i

/-- A buffer with the enabled bytes of a write at offset `o` of its block. -/
def GatherBuf.put (b : GatherBuf) (o : Nat) (bs : List (Option Byte)) : GatherBuf :=
  { b with data := bs.zipIdx.foldl (fun d e =>
      match e.1 with
      | some v => sins (o + e.2) v (sdrop d (o + e.2))
      | none => d) b.data }

/-- The block has a buffer; a seventeenth block first writes the oldest out. -/
def State.openBuf (s : State) (blk : Nat) : State :=
  if s.gather.any fun b => b.block == blk then s
  else
    let t := match s.freeBuf, s.gather.head? with
      | none, some b => s.flushBuf b
      | _, _ => s
    { t with gather := t.gather ++ [GatherBuf.mk (t.freeBuf.getD 0) blk []] }

/-- Bytes of a host line into its block's buffer, which is written once it is full. -/
def State.gatherLine (s : State) (a : Nat) (bs : List (Option Byte)) : State :=
  let t := s.openBuf (blockOf a)
  let g := t.gather.map fun b => if b.block = blockOf a then b.put (a % 4096) bs else b
  let u : State := { t with gather := g }
  match g.find? fun b => b.block == blockOf a && b.data.length == 4096 with
  | some b => u.flushBuf b
  | none => u

/-- A host write of up to 64 bytes at a module address that is populated. -/
def State.hostLine (s : State) (a : Nat) (bs : List (Option Byte)) : State :=
  if isModMem a then s.gatherLine a bs
  else
    let t := s.hostStore a bs
    (s.livePolders a).foldl (fun t p => t.hostWritten (a / 64 * 64) 1 p) t

end Sys2Proof.Machine
end

