-- ==== Sys2Proof/Machine/Landing.lean ====
section
/-! DEFINITION. Landings: signals, registrations, gates, timeouts and the host's lines (R272 to R292, R426). -/

namespace Sys2Proof.Machine

/-- The module's functions stand still: a hold or a Slack freeze is in force. -/
def State.still (s : State) : Bool := s.frozen || s.hold.now.isSome

/-- Module address of landing object `n`. -/
def landingAddr (n : Nat) : Nat := 0x010900000000 + 64 * n

/-- The word at offset 0x08 of a landing object (R272). -/
def lastWord (mod_ die clu unit gate : Nat) : Nat :=
  mod_ % 4096 + die % 8 * 2 ^ 12 + clu % 8 * 2 ^ 15 + unit % 16 * 2 ^ 18 + gate % 32 * 2 ^ 22

/-- Last signaller of a hub agent: unit code of R272 and queue or polder. -/
def State.hubLast (s : State) (unit gate : Nat) : Nat := lastWord s.modId 4 0 unit gate

/-! The operation queue (R277, R283). -/

def opBefore (a b : QueuedOp) : Bool := a.due < b.due || (a.due == b.due && a.rank ≤ b.rank)

def insertOp (x : QueuedOp) : List QueuedOp → List QueuedOp
  | [] => [x]
  | y :: r => if opBefore y x then y :: insertOp x r else x :: y :: r

/-- An operation that reaches the landing unit `wait` SCLK from now. -/
def State.queueOp (s : State) (wait rank : Nat) (op : LandingOp) : State :=
  { s with landingQ := insertOp ⟨s.timestamp + wait, rank, op⟩ s.landingQ }

/-- Places in the order of R277: hub agents by slot, gates, host, Ferry ports. -/
def rankHub (slot : Nat) : Nat := slot
def rankGate (core g : Nat) : Nat := 32 + 32 * core + g
def rankHost : Nat := 8224
def rankPort (p : Nat) : Nat := 8225 + p

/-- A hub agent signals landing `n` with INC 1 and ADV 0. -/
def State.hubSignal (s : State) (n slot unit gate : Nat) : State :=
  s.queueOp 0 (rankHub slot) (.signal n 1 false (BitVec.ofNat 32 (s.hubLast unit gate)))

/-- A hub agent registers. -/
def State.hubRegister (s : State) (n slot : Nat) (who : WaitWho) (claim : Bool) (v : Nat) (left : Option Nat) : State :=
  s.queueOp 0 (rankHub slot) (.register n slot ⟨who, claim, BitVec.ofNat 32 v, left⟩)

/-- A timeout register's value in SCLK; 0 is no timeout. -/
def timeoutOf (v : Nat) : Option Nat := if v = 0 then none else some (1024 * v)

/-! Mirror lines (R290). -/

/-- The object words of a landing (R272), 64 bytes. -/
def Landing.bytes (l : Landing) : List Byte :=
  natBytes 4 l.count.toNat ++ natBytes 4 (l.gen.toNat + bit (l.waiters.any fun w => w.2.claim) * 2 ^ 16)
    ++ natBytes 4 l.last.toNat ++ natBytes 4 l.signals.toNat
    ++ natBytes 4 (l.waiters.foldl (fun m w => m ||| 2 ^ w.1) 0) ++ List.replicate 44 0

def State.hostLinesOf (s : State) (n : Nat) : HostLines := sget (fun _ => HostLines.reset) s.hostLines n
def State.setHostLines (s : State) (n : Nat) (h : HostLines) : State :=
  { s with hostLines := sset (fun _ => HostLines.reset) s.hostLines n h }

/-- Write the mirror line of a host-visible landing, whether or not HOST_EN lets the module read the host's lines (R289). -/
def State.mirror (s : State) (n : Nat) : State :=
  if n < 1024 then
    let h := s.hostLinesOf n
    let b := (s.landing n).bytes
    s.toHost (.write (s.rd2 Pg.landings Reg.Landings.HL_BASE_LO Reg.Landings.HL_BASE_HI + 64 * n)
      (b.take 20 ++ natBytes 2 h.endSeq ++ natBytes 1 h.endHow ++ b.drop 23))
  else s

/-- Remove a waiter from every wait list, whose mirror lines follow, and from the queue of operations. -/
def State.dropWaiter (s : State) (who : WaitWho) : State :=
  let ls := s.landings.map fun e => (e.1, { e.2 with waiters := e.2.waiters.filter fun w => w.2.who != who })
  let t : State := { s with
    landings := ls.filter fun e => e.2 != Landing.reset
    landingQ := s.landingQ.filter fun q =>
      match q.op with
      | .register _ _ w => w.who != who
      | .signal _ _ _ _ => true }
  ((s.landings.filter fun e => e.2.waiters.any fun w => w.2.who == who).map (·.1)).foldl State.mirror t

/-- A host wait ends: 0 released, 1 timed out, 2 refused. -/
def State.hostWaitEnds (s : State) (n wseq how : Nat) : State :=
  s.setHostLines n { s.hostLinesOf n with endSeq := wseq, endHow := how }

/-! Releases (R276, R279, R288). -/

/-- Scan a wait list: what is left, and who is released, in ascending slot. -/
def scanWaiters : Word → List (Nat × Waiter) → Word × List (Nat × Waiter) × List Waiter
  | c, [] => (c, [], [])
  | c, (i, w) :: r =>
    let free := if w.claim then 1 ≤ c.toNat && c.toNat < 2 ^ 31 else (c - w.v).toNat < 2 ^ 31
    if free then
      let q := scanWaiters (if w.claim then c - 1 else c) r
      (q.1, q.2.1, w :: q.2.2)
    else
      let q := scanWaiters c r
      (q.1, (i, w) :: q.2.1, q.2.2)

/-- GSTATE and RELEASES of a gate (R291). -/
def State.setGate (s : State) (c g v : Nat) : State := s.wr (Pg.core c) Reg.Core.GSTATE [g] v

/-- What a release does for its waiter, before the mirror line is written. -/
def State.release (s : State) (n : Nat) (w : Waiter) : State :=
  match w.who with
  | .gate c g =>
    let t := (s.setGate c g 2).wr (Pg.core c) Reg.Core.RELEASES [g] (s.rd (Pg.core c) Reg.Core.RELEASES [g] + 1)
    { t with releases := t.releases ++ [(t.timestamp + 12, c, g)] }
  | .host q _ => s.hostWaitEnds n q 0
  | .freeze => { s with freeze := { s.freeze with waiter := false } }
  | _ => { s with granted := s.granted ++ [w.who] }

/-- What follows the mirror line: MSI-X for a host wait, a freeze request for the freeze waiter. -/
def State.afterMirror (s : State) (w : Waiter) : State :=
  match w.who with
  | .host _ v => s.toHost (.msix v)
  | .freeze => if s.rd Pg.slack Reg.Slack.FRZ_LEN = 1 then s.requestFreeze 2 else s
  | _ => s

/-- Scan the wait list of landing `n` and act on the releases. -/
def State.scan (s : State) (n : Nat) : State :=
  let l := s.landing n
  let q := scanWaiters l.count l.waiters
  let t := s.setLanding n { l with count := q.1, waiters := q.2.1 }
  let t := q.2.2.foldl (fun t w => t.release n w) t
  q.2.2.foldl (fun t w => t.afterMirror w) (t.mirror n)

/-! Signals (R274). -/

/-- CPHASE turns to BACKWARD at the first signal applied to BWD_LANDING (R358). -/
def State.noteBackward (s : State) (n : Nat) : State :=
  (List.range 4).foldl (fun t p =>
    let g := Pg.phase p
    if t.rd g Reg.Phase.BWD_EN = 1 ∧ t.rd g Reg.Phase.BWD_LANDING = n ∧ (t.polder p).live then
      t.wr g Reg.Phase.CPHASE [] 1
    else t) s

/-- Towpath's record of a host or remote signal (R482). -/
def State.noteSignal (s : State) (n inc : Nat) (adv : Bool) (last : Nat) : State :=
  let sig := natBytes 4 inc ++ natBytes 4 (bit adv) ++ natBytes 4 (s.landing n).signals.toNat
  if bits last 11 0 ≠ s.modId then
    (s.landingPolders n).foldl (fun t p => t.remoteInput p 0x07 n (natBytes 4 (bits last 11 0) ++ sig)) s
  else if bits last 21 18 = 8 ∧ bits last 14 12 = 4 then
    (s.landingPolders n).foldl (fun t p => t.hostInput p 0x05 (natBytes 4 n ++ sig)) s
  else s

/-- Apply a signal. -/
def State.applySignal (s : State) (n inc : Nat) (adv : Bool) (last : Word) : State :=
  let l := s.landing n
  let t := s.setLanding n { l with
    count := l.count + BitVec.ofNat 32 inc
    gen := if adv then l.gen + 1 else l.gen
    last := last
    signals := l.signals + 1 }
  ((t.noteSignal n inc adv last.toNat).noteBackward n).scan n

/-! Registrations (R275). -/

/-- Record a landing error in the hub landing page: KIND 0 timeout, 1 stale tag, 2 slot occupied, 3 mixed. -/
def State.landingErr (s : State) (kind n slot : Nat) : State :=
  s.errReg Pg.landings Reg.Landings.ERR Reg.Landings.MULTI
    [(Reg.Landings.KIND, kind), (Reg.Landings.LANDING, n), (Reg.Landings.SLOT, slot)]

/-- A landing fault of a waiter: in the waiting core's page, a queue's page and its home's (R335, R363), or the hub landing page
for another hub agent. -/
def State.waiterFault (s : State) (n : Nat) (who : WaitWho) (code : Nat) (lone : Bool) : State :=
  match who with
  | .gate c g => (s.setGate c g 0).raise ⟨Pg.core c, code, 8, c % 8, g, noPc, landingAddr n, none, false⟩
  | .sequencer => s.raise ⟨Pg.landings, code, 10, 0, 0, noPc, landingAddr n, none, lone⟩
  | .workq q => s.queueFault Pg.workQ 9 q (s.workHome q) code (landingAddr n)
  | .sluice q => s.queueFault Pg.sluiceQ 11 q (s.sluiceHome q) code (landingAddr n)
  | _ => s.raise ⟨Pg.landings, code, 15, 0, 0, noPc, landingAddr n, none, lone⟩

/-- A registration that finds its slot occupied (`kind` 2) or the other kind of waiter (3): a fault, or for the host a
refusal (R289). -/
def State.refuseWaiter (s : State) (n slot : Nat) (w : Waiter) (kind : Nat) : State :=
  match w.who with
  | .host q v => (((s.landingErr kind n slot).hostWaitEnds n q 2).mirror n).toHost (.msix v)
  | _ => (if kind = 2 then s.landingErr 2 n slot else s).waiterFault n w.who (if kind = 2 then 0x07 else 0x01) false

/-- Put a waiter into a wait list, slots ascending. -/
def insertWaiter (slot : Nat) (w : Waiter) : List (Nat × Waiter) → List (Nat × Waiter)
  | [] => [(slot, w)]
  | e :: r => if e.1 < slot then e :: insertWaiter slot w r else (slot, w) :: e :: r

/-- Slot of a landing that a hub unit takes, though it stands in no wait list: slot 10 or 11 where a queue claims the landing
(R313, R337), slot 15 where the sequencer has been granted a descriptor and claims again (R288). -/
def State.hubSlot (s : State) (n slot : Nat) : Bool :=
  match slot with
  | 10 => (List.range 8).any fun q => s.rd Pg.sluiceQ Reg.SluiceQ.QEN [q] == 1 && s.rd Pg.sluiceQ Reg.SluiceQ.QLANDING [q] == n
  | 11 => (List.range 32).any fun q => s.rd Pg.workQ Reg.WorkQ.QEN [q] == 1 && s.rd Pg.workQ Reg.WorkQ.QLANDING [q] == n
  | 15 => s.granted.contains .sequencer && s.rd Pg.wharf Reg.Wharf.IQ_LANDING == n
  | _ => false

/-- The waiter is a program's gate. -/
def Waiter.isGate (w : Waiter) : Bool := match w.who with
  | .gate _ _ => true
  | _ => false

/-- Apply a registration. -/
def State.applyRegister (s : State) (n slot : Nat) (w : Waiter) : State :=
  let l := s.landing n
  if (w.isGate && s.hubSlot n slot) || l.waiters.any fun e => e.1 == slot then s.refuseWaiter n slot w 2
  else if l.waiters.any fun e => e.2.claim != w.claim then s.refuseWaiter n slot w 3
  else (s.setLanding n { l with waiters := insertWaiter slot w l.waiters }).scan n

/-- Apply an operation. -/
def State.applyOp (s : State) : LandingOp → State
  | .signal n inc adv last => s.applySignal n inc adv last
  | .register n slot w => s.applyRegister n slot w

/-- The operation that the landing unit applies in this SCLK: the head of its queue, once its SCLK has come, where none has
been applied yet (R277, R282). -/
def State.landingOp (s : State) : Option (LandingOp × List QueuedOp) :=
  match s.landingQ with
  | q :: r => if q.due ≤ s.timestamp ∧ s.landingDone = false then some (q.op, r) else none
  | [] => none

/-- The landing unit applies operation `op`, after which `r` is queued. -/
def State.landingStep (s : State) (op : LandingOp) (r : List QueuedOp) : State :=
  { s with landingQ := r, landingDone := true }.applyOp op

/-- SIGNAL (R274, R277): the landing unit applies the signal at the head of its queue. -/
def execSignal (s : State) : Host.Outcome State Fault Refusal :=
  .next <|
    match if s.still then none else s.landingOp with
    | some (.signal n inc adv last, r) => s.landingStep (.signal n inc adv last) r
    | _ => s

/-- REGISTRATION (R275, R277): the landing unit applies the registration at the head of its queue. -/
def execRegistration (s : State) : Host.Outcome State Fault Refusal :=
  .next <|
    match if s.still then none else s.landingOp with
    | some (.register n slot w, r) => s.landingStep (.register n slot w) r
    | _ => s

/-! Gates (R278, R279). -/

/-- Gate entry of 32 bytes. -/
def gateOf (b : List Byte) : Gate :=
  let w := fun i => dword b (4 * i)
  ⟨bits (w 0) 1 0, bits (w 0) 2 2 = 1, bits (w 0) 3 3 = 1, bits (w 0) 9 4, bits (w 0) 15 10, bits (w 0) 19 16,
    bits (w 0) 31 20, bits (w 1) 12 0, bits (w 1) 28 13, w 2, w 3, bits (w 4) 19 0⟩

/-- An entry that the latch does not find malformed. -/
def gateOk (b : List Byte) : Bool :=
  let g := gateOf b
  let w := fun i => dword b (4 * i)
  g.kind == 0
    || (bits (w 1) 31 29 == 0 && bits (w 4) 31 20 == 0 && (b.drop 20).all (· == 0)
      && (if g.kind = 1 then g.inc != 0 else g.timeout != 0))

def State.gate (s : State) (c g : Nat) : Gate := sget (fun _ => Gate.off) s.gates (32 * c + g)

/-- Latch the gate table of core `c` at a step's restart. -/
def State.latchGates (s : State) (c : Nat) : State :=
  let ok := s.valid c 0x5FF
  (List.range 32).foldl (fun t g =>
    let a := poolAddr c (0x5FF000 + 32 * g)
    let b := t.bytesAt a 32
    let x := if ok && gateOk b then gateOf b else Gate.off
    let t : State := { t with gates := sset (fun _ => Gate.off) t.gates (32 * c + g) x }
    let t := ((t.setGate c g 0).wr (Pg.core c) Reg.Core.LATCHED [g] (bit ok)).wr (Pg.core c) Reg.Core.RELEASES [g] 0
    if ok && !gateOk b then t.raise ⟨Pg.core c, 0x01, 8, c % 8, g, noPc, a, none, false⟩ else t) s

/-- The agent of core `c` may fire. -/
def State.agentRuns (s : State) (c : Nat) : Bool :=
  let p := s.polder (s.polderOfCore c)
  !s.still && p.live && s.faultFree p

/-- Gate `g` can fire (R279). -/
def State.gateReady (s : State) (c g : Nat) : Bool :=
  let x := s.gate c g
  x.kind != 0 && s.token c x.tok != 0 && (x.kind == 1 || s.rd (Pg.core c) Reg.Core.GSTATE [g] == 0)

/-- The lowest-numbered gate that can fire. -/
def State.firstGate (s : State) (c : Nat) : Option Nat := (List.range 32).find? fun g => s.gateReady c g

/-- Send the signal of gate `g`. -/
def State.gateSignal (s : State) (c g : Nat) (x : Gate) : State :=
  let last := lastWord s.modId (c / 64) (c / 8 % 8) (c % 8) g
  if x.remote && x.modid != s.modId then
    s.send 0 (mkCross Kind.signal true x.modid s.modId 0 0
      (natBytes 4 (x.landing + x.inc * 2 ^ 13 + bit x.adv * 2 ^ 29) ++ natBytes 4 (last / 2 ^ 12 * 2 ^ 12)))
  else s.queueOp 20 (rankGate c g) (.signal x.landing x.inc x.adv (BitVec.ofNat 32 last))

/-- SIGNAL_GATE_FIRE (R279). -/
def execSignalGateFire (core : CoreId) (s : State) : Host.Outcome State Fault Refusal :=
  let c := core.val
  .next <|
    match s.firstGate c with
    | some g =>
      let x := s.gate c g
      if s.agentRuns c && x.kind == 1 then (s.setToken c x.tok (s.token c x.tok - 1)).gateSignal c g x else s
    | none => s

/-- Register wait gate `g`: threshold V + r × VSTEP for a value wait. -/
def State.gateRegister (s : State) (c g : Nat) (x : Gate) : State :=
  let r := s.rd (Pg.core c) Reg.Core.RELEASES [g]
  (s.setGate c g 1).queueOp 20 (rankGate c g)
    (.register x.landing x.widx
      ⟨.gate c g, x.kind == 3, BitVec.ofNat 32 (x.v + r * x.vstep), timeoutOf x.timeout⟩)

/-- WAIT_GATE_FIRE (R279). -/
def execWaitGateFire (core : CoreId) (s : State) : Host.Outcome State Fault Refusal :=
  let c := core.val
  .next <|
    match s.firstGate c with
    | some g =>
      let x := s.gate c g
      if s.agentRuns c && x.kind != 1 then (s.setToken c x.tok (s.token c x.tok - 1)).gateRegister c g x else s
    | none => s

/-- RELEASE_POST (R282): 12 SCLK after it, the oldest release posts to its gate's RTOK. -/
def execReleasePost (s : State) : Host.Outcome State Fault Refusal :=
  .next <|
    if s.still then s
    else
      match s.releases with
      | (due, c, g) :: r =>
        if s.timestamp < due then s
        else
        let t := { s with releases := r }.setGate c g 0
        let k := (s.gate c g).rtok
        if t.token c k = 255 then t.raise ⟨Pg.core c, 0x08, 8, c % 8, g, noPc, k, none, false⟩
        else t.setToken c k (t.token c k + 1)
      | [] => s

/-! Timeouts (R284, R288 to R290, R510). -/

/-- The commit's wait at its landing ends without a release. -/
def State.commitTimesOut (s : State) : State :=
  ({ s with commit := none }.wr Pg.commit Reg.Commit.CSTATE [] 7).setEvent Pg.commit

/-- A waiter in a slot outlasts its timeout. -/
def State.waitTimesOut (s : State) (n slot : Nat) (w : Waiter) : State :=
  let l := s.landing n
  let t := s.setLanding n { l with waiters := l.waiters.filter fun e => e.1 != slot }
  match w.who with
  | .gate _ _ => ((t.landingErr 0 n slot).waiterFault n w.who 0x0D false).mirror n
  | .sequencer =>
    (((t.landingErr 0 n slot).waiterFault n w.who 0x0D false).mirror n).queueOp 0 (rankHub slot)
      (.register n slot { w with left := timeoutOf (s.rd Pg.wharf Reg.Wharf.IQ_TIMEOUT) })
  | .commit => ((t.landingErr 0 n slot).waiterFault n w.who 0x0D true).commitTimesOut.mirror n
  | .freeze =>
    (({ t with freeze := { t.freeze with waiter := false } }.landingErr 0 n slot).waiterFault n w.who 0x0D true).mirror n
  | .host q v => (((t.landingErr 0 n slot).hostWaitEnds n q 1).mirror n).toHost (.msix v)
  | _ => s

/-- The operation of this SCLK releases the waiter in a slot of landing `n` (R284). -/
def State.releasedNow (s : State) (n slot : Nat) : Bool :=
  match s.landingOp with
  | some (op, r) => !((s.landingStep op r).landing n).waiters.any fun e => e.1 == slot
  | none => false

/-- LANDING_TIMEOUT (R284): the wait in a slot of landing `n` outlasts its timeout, unless it is released in the same SCLK. -/
def execLandingTimeout (n : LandingId) (slot : SlotId) (s : State) : Host.Outcome State Fault Refusal :=
  .next <|
    if s.still || s.releasedNow n.val slot.val then s
    else
      match (s.landing n.val).waiters.find? fun e => e.1 == slot.val && e.2.left.isSome with
      | some e => s.waitTimesOut n.val slot.val e.2
      | none => s

/-! The host's lines (R289, R426). -/

/-- HOST_SNOOP (R426): a host write takes a cached signal line away. -/
def execHostSnoop (n : HostLandingId) (s : State) : Host.Outcome State Fault Refusal :=
  .next (s.setHostLines n.val { s.hostLinesOf n.val with cached := false })

/-- The operations a change of the totals stands for: `d` increments and `a` generation advances (R289). -/
def hostOps (n d a : Nat) (last : Word) : List LandingOp :=
  let k := (d + 65534) / 65535
  ((List.range k).map fun i =>
    .signal n (if i + 1 = k then d - 65535 * (k - 1) else 65535) (k - min a k ≤ i) last)
    ++ List.replicate (a - k) (.signal n 0 true last)

/-- HOST_SIGNAL_LINE_READ (R289): the module reads a line it has lost, and applies what changed. The first read after
HOST_EN was set takes the baseline; the shutdown self-test reads no lines (R404). -/
def execHostSignalLineRead (n : HostLandingId) (line : HostLine) (s : State) : Host.Outcome State Fault Refusal :=
  .next <|
    let h := s.hostLinesOf n.val
    if s.frozen || s.rd Pg.landings Reg.Landings.HOST_EN != 1 || h.cached || s.rd Pg.selfTest Reg.SelfTest.STSTATE == 1 then s
    else
      let seen := { h with
        based := true, cached := true, stotal := line.stotal.toNat, atotal := line.atotal.toNat, wseq := line.wseq.toNat }
      let t := s.drainGather.setHostLines n.val seen
      let d := (line.stotal.toNat + 2 ^ 32 - h.stotal) % 2 ^ 32
      let a := (line.atotal.toNat + 2 ^ 16 - h.atotal) % 2 ^ 16
      let changed := d != 0 || a != 0 || line.wseq.toNat != h.wseq
      if !h.based || !changed then t
      else if (t.landingPolders n.val).any fun p => t.towMode p == 3 then
        t.count Pg.trace Reg.Trace.TP_IGNORED [] 1
      else
        let last := BitVec.ofNat 32 (t.hubLast 8 0)
        let t := (hostOps n.val d a last).foldl (fun t op => t.queueOp 0 rankHost op) t
        if line.wseq.toNat = h.wseq then t
        else t.queueOp 0 rankHost (.register n.val 12
          ⟨.host line.wseq.toNat line.vec.toNat, false, line.waitv, timeoutOf line.timeout.toNat⟩)

end Sys2Proof.Machine
end

