-- ==== Sys2Proof/Machine/Cut.lean ====
section
/-! DEFINITION. The Staithe cut at a step boundary and the phase record that follows it (R251, R361, R366 to R369, R480). -/

namespace Sys2Proof.Machine

/-- STATE of a polder. -/
def State.runState (s : State) (p : Nat) : Nat := s.rd (Pg.program p) Reg.Program.STATE

/-- Entry `i` of polder `p`'s region table (R367): base address, granules, CVM. -/
def State.region (s : State) (p i : Nat) : Nat × Nat × Bool :=
  let a := s.rd2 (Pg.staithe p) Reg.Staithe.RTAB_LO Reg.Staithe.RTAB_HI + 16 * i
  let w := s.numAt a 8
  (bits w 47 16 * 65536, bits (s.numAt (a + 8) 4) 19 0 + 1, bits (s.numAt (a + 12) 1) 0 0 = 1)

def State.regions (s : State) (p : Nat) : List (Nat × Nat × Bool) :=
  (List.range (s.rd (Pg.staithe p) Reg.Staithe.NREG + 1)).map fun i => s.region p i

/-- Base address and bytes of local area `a`. -/
def State.localArea (s : State) (p a : Nat) : Nat × Nat :=
  (s.rd2 (Pg.staithe p) Reg.Staithe.LOCAL_LO Reg.Staithe.LOCAL_HI [a], (s.rd (Pg.staithe p) Reg.Staithe.AREA_G + 1) * 65536)

/-- Polders a snapshot of which is not yet complete (R373). -/
def State.snap (s : State) (p : Nat) : Snap := s.snaps.getD p Snap.none
def State.setSnap (s : State) (p : Nat) (x : Snap) : State := { s with snaps := s.snaps.set p x }

/-- Writer codes of the hub's units (R201): other hub unit. -/
def hubWrite (a : Nat) (bs : List Byte) (cvm : Bool) : StalledWrite := ⟨a, bs.map some, cvm, 4, 0, 15, none, 0⟩

/-- Every line in [a, a + n) is populated. -/
def State.populated (s : State) (a n : Nat) : Bool := (linesOf a n).all fun l => (s.phys l).isSome

/-- The first block of some ranges whose tag is older than its landing (R286). -/
def State.staleIn (s : State) (rs : List (Nat × Nat)) : Option Nat :=
  (rs.flatMap fun r => (List.range ((r.1 + r.2 - 1) / 4096 - r.1 / 4096 + 1)).map fun i => (r.1 / 4096 + i) * 4096).find? s.staleTag

/-- Slots that an access of the Staithe engine takes (R257, R370): the copies of a hold take none (R371). -/
def State.copyTraffic (s : State) (write : Bool) (a n : Nat) : State :=
  if s.hold.now.isSome then s else s.asyncTraffic write a n

/-- The Staithe engine writes an area: whole blocks with check values (R370); none where the write fails. Its writes wait for no
copy (R371). -/
def State.areaWrite (s : State) (a : Nat) (bs : List Byte) : Option State :=
  if !s.populated a bs.length then none
  else
    let r := s.storeNow (hubWrite a bs true)
    if r.2.isSome then none else some (r.1.copyTraffic true a bs.length)

/-- A Staithe error is recorded and abandons no step (R385). -/
def State.stError (s : State) (p a : Nat) : State := s.raise ⟨Pg.staithe p, 0x4A, 14, 0, 0, noPc, a, none, true⟩

/-- The snapshot in progress stops and is never complete (R372). -/
def State.snapStop (s : State) (p a : Nat) : State :=
  let t : State := { s with
    uncopied := s.uncopied.filter fun u => u.1 != p
    stPuts := s.stPuts.filter fun x => x.pol != p || x.send }
  ((t.setSnap p { t.snap p with active := false }).wr (Pg.staithe p) Reg.Staithe.SFAIL [] 1).stError p a

/-- Recorded landings SLFIRST to SLLAST. -/
def State.recorded (s : State) (p : Nat) : List Nat :=
  let f := s.rd (Pg.staithe p) Reg.Staithe.SLFIRST
  let l := s.rd (Pg.staithe p) Reg.Staithe.SLLAST
  (List.range (l + 1 - f)).map (f + ·)

/-- Cores of a polder, ascending. -/
def State.coresOf (s : State) (p : Nat) : List Nat := (s.diesOf p).flatMap fun d => (List.range 64).map (64 * d + ·)

/-- Shard bytes 0x1000 to 0xFFFF: the region table and the state record (R375). -/
def State.granuleZero (s : State) (p : Nat) : List Byte :=
  let rt := s.rd2 (Pg.staithe p) Reg.Staithe.RTAB_LO Reg.Staithe.RTAB_HI
  let tab := s.bytesAt rt (16 * (s.rd (Pg.staithe p) Reg.Staithe.NREG + 1))
  let toks := (s.coresOf p).flatMap fun c => (List.range 64).map fun t => BitVec.ofNat 8 (s.token c t)
  let ls := (s.recorded p).flatMap fun n =>
    natBytes 4 (s.landing n).count.toNat ++ natBytes 2 (s.landing n).gen.toNat ++ [0, 0]
  padTo 0x1000 tab ++ padTo 0xE000 (padTo 0x40 (natBytes 4 (s.stepNo p)) ++ padTo 0x4000 toks ++ ls)

/-- Step `s` of the snapshot begins: its granules are uncopied, its state record stands in its area (R369), unless the
write of the record fails (R372). -/
def State.snapCut (s : State) (p : Nat) : State :=
  let g := Pg.staithe p
  let st := s.stepNo p
  let a := st % 2
  let body := (s.regions p).flatMap fun r => (List.range r.2.1).map fun i => (r.1 + 65536 * i, r.2.2)
  let zero := s.granuleZero p
  let w := s.areaWrite ((s.localArea p a).1 + 0x1000) zero
  let t := w.getD s
  let fresh := body.map fun b => (p, b.1 / 65536)
  let t : State := { t with uncopied := (t.uncopied.filter fun u => u.1 != p) ++ fresh }
  let t := t.setSnap p { Snap.none with
    area := a, step := st, body := body, digests := [(0, sha256 zero)], active := true }
  let t := ((t.wr g Reg.Staithe.LVALID [a] 0).wr g Reg.Staithe.RVALID [a] 0).wr g Reg.Staithe.SSTATE [] 1
  let t := (t.wr g Reg.Staithe.SFAIL [] 0).wr g Reg.Staithe.SSTEP [] st
  let t := (t.wr g Reg.Staithe.COPIED [] 0).wr g Reg.Staithe.SENT [] 0
  if w.isNone then t.snapStop p (s.localArea p a).1 else t

/-- The phase record of the step just ended (R361). -/
def State.phaseRecord (s : State) (p : Nat) : State :=
  let g := Pg.phase p
  if s.rd g Reg.Phase.HREC_EN = 1 then
    let n := s.rd g Reg.Phase.HREC_NEXT
    let a := s.rd2 g Reg.Phase.HREC_LO Reg.Phase.HREC_HI + 64 * (n % 2 ^ s.rd g Reg.Phase.HREC_LOG2)
    let body := natBytes 4 (s.stepNo p + 2 ^ 32 - 1) ++ natBytes 4 (s.modId + p * 2 ^ 12)
      ++ (List.range 13).flatMap (fun i => natBytes 4 (s.rd g Reg.Phase.LIVE [i])) ++ natBytes 4 0
    (s.toHost (.write a body)).wr g Reg.Phase.HREC_NEXT [] (n + 1)
  else s

/-- What a step leaves behind in the cores and clusters of a polder is closed: the streams still armed are disarmed (R193), and no
Silt session survives (R169). -/
def State.closeStep (s : State) (p : Nat) : State :=
  let mine := (s.streams.map (·.1)).filter fun k => k / 8 < 256 && s.polderOfCore (k / 8) == p
  let t := mine.foldl (fun t k => if (t.stream (k / 8) (k % 8)).armed then t.disarmNow (k / 8) (k % 8) else t) s
  ((t.silt.map (·.1)).filter fun cl => s.polderOfDie (cl / 8) == p).foldl (fun t cl => t.setSilt cl Silt.closed) t

/-- What a boundary does from its fourth action on, less the restart: the cut, the STEP record of Towpath, the phase record,
the trigger of a counter snapshot, and the disarming of its fifth, which a polder that stays idle makes as well. -/
def State.takeCut (s : State) (p : Nat) : State :=
  let t := s.setPolder p { s.polder p with cutDue := false }
  let t := if t.rd (Pg.staithe p) Reg.Staithe.SNAP_EN = 1 then t.snapCut p else t
  let t := (t.towBoundary p ((t.stepNo p + 2 ^ 32 - 1) % 2 ^ 32)).phaseRecord p
  let t := if (t.rd Pg.trace Reg.Trace.SNAP_STEP).testBit p then { t with snapTrig := t.snapTrig ||| 2 ^ (2 + p) } else t
  t.closeStep p

/-- A move met an error: RUN was cleared, no snapshot is taken at this boundary (R392). The polder stands idle. -/
def State.failCut (s : State) (p : Nat) (due : Bool) : State :=
  let t := s.setPolder p { Polder.idle with rotation := (s.polder p).rotation }
  let t := if due then
      (t.towBoundary p ((t.stepNo p + 2 ^ 32 - 1) % 2 ^ 32)).phaseRecord p
    else t
  (t.wr (Pg.staithe p) Reg.Staithe.SFAIL [] 1).closeStep p

end Sys2Proof.Machine
end

