-- ==== Sys2Proof/Machine/Loader.lean ====
section
/-! DEFINITION. Staged writes and the image loader (R244 to R250, R429, R504, R505). -/

namespace Sys2Proof.Machine

/-! Staging (R504). -/

/-- Pages whose DIRTY is set, ascending: the commit set (R506). -/
def State.dirtyPages (s : State) : List Nat :=
  (s.regs.filter fun e => e.1 % 1024 == 2 && e.2.getLsbD 1).map fun e => e.1 / 1024

/-- NDIRTY follows the pages' DIRTY bits (R512). -/
def State.noteDirty (s : State) : State := s.wr Pg.commit Reg.Commit.NDIRTY [] s.dirtyPages.length

/-- Store the ST bits of a word into the staged image of the word at live offset `o`; a word without any stages nothing. -/
def State.stageWord (s : State) (n o : Nat) (v : Word) : State :=
  if stMask n o = 0 then s
  else
    let t := s.setWord n (o + 0x700) (v &&& stMask n o)
    let t : State := { t with stagedWritten := regKey n o :: t.stagedWritten.filter (· != regKey n o) }
    (t.wr n Reg.Common.DIRTY [] 1).noteDirty

/-! Shards and landings, shared with Staithe. -/

/-- Every block in [a, a + n) passes its check. -/
def State.blocksOk (s : State) (a n : Nat) : Bool :=
  (List.range ((a + n - 1) / 4096 - a / 4096 + 1)).all fun i => s.verify ((a / 4096 + i) * 4096) == .ok

/-- Landing `n` is initialised by the loader or a restore (R273). -/
def State.initLanding (s : State) (n count gen : Nat) : State :=
  (s.setLanding n ⟨BitVec.ofNat 32 count, BitVec.ofNat 16 gen, BitVec.ofNat 32 (s.hubLast 10 0), 0, []⟩).mirror n

/-! The image (R244 to R246). -/

/-- Little-endian field of `n` bytes at byte `o`. -/
def leAt (b : List Byte) (o n : Nat) : Nat := bytesNat ((b.drop o).take n)

/-- A section-table entry. -/
structure Sect where
  typ  : Nat
  ldie : Nat
  clu  : Nat
  unit : Nat
  rsv  : Nat
  off  : Nat
  size : Nat
  tgt  : Nat
  deriving DecidableEq, Repr

def sectOf (b : List Byte) : Sect :=
  ⟨leAt b 0 1, leAt b 1 1, leAt b 2 1, leAt b 3 1, leAt b 4 4, leAt b 8 8, leAt b 16 8, leAt b 24 8⟩

/-- The section table. -/
def sectsOf (img : List Byte) : List Sect :=
  (chunks 32 (leAt img 0x10 4) ((img.drop 0x100).take (32 * leAt img 0x10 4))).map sectOf

/-- The section is placed in memory. -/
def Sect.placed (x : Sect) : Bool := x.typ == 1 || x.typ == 5

def Sect.body (x : Sect) (img : List Byte) : List Byte := (img.drop x.off).take x.size

/-- The entry holds no reserved encoding (R245, R246). -/
def Sect.ok (x : Sect) (dies : Nat) : Bool :=
  1 ≤ x.typ && x.typ ≤ 7 && x.rsv == 0 && (x.ldie < dies || x.ldie == 0xFF) && (x.clu < 8 || x.clu == 0xFF)
    && (if x.typ = 1 then
          x.ldie < dies && x.clu < 8 && regionOf x.tgt == .sst && x.tgt < 2 ^ 48
            && ((x.unit / 16 < 8 && x.unit % 16 < 4) || (x.unit / 16 == 15 && 4 ≤ x.unit % 16 && x.unit % 16 < 8))
        else x.unit == 0 && (x.typ == 5 || x.tgt == 0))

/-- A load parameter block (R249). -/
structure LoadParam where
  diemap  : Nat
  land    : Nat
  lpbase  : Nat
  narg    : Nat
  deriving DecidableEq, Repr

/-- Physical die of a logical die. -/
def LoadParam.die (q : LoadParam) (d : Nat) : Nat := q.diemap / 4 ^ d % 4

/-- An address relocated by the range in which it lies (R249). -/
def LoadParam.reloc (q : LoadParam) (a : Nat) : Nat :=
  match regionOf a with
  | .lpddr => (a + q.lpbase) % 2 ^ 48
  | .sst => a - bits a 33 32 * 2 ^ 32 + q.die (bits a 33 32) * 2 ^ 32
  | .pool => a - bits a 30 29 * 2 ^ 29 + q.die (bits a 30 29) * 2 ^ 29
  | .other => a

/-- Engine of an INSTR section. -/
def Sect.engine (x : Sect) (q : LoadParam) : Nat :=
  let cl := 8 * q.die x.ldie + x.clu
  if x.unit / 16 = 15 then 1024 + 4 * cl + x.unit % 4 else 4 * (8 * cl + x.unit / 16) + x.unit % 4

/-! Allocation windows (R250). -/

/-- The entry holds no reserved encoding. -/
def windowOk (dies : Nat) (b : List Byte) : Bool :=
  let k := leAt b 12 1
  let n := leAt b 13 1
  b.length == 16 && leAt b 0 8 % 4096 == 0 && leAt b 0 8 < 2 ^ 48 && bits k 6 2 == 0 && n < 64 && leAt b 14 1 < 4
    && leAt b 15 1 == 0 && (if k / 128 = 1 then k % 4 == 0 && n == 0 else k % 4 < dies)

/-- The window an entry grants in polder `p`. -/
def windowOf (p : Nat) (q : LoadParam) (b : List Byte) : Window :=
  let k := leAt b 12 1
  ⟨if k / 128 = 1 then 256 + p else 64 * q.die (k % 4) + leAt b 13 1, q.reloc (leAt b 0 8), (leAt b 8 4 + 1) * 4096,
    bits (leAt b 14 1) 0 0 = 1, bits (leAt b 14 1) 1 1 = 1⟩

/-- Entries of `n` bytes of every section of a type. -/
def entriesOf (img : List Byte) (typ n : Nat) : List (List Byte) :=
  ((sectsOf img).filter fun x => x.typ == typ).flatMap fun x => chunks n (x.size / n + 1) (x.body img)

/-- No grantee has more than 16 windows. -/
def windowsFew (ws : List Window) : Bool := ws.all fun w => (ws.filter fun v => v.who == w.who).length ≤ 16

/-! Relocation (R249). -/

/-- The entry uses no reserved encoding. -/
def relocOk (b : List Byte) : Bool :=
  let v := leAt b 0 8
  b.length == 8 && bits v 43 40 < 4 && bits v 47 44 < 5 && (bits v 47 44 == 4 || bits v 63 48 == 0)

/-- Bytes of a relocated field, its value, and the value put back, by KIND. -/
def fieldBytes (kind : Nat) : Nat := if kind = 2 then 4 else 8
def fieldGet (kind w : Nat) : Nat :=
  match kind with
  | 0 => bits w 47 0
  | 1 => bits w 43 0 * 16
  | 2 => bits w 12 0
  | _ => w
def fieldPut (kind w v : Nat) : Nat :=
  match kind with
  | 0 => w - bits w 47 0 + v % 2 ^ 48
  | 1 => w - bits w 43 0 + v / 16 % 2 ^ 44
  | 2 => w - bits w 12 0 + v % 2 ^ 13
  | _ => v % 2 ^ 64

/-- A field's value under BASE; `arg` is the argument. -/
def LoadParam.based (q : LoadParam) (base arg v : Nat) : Nat :=
  match base with
  | 0 => v + q.lpbase
  | 1 => v - bits v 33 32 * 2 ^ 32 + q.die (bits v 33 32) * 2 ^ 32
  | 2 => v - bits v 30 29 * 2 ^ 29 + q.die (bits v 30 29) * 2 ^ 29
  | 3 => v + q.land
  | _ => v + arg

/-- Apply one entry to the bytes of a section at image offset `off`; an entry for other bytes changes nothing. -/
def relocate (q : LoadParam) (args : Nat → Nat) (off : Nat) (bs e : List Byte) : List Byte :=
  let v := leAt e 0 8
  let o := bits v 39 0
  let n := fieldBytes (bits v 43 40)
  if off ≤ o ∧ o + n ≤ off + bs.length then
    let i := o - off
    let w := leAt bs i n
    bs.take i ++ natBytes n (fieldPut (bits v 43 40) w (q.based (bits v 47 44) (args (bits v 63 48)) (fieldGet (bits v 43 40) w)))
      ++ bs.drop (i + n)
  else bs

/-! Checks (R247). -/

/-- Staged words of a SLOTS section: page, live offset, value. -/
def Sect.slotWords (x : Sect) (q : LoadParam) (dies : Nat) (img : List Byte) : List (Nat × Nat × Word) :=
  ((chunks 4 (x.size / 4 + 1) (x.body img)).zipIdx).map fun e =>
    let port := e.2 / 64
    let o := 0x400 + 4 * (e.2 % 64)
    let v := BitVec.ofNat 32 (bytesNat e.1)
    if x.ldie = 0xFF then (Pg.dieLink, o + 0x100 * q.die (port % dies), v)
    else if port < 8 then (Pg.clu (8 * q.die x.ldie + port), o, v)
    else (Pg.die (q.die x.ldie), o + 0x100 * (port - 8), v)

/-- A SLOTS section is a whole number of words and no longer than the tables of a die, or of the hub's links. -/
def Sect.slotsOk (x : Sect) (dies : Nat) : Bool :=
  x.typ != 2 || (x.size % 4 == 0 && x.size ≤ (if x.ldie = 0xFF then 0x100 * dies else 0xB00))

/-- LERR of an image (R247, R267); 0 where it is accepted. The lowest code that applies is reported. -/
def State.loadErr (s : State) (p : Nat) (img digest : List Byte) (q : LoadParam) : Nat :=
  let dies := leAt img 6 2
  let ss := sectsOf img
  let wins := entriesOf img 4 16
  if leAt img 0 4 ≠ 0xA110D724 ∨ leAt img 4 2 ≠ 1 then 1
  else if digest ≠ (img.drop 0x20).take 32 then 2
  else if !([1, 2, 4].contains dies) || leAt img 0x10 4 == 0 || leAt img 0x18 8 != 0 || ((img.drop 0x40).take 0xC0).any (· != 0)
      || ss.any (fun x => !x.ok dies || !x.slotsOk dies || (x.typ == 1 && x.size % 32 != 0))
      || (entriesOf img 6 8).any (fun b => !relocOk b) || (entriesOf img 7 8).any (fun b => b.length != 8 || bits (leAt b 0 8) 31 13 != 0) then 3
  else if (s.diesOf p).length < dies || (List.range dies).any (fun d => !(s.diesOf p).contains (q.die d)) then 4
  else if img.length < 0x100 + 32 * leAt img 0x10 4 || ss.any (fun x => img.length < x.off + x.size) then 5
  else if leAt img 0x14 4 ≠ q.narg then 6
  else if wins.any (fun b => !windowOk dies b) || !windowsFew (wins.map (windowOf p q)) then 7
  else 0

/-! Loading (R248). -/

/-- A fault of the loader: the polder is idle, so that no step is abandoned. -/
def State.loadFault (s : State) (p code a : Nat) : State :=
  (s.wr (Pg.program p) Reg.Program.STATE [] 0).raise ⟨Pg.program p, code, 14, 0, 0, noPc, a, some p, true⟩

/-- Place a section's relocated copy: with check values, setting the valid bits of the pool granules it fills (R59). The loader is
not among the writers that wait for a copy (R371). -/
def State.place (s : State) (a : Nat) (bs : List Byte) : State × Option Nat :=
  let r := s.storeNow (hubWrite a bs true)
  let g0 := (a + 4095) / 4096
  let gs := (List.range ((a + bs.length) / 4096 - g0)).map fun i => (g0 + i) * 4096
  ((r.1.asyncTraffic true a bs.length).setValids (granulesOf gs) true, r.2)

/-- Engines of a polder lose their sections. -/
def State.dropSections (s : State) (p : Nat) : State :=
  let es := s.engines.filter fun e => s.polderOfDie (engDie e.1) != p
  { s with engines := es }

/-- The sections of an accepted image take effect; what is staged waits in `loads` where a commit is armed. -/
def State.loadImage (s : State) (p : Nat) (img : List Byte) (q : LoadParam) (args : Nat → Nat) : State :=
  let ss := sectsOf img
  let rs := entriesOf img 6 8
  let parts := (ss.filter Sect.placed).map fun x => (x, q.reloc x.tgt, rs.foldl (relocate q args x.off) (x.body img))
  match parts.find? fun e => !s.populated e.2.1 e.2.2.length with
  | some e =>
    let bad := (linesOf e.2.1 e.2.2.length).find? fun l => (s.phys l).isNone
    s.loadFault p 0x03 (bad.getD e.2.1)
  | none =>
    let r := parts.foldl (fun (r : State × Option Nat) e =>
      match r.2 with
      | some _ => r
      | none => r.1.place e.2.1 e.2.2) (s, none)
    match r.2 with
    | some b => r.1.loadFault p 0x46 b
    | none =>
      let t := (r.1.dropSections p)
      let t := (parts.filter fun e => e.1.typ == 1).foldl (fun t e =>
        t.setEngine (e.1.engine q) ⟨[], e.1.size / 32, e.2.1, e.1.size / 32⟩) t
      let wins := (entriesOf img 4 16).map (windowOf p q)
      let counts := (entriesOf img 7 8).map fun b => ((bits (leAt b 0 8) 12 0 + q.land) % 8192, leAt b 4 4)
      let ws := (ss.filter fun x => x.typ == 2).flatMap fun x => x.slotWords q (leAt img 6 2) img
      { (t.wr (Pg.program p) Reg.Program.STATE [] 1) with loads := t.loads ++ [LoadJob.mk p true ws wins counts] }

/-- The loader checks, hashes and places the image at IMG (R247, R248). -/
def State.startLoad (s : State) (p : Nat) : State :=
  let g := Pg.program p
  let a := s.rd2 g Reg.Program.IMG_LO Reg.Program.IMG_HI
  let b := s.rd2 g Reg.Program.PARAM_LO Reg.Program.PARAM_HI
  let s := s.wr g Reg.Program.LERR [] 0
  if !s.populated a 16 then s.loadFault p 0x03 a
  else if !s.populated a (s.numAt (a + 8) 8) then s.loadFault p 0x03 a
  else if !s.populated b 0x20 ∨ !s.populated b (0x20 + 8 * s.numAt (b + 0x10) 4) then s.loadFault p 0x03 b
  else
    match s.staleIn [(a, s.numAt (a + 8) 8), (b, 0x20 + 8 * s.numAt (b + 0x10) 4)] with
    | some o => (s.noteStale 0x09 o).loadFault p 0x09 o
    | none =>
    let s := (s.asyncTraffic false a (s.numAt (a + 8) 8)).asyncTraffic false b (0x20 + 8 * s.numAt (b + 0x10) 4)
    let img := s.bytesAt a (s.numAt (a + 8) 8)
    let digest := sha256 (img.take 0x20 ++ (List.replicate 32 0).take (img.length - 0x20) ++ img.drop 0x40)
    let t := (List.range 8).foldl (fun t i => t.wr g Reg.Program.PROGRAM_DIGEST [i] (leAt digest (4 * i) 4)) s
    let q : LoadParam := ⟨s.numAt b 4, s.numAt (b + 4) 4 % 8192, s.numAt (b + 8) 8, s.numAt (b + 0x10) 4⟩
    match t.loadErr p img digest q with
    | 0 => t.loadImage p img q fun i => s.numAt (b + 0x20 + 8 * i) 8
    | e => (t.wr g Reg.Program.LERR [] e).wr g Reg.Program.STATE [] 0

/-- The staged windows and landing counts of a polder's image become live at the APPLY that sets RUN (R248, log entry 16). -/
def State.imageLive (s : State) (p : Nat) : State :=
  match s.imaged.find? fun j => j.pol == p with
  | none => s
  | some j =>
    let keep := s.windows.filter fun w => !(w.who == 256 + p || (w.who < 256 && s.polderOfCore w.who == p))
    let t : State := { s with windows := keep ++ j.windows, imaged := s.imaged.filter fun x => x.pol != p }
    j.counts.foldl (fun t e => t.initLanding e.1 e.2 0) t

/-- A load may start: its polder is idle, no snapshot of it is copying (R429) and no pool moves (R387). -/
def State.loadFree (s : State) (p : Nat) : Bool :=
  (s.runState p == 0 || s.runState p == 2) && !(s.snap p).active && !s.moves.any (fun m => s.polderOfCore m.core == p)

/-- Stage what a load stages and finish it, unless a commit is armed (R505). A later load of the polder replaces its windows and
counts. -/
def State.stageLoad (s : State) (j : LoadJob) : State :=
  if s.rd Pg.commit Reg.Commit.CSTATE = 4 then s
  else
    let t : State := { s with
      loads := s.loads.filter fun x => x != j
      imaged := s.imaged.filter (fun x => x.pol != j.pol) ++ [j] }
    (j.words.foldl (fun t w => t.stageWord w.1 w.2.1 w.2.2) t).wr (Pg.program j.pol) Reg.Program.STATE [] 2

/-- Loads that waited go on. -/
def State.loadsRun (s : State) : State :=
  let t := (s.loads.filter fun j => !j.started).foldl (fun t j =>
    if t.loadFree j.pol then { t with loads := t.loads.filter fun x => x != j }.startLoad j.pol else t) s
  (t.loads.filter (·.started)).foldl State.stageLoad t

/-- LOAD (R248, R267, R429): the load starts, or waits for what R387, R429 and R505 name. -/
def State.load (s : State) (p : Nat) : State :=
  if (s.runState p ≠ 0 ∧ s.runState p ≠ 2) ∨ s.npolders ≤ p ∨ s.loads.any fun j => j.pol == p then s
  else { s with loads := s.loads ++ [LoadJob.mk p false [] [] []] }.loadsRun

end Sys2Proof.Machine
end

