-- ==== Sys2Proof/Machine/Commit.lean ====
section
/-! DEFINITION. Ferry commits: staged images, CHECK, APPLY and what an apply edge starts (R386 to R394, R504 to R512). -/

namespace Sys2Proof.Machine

/-! Staged images (R504). -/

/-- Offsets of a replicated field. -/
def repOffs (b : Nat) : List (Nat × Nat) → List Nat
  | [] => [b]
  | (st, n) :: r => (List.range n).flatMap fun i => repOffs (b + st * i) r

def insertNat (x : Nat) : List Nat → List Nat
  | [] => [x]
  | y :: r => if x < y then x :: y :: r else if x = y then y :: r else y :: insertNat x r

/-- Offsets of the words of a page that hold ST fields, ascending. -/
def PageKind.stOffs (k : PageKind) : List Nat :=
  (k.fields.filter (·.acc == .st)).foldl (fun l f => (repOffs f.base f.rep).foldl (fun l o => insertNat o l) l) []

def insertField (f : FieldSpec) : List FieldSpec → List FieldSpec
  | [] => [f]
  | g :: r => if f.lo < g.lo then f :: g :: r else g :: insertField f r

/-- The ST fields of the word at offset `o`, ascending. -/
def PageKind.stAt (k : PageKind) (o : Nat) : List FieldSpec :=
  (k.fields.filter fun f => f.acc == .st && f.at o).foldl (fun l f => insertField f l) []

/-- Offsets of ST words of page `n`. -/
def stOffsOf (n : Nat) : List Nat :=
  match pageKind n with
  | some k => k.stOffs
  | none => []

/-- Copy the staged ST bits of a page into the live area. -/
def State.applyPage (s : State) (n : Nat) : State :=
  (stOffsOf n).foldl (fun t o => t.setWord n o (maskedPut (t.word n o) (stMask n o) (t.word n (o + 0x700)))) s

/-- Copy the live ST fields of a page into its staged image and clear DIRTY (R500). -/
def State.discardPage (s : State) (n : Nat) : State :=
  let t := (stOffsOf n).foldl (fun t o => t.setWord n (o + 0x700) (t.word n o &&& stMask n o)) s
  let t := t.wr n Reg.Common.DIRTY [] 0
  { t with
    stagedWritten := t.stagedWritten.filter fun k => k / 1024 != n
    imaged := t.imaged.filter fun j => Pg.program j.pol != n }.noteDirty

/-! CHECK (R507). `s` is the live state, `t` the state as it would stand after the APPLY. -/

/-- A field of one word of a page, as it is checked. -/
structure CheckAt where
  s    : State
  t    : State
  page : Nat
  kind : PageKind
  off  : Nat
  f    : FieldSpec

/-- Value of the field before and after. -/
def CheckAt.old (c : CheckAt) : Nat := bits (c.s.word c.page c.off).toNat c.f.hi c.f.lo
def CheckAt.new (c : CheckAt) : Nat := bits (c.t.word c.page c.off).toNat c.f.hi c.f.lo
def CheckAt.changed (c : CheckAt) : Bool := c.old != c.new
/-- Index of the word in the field's first replication. -/
def CheckAt.ix (c : CheckAt) : Nat :=
  match c.f.rep with
  | (st, n) :: _ => min ((c.off - c.f.base) / st) (n - 1)
  | [] => 0
/-- The field is `g`, at any replication. -/
def CheckAt.is (c : CheckAt) (k : PageKind) (g : FieldSpec) : Bool := c.kind == k && c.f == g

/-- A slot-table field. -/
def CheckAt.isSlot (c : CheckAt) : Bool :=
  (c.kind == .cluster || c.kind == .die || c.kind == .dieLink) && 0x400 ≤ c.f.base && c.f.base < 0x500

/-- Die of the polder that a page or its die link belongs to. -/
def CheckAt.die (c : CheckAt) : Nat := if c.kind = .dieLink then c.ix else pageDie c.page

/-- The commit takes effect at a step boundary of polder `p`, or the polder stands at one (R387). -/
def State.atBoundaryOf (s : State) (p : Nat) : Bool :=
  s.runState p != 3 || (s.rd Pg.commit Reg.Commit.AMODE == 1 && s.rd Pg.commit Reg.Commit.APOLDER == p)

/-- A slot-table entry uses a reserved encoding (R254): OWN 15 at a cluster's port, OWN from 11 where it names a port, but for 14
at port 8, the asynchronous traffic of R257 that enters the die there (log entry 11). -/
def CheckAt.slotReserved (c : CheckAt) : Bool :=
  let v := c.new
  let own := bits v 7 4
  let ports := c.kind == .dieLink || (c.kind == .die && c.off / 0x100 == 4)
  5 ≤ bits v 3 1 || bits v 15 10 != 0 || (8 ≤ own && bits v 9 8 != 0) || (c.kind == .cluster && own == 15)
    || (ports && 11 ≤ own && !(c.kind == .die && own == asyncOwn))

/-- The field's register table gives a range of values that holds not every value of its width, and the value lies outside
it (R243, R334, R335, R363, R367, R410, R433). -/
def CheckAt.outside (c : CheckAt) : Bool :=
  let v := c.new
  ((c.is .wharf Reg.Wharf.IQ_LOG2 || c.is .workQ Reg.WorkQ.LOG2 || c.is .sluiceQ Reg.SluiceQ.LOG2) && 0x10 < v)
    || (c.is .routing Reg.Routing.WIDTH && (v == 0 || 12 < v)) || ((c.is .routing Reg.Routing.E2E_TO || c.is .wharf Reg.Wharf.RTO) && v == 0)
    || (c.is .staithe Reg.Staithe.NSHARD && (v == 0 || 4096 < v))
    || (c.is .reliab Reg.Reliab.VMAX && 6 < v)
    || (c.is .cxl Reg.Cxl.HDM_SEGS && (v == 0 || 64 < v))

/-- Class 1: reserved encodings of R77, R78, R106, R202, R243, R254, R333, R334, R410 to R413, R471, R472, R495. -/
def CheckAt.reserved (c : CheckAt) : Bool :=
  let v := c.new
  if c.isSlot then c.slotReserved
  else if c.outside then true
  else
    match c.kind with
    | .core => (c.f.base == 0x104 && 0x20 ≤ v && v ≤ 0x3E) || (c.f.base == 0x300 && 0x40 ≤ v && v ≤ 0x7E)
    | .cluster => (c.f.base == 0x100 && 9 ≤ v) || (c.is .cluster Reg.Clu.VTRIM && v == 7)
    | .die => ((c.f.base == 0x100 || c.f.base == 0x110) && 0x40 ≤ v && v ≤ 0x7E) || (c.f.base == 0x200 && 4 ≤ v && v ≤ 6)
    | .clocks => c.is .clocks Reg.Clocks.ROOT_TARGET && v == 0x1F
    | .slack => c.is .slack Reg.Slack.PIN_FN && v == 3
    | .polders => v == 3
    | .trace => c.is .trace Reg.Trace.DEST && v == 3
    | .routing => c.is .routing Reg.Routing.DIMS && (v == 0 || v == 7)
    | .ferry => (c.f.base == 0x140 || c.f.base == 0x144) && (List.range 8).any fun i => bits v (4 * i + 3) (4 * i) < 2 || 8 ≤ bits v (4 * i + 3) (4 * i)
    | _ => false

/-- A channel of logical Reedbed unit `u` of die `d` holds a sample in progress (R225). -/
def State.reedbedBusy (s : State) (d u : Nat) : Bool :=
  s.chans.any fun e => e.1 / 32 == 4 * d + u

/-- Class 2: conflicts of map fields. The later of two conflicting fields is named. -/
def CheckAt.conflict (c : CheckAt) : Bool :=
  let t := c.t
  let v := c.new
  match c.kind with
  | .core =>
    let p := c.page
    (c.is .core Reg.Core.SPARE_B_FOR && v != 0x3F && t.rd p Reg.Core.SPARE_A_FOR == v)
      || (c.is .core Reg.Core.ROWSP1_FOR && v != 0x7F && t.rd p Reg.Core.ROWSP0_FOR == v)
      || (c.is .core Reg.Core.COLSP1_FOR && v != 0x7F && t.rd p Reg.Core.COLSP0_FOR == v)
  | .cluster =>
    let cl := 8 * pageDie c.page + pageClu c.page
    if c.f.base = 0x100 then
      ((List.range (c.f.lo / 4)).any fun k => bits (t.word c.page 0x100).toNat (4 * k + 3) (4 * k) == v)
        || (c.changed && (t.rd Pg.reliab Reg.Reliab.ROT_EN == 1 || c.s.wstate cl v == 2))
    else c.is .cluster Reg.Clu.VTRIM && c.changed && t.rd Pg.reliab Reg.Reliab.ROT_EN == 1
  | .die =>
    let d := pageDie c.page
    let drained := c.s.rd Pg.polders Reg.Polders.PSTATE [c.s.polderOfDie d] == 2
    let spare := bit (c.f.lo == 8)
    if c.f.base = 0x100 then
      let sr := c.ix
      let sh := if spare = 0 then Reg.Die.SHADOW_A else Reg.Die.SHADOW_B
      let ok := if spare = 0 then Reg.Die.SHDONE_A else Reg.Die.SHDONE_B
      (spare == 1 && v != 0x7F && t.rd c.page Reg.Die.SPARE_A_FOR [sr] == v)
        || (c.changed && v != 0x7F
          && ((!drained && !(c.s.rd c.page sh [sr] == v && c.s.rd c.page ok [sr] == 1))
            || c.s.badSpares.contains (1, 2 * d + sr, spare)))
    else if c.f.base = 0x200 then
      c.changed && ((c.old < 4 && c.s.reedbedBusy d c.old) || (v < 4 && c.s.reedbedBusy d v))
    else false
  | _ => false

/-- Class 3: fields that change only at a step boundary. -/
def CheckAt.boundaryOnly (c : CheckAt) : Bool :=
  c.changed &&
    match c.kind with
    | .core => !c.s.atBoundaryOf (c.s.polderOfDie (pageDie c.page))
    | .cluster => (c.f.base == 0x100 || c.is .cluster Reg.Clu.NOMOVE) && !c.s.atBoundaryOf (c.s.polderOfDie (pageDie c.page))
    | .die => (c.f.base == 0x100 || c.f.base == 0x200) && !c.s.atBoundaryOf (c.s.polderOfDie (pageDie c.page))
    | .workQ =>
      let q := c.ix
      c.s.rd c.page Reg.WorkQ.QEN [q] == 1 && !c.s.atBoundaryOf (c.s.polderOfDie (c.s.rd c.page Reg.WorkQ.HDIE [q]))
    | .sluiceQ =>
      let q := c.ix
      c.s.rd c.page Reg.SluiceQ.QEN [q] == 1 && !c.s.atBoundaryOf (c.s.polderOfDie (c.s.rd c.page Reg.SluiceQ.HDIE [q]))
    | _ => false

/-- Class 4: fields that must not change while their polder runs. -/
def CheckAt.whileRunning (c : CheckAt) : Bool :=
  c.changed &&
    if c.isSlot then c.s.rd (Pg.program (c.s.polderOfDie c.die)) Reg.Program.RUN == 1
    else c.kind == .commit && c.s.runState c.ix == 3

/-- Overlap of [a, a + n) and [b, b + m). -/
def overlap (a n b m : Nat) : Bool := a < b + m && b < a + n

/-- A range of bytes lies in the LPDDR5X, SST or (where allowed) pool-window range of R170. -/
def inRange (a n : Nat) (pool : Bool) : Bool :=
  a + n ≤ sstBase || (sstBase ≤ a && a + n ≤ poolBase) || (pool && poolBase ≤ a && a + n ≤ poolEnd)

/-- Tag window `w`: enabled, base, bytes, first tag, tags. -/
def State.tagWin (s : State) (w : Nat) : Bool × Nat × Nat × Nat × Nat :=
  let g := Pg.landings
  let n := s.rd g Reg.Landings.LEN [w] + 1
  (s.rd g Reg.Landings.EN [w] == 1, (s.rd g Reg.Landings.TW_BASE [w] + s.rd g Reg.Landings.TW_BASE_HI [w] * 2 ^ 20) * 4096,
    n * 4096, s.rd g Reg.Landings.TOFF [w], n)

/-- Receive window `w` of R334: enabled, base, bytes. -/
def State.rxWin (s : State) (w : Nat) : Bool × Nat × Nat :=
  let g := Pg.routing
  (s.rd g Reg.Routing.RXW_EN [w] == 1,
    (s.rd g Reg.Routing.RXW_BASE [w] + s.rd g Reg.Routing.RXW_BASE_HI [w] * 2 ^ 20) * 4096,
    (s.rd g Reg.Routing.RXW_LEN [w] + 1) * 4096)

/-- A region lies in the polder's LPDDR5X pages, its dies' SST, or the populated windows of its cores (R367). -/
def State.regionInside (s : State) (p : Nat) (r : Nat × Nat × Bool) : Bool :=
  let a := r.1
  let n := r.2.1 * 65536
  if a + n ≤ sstBase then
    (List.range ((a + n - 1) / 2 ^ 21 - a / 2 ^ 21 + 1)).all fun i =>
      match s.lpPage ((a / 2 ^ 21 + i) * 2 ^ 21) with
      | some e => s.polderOfDie (e.1 / 8) == p
      | none => false
  else if sstBase ≤ a ∧ a + n ≤ poolBase then
    s.polderOfDie (bits (a - sstBase) 33 32) == p && s.polderOfDie (bits (a + n - 1 - sstBase) 33 32) == p
  else
    poolBase ≤ a && a + n ≤ poolEnd && poolCore a == poolCore (a + n - 1) && poolOff (a + n - 1) < poolSize
      && s.polderOfCore (poolCore a) == p

/-- Class 5: ranges, overlaps and limits of R168, R287, R334, R367, R417, and RUN of a polder that is not formed. -/
def CheckAt.range (c : CheckAt) : Bool :=
  let t := c.t
  let v := c.new
  let i := c.ix
  match c.kind with
  | .cluster => c.f.base == 0x144 && (v < 0x04 || 0x30 < v)
  | .landings =>
    if c.is .landings Reg.Landings.EN then
      let w := t.tagWin i
      w.1 && (List.range i).any fun j =>
        let x := t.tagWin j
        x.1 && (overlap w.2.1 w.2.2.1 x.2.1 x.2.2.1 || overlap w.2.2.2.1 w.2.2.2.2 x.2.2.2.1 x.2.2.2.2)
    else c.is .landings Reg.Landings.TOFF && 262143 < v + t.rd c.page Reg.Landings.LEN [i]
  | .routing =>
    let used := i < t.rd c.page Reg.Routing.DIMS
    let x := t.dim i
    if c.is .routing Reg.Routing.WIDTH then used && 12 < x.shift + x.width
    else if c.is .routing Reg.Routing.EXT then
      used && (2 ^ x.width < x.n || (List.range i).any fun j => x.mask &&& (t.dim j).mask != 0)
    else if c.is .routing Reg.Routing.PMASK then used && (List.range i).any fun j => v &&& ((t.dim j).plus ||| (t.dim j).minus) != 0
    else if c.is .routing Reg.Routing.MMASK then
      used && (v &&& x.plus != 0 || (List.range i).any fun j => v &&& ((t.dim j).plus ||| (t.dim j).minus) != 0)
    else if c.is .routing Reg.Routing.RXW_EN then v == 1 && !inRange (t.rxWin i).2.1 (t.rxWin i).2.2 false
    else false
  | .staithe =>
    let p := (c.page - 0x040) / 4
    let rs := t.regions p
    if c.is .staithe Reg.Staithe.RTAB_LO then
      rs.any (fun r => !t.regionInside p r)
        || rs.zipIdx.any fun e => (rs.take e.2).any fun r => overlap e.1.1 (e.1.2.1 * 65536) r.1 (r.2.1 * 65536)
    else if c.is .staithe Reg.Staithe.LOCAL_LO then
      let l := t.localArea p i
      rs.any fun r => overlap r.1 (r.2.1 * 65536) l.1 l.2
    else if c.is .staithe Reg.Staithe.AREA_G then v + 1 < 1 + (rs.map fun r => r.2.1).sum
    else c.is .staithe Reg.Staithe.SLLAST && t.rd c.page Reg.Staithe.SLFIRST + 4095 < v
  | .cxl => c.is .cxl Reg.Cxl.SBASE && t.rd c.page Reg.Cxl.SEG_EN [i] == 1 && !inRange (v * 2 ^ 30) (2 ^ 30) true
  | .program => v == 1 && t.npolders ≤ (c.page - 0x040) / 4
  | _ => false

/-- Class 6: PCFG changes only while every polder is drained (R399). -/
def CheckAt.needsDrained (c : CheckAt) : Bool :=
  c.kind == .polders && c.changed
    && (List.range c.s.npolders).any fun p => c.s.rd Pg.polders Reg.Polders.PSTATE [p] != 2

/-- Class 7: a Towpath mode (R483). -/
def CheckAt.towpathMode (c : CheckAt) : Bool :=
  let p := c.ix
  c.is .trace Reg.Trace.MODE
    && ((c.changed && c.s.rd (Pg.program p) Reg.Program.RUN == 1
        && !(c.s.rd Pg.commit Reg.Commit.AMODE == 1 && c.s.rd Pg.commit Reg.Commit.APOLDER == p))
      || (c.new == 1 && c.t.rd Pg.trace Reg.Trace.DEST == 0))

/-- CREASON of a field: the first class that reports it, 0 for none. -/
def CheckAt.reason (c : CheckAt) : Nat :=
  if c.reserved then 1 else if c.conflict then 2 else if c.boundaryOnly then 3 else if c.whileRunning then 4
  else if c.range then 5 else if c.needsDrained then 6 else if c.towpathMode then 7 else 0

/-- The first inconsistency of a commit: page, offset, lowest bit, reason (R506). -/
def State.firstBad (s t : State) (pages : List Nat) : Option (Nat × Nat × Nat × Nat) :=
  pages.findSome? fun n =>
    match pageKind n with
    | none => none
    | some k => k.stOffs.findSome? fun o =>
      (k.stAt o).findSome? fun f =>
        let r := (CheckAt.mk s t n k o f).reason
        if r = 0 then none else some (n, o, f.lo, r)

/-- The state as it would stand after an APPLY. -/
def State.afterApply (s : State) : State := s.dirtyPages.foldl State.applyPage s

/-! Moves (R387 to R393). -/

/-- Readout address of the arrays of a physical core. -/
def physArea (space cl ph : Nat) : Nat := space * 2 ^ 44 + cl / 8 * 2 ^ 31 + cl % 8 * 2 ^ 28 + ph * 2 ^ 24

/-- Bytes of a physical core's pool, with the physical bank and the place within it. -/
def State.poolBytes (s : State) (cl ph : Nat) : List (Nat × Nat × Byte) :=
  let a := physArea 3 cl ph
  (s.mem.filter fun e => a ≤ e.1 && e.1 < a + 2 ^ 24).map fun e => ((e.1 - a) / 2 ^ 18, (e.1 - a) % 2 ^ 18, e.2)

/-- The move of core `c` from physical core `src` to `dst`; `old` and `t` are the states before and after the change. -/
def moveOf (old t : State) (c src dst : Nat) (carry held : Bool) : Move :=
  let pairs := ((List.range 32).map fun b => (old.poolBank c b, t.poolBank c b)).filter fun e => src != dst || e.1 != e.2
  { core := c, src := src, dst := dst, carry := carry, whole := src != dst, held := held
    banks := pairs.map (·.2)
    data := (old.poolBytes (c / 8) src).flatMap fun e =>
      (pairs.filter fun p => p.1 == e.1).map fun p => (physArea 3 (c / 8) dst + p.2 * 2 ^ 18 + e.2.1, e.2.2) }

/-- Cores whose pool moves: the physical core or a bank changed. -/
def movedCores (old t : State) (pages : List Nat) : List Nat :=
  (List.range 256).filter fun c =>
    (pages.contains (Pg.clu (c / 8)) && old.physCore c != t.physCore c)
      || (pages.contains (Pg.core c) && old.word (Pg.core c) 0x104 != t.word (Pg.core c) 0x104)

/-- A core's repair words when it takes another physical core: staged values where they were written, else the physical
core's own (R388, R393). -/
def rebindCore (old t : State) (c : Nat) : State :=
  let cl := c / 8
  let p := Pg.core c
  let own := sget (fun _ => (resetLive p 0x104, resetLive p 0x300)) t.repairs (9 * cl + t.physCore c)
  let put := fun (t : State) (o : Nat) (v : Word) =>
    if old.stagedWritten.contains (regKey p o) then t else t.putLive p o (stMask p o) v
  put (put t 0x104 own.1) 0x300 own.2

/-- Repair words of the physical cores that lose a name are kept. -/
def keepRepairs (old t : State) (c : Nat) : State :=
  let p := Pg.core c
  let d := fun (_ : Nat) => (resetLive p 0x104, resetLive p 0x300)
  let v := (old.word p 0x104 &&& stMask p 0x104, old.word p 0x300 &&& stMask p 0x300)
  { t with repairs := sset d t.repairs (9 * (c / 8) + old.physCore c) v }

/-- Start the moves of a map change, with their hold where a polder runs (R387, R509). NOMOVE is of CLUSTER_MAP changes alone: a
change of POOL_BANK_MAP copies its banks (R388, R410). -/
def startMoves (old t : State) (pages : List Nat) : State :=
  let rebound := (List.range 256).filter fun c => pages.contains (Pg.clu (c / 8)) && old.physCore c != t.physCore c
  let t := rebound.foldl (fun t c => keepRepairs old t c) t
  let t := rebound.foldl (fun t c => rebindCore old t c) t
  let ms := (movedCores old t pages).map fun c =>
    moveOf old t c (old.physCore c) (t.physCore c) (old.physCore c == t.physCore c || t.rd (Pg.clu (c / 8)) Reg.Clu.NOMOVE == 0)
      (old.runState (old.polderOfCore c) = 3)
  let t := rebound.foldl (fun t c =>
    if t.rd (Pg.clu (c / 8)) Reg.Clu.NOMOVE = 1 then t.wrSt (Pg.clu (c / 8)) Reg.Clu.NOMOVE [] 0 else t) t
  let named := rebound.map fun c => 9 * (c / 8) + t.physCore c
  let t := { t with moves := t.moves ++ ms, soundOk := t.soundOk.filter fun k => !named.contains k }
  if ms.any (·.held) then t.requestHold .substitution else t

/-- Clear a range of live words of a page to their reset values. -/
def State.resetWords (s : State) (p lo hi : Nat) : State :=
  { s with regs := s.regs.filter fun e => !(regKey p lo ≤ e.1 && e.1 ≤ regKey p hi) }

/-- The move is finished: banks replaced, arrays of the incoming core cleared (R391, R392). -/
def State.finishMove (s : State) (m : Move) (errs : List Nat) : State :=
  let cl := m.core / 8
  let p := Pg.core m.core
  let a := physArea 3 cl m.dst
  let s := { s with moves := s.moves.filter fun x => x != m }
  let s :=
    if m.carry then
      let kept := s.mem.filter fun e =>
        !(a ≤ e.1 && e.1 < a + 2 ^ 24 && m.banks.contains ((e.1 - a) / 2 ^ 18))
      { s with mem := ssetMany memDefault kept m.data }
    else (s.resetWords p 0x140 0x17C).resetWords p 0x200 0x2BC
  let s :=
    if m.whole then
      let w := physArea 4 cl m.dst / 4
      { s with
        words32 := s.words32.filter fun e => !(w ≤ e.1 && e.1 < w + 2 ^ 22)
        zmap := s.zmap.filter fun e => e.1 / 4096 != 9 * cl + m.dst
        silt := s.silt.filter fun e => e.1 != cl }
    else s
  let s := if m.whole then ((s.wr (Pg.clu cl) Reg.Clu.SESSION [] 0).wr (Pg.clu cl) Reg.Clu.SPHASE [] 0) else s
  if errs.isEmpty ∨ !m.carry then s
  else
    let q := s.polderOfCore m.core
    let n := errs.length * 4096
    let s := errs.zipIdx.foldl (fun t e => t.pokeBytes (poolAddr m.core (e.1 * 4096))
      ((List.range 4096).map fun j => some (Config.freeByte (t.fresh + 4096 * e.2 + j)))) s
    let s := { s with fresh := s.fresh + n }
    let s := (s.setValids (errs.map fun g => (m.core, g)) false).wr (Pg.clu cl) Reg.Clu.SUBERR [] 1
    let s := (s.wrSt (Pg.program q) Reg.Program.RUN [] 0).wr (Pg.program q) Reg.Program.STATE [] 2
    let x := s.polder q
    s.failCut q x.cutDue

/-! What an apply edge starts (R509). -/

/-- A changed CONTEXT_ID latches the final accounting set and clears the counters (R431, R477). -/
def contextChange (old t : State) (p : Nat) : State :=
  let g := Pg.acct p
  if old.rd g Reg.Acct.CONTEXT_ID = t.rd g Reg.Acct.CONTEXT_ID then t
  else
    let t := (List.range 52).foldl (fun t i =>
      t.wr2 g Reg.Acct.FIN_LO Reg.Acct.FIN_HI [i] (t.rd2 g Reg.Acct.CNT_LO Reg.Acct.CNT_HI [i])) t
    let t := ((t.wr g Reg.Acct.FINAL_ID [] (old.rd g Reg.Acct.CONTEXT_ID)).wr g Reg.Acct.FINAL_VALID [] 1).resetWords g 0x200 0x39C
    let dies := t.diesOf p
    { t with regs := t.regs.filter fun e =>
        let n := e.1 / 1024
        let o := e.1 % 1024 * 4
        !(0x100 ≤ n && dies.contains (pageDie n)
          && match pageKind n with
            | some .core => 0x460 ≤ o && o < 0x590
            | some .cluster => 0x500 ≤ o && o < 0x620
            | _ => false) }

/-- RUN set in a polder whose program is loaded: the image's windows and landing counts become live, and its first step is to
start (R248, R267). -/
def runChange (t : State) (pages : List Nat) (p : Nat) : State :=
  if pages.contains (Pg.program p) ∧ t.rd (Pg.program p) Reg.Program.RUN = 1 ∧ t.runState p = 2 ∧ p < t.npolders
      ∧ t.rd Pg.polders Reg.Polders.PSTATE [p] = 0 then
    ((t.imageLive p).wr (Pg.program p) Reg.Program.STATE [] 3).setPolder p
      { Polder.idle with starting := true, rotation := (t.polder p).rotation }
  else t

/-- A SHADOW field written or changed restarts its copy (R389). -/
def shadowChange (old t : State) (d sr sp : Nat) : State :=
  let g := Pg.die d
  let f := if sp = 0 then Reg.Die.SHADOW_A else Reg.Die.SHADOW_B
  let done := if sp = 0 then Reg.Die.SHDONE_A else Reg.Die.SHDONE_B
  let err := if sp = 0 then Reg.Die.SHERR_A else Reg.Die.SHERR_B
  if old.stagedWritten.contains (regKey g (f.off [sr])) ∨ old.rd g f [sr] ≠ t.rd g f [sr] then
    let t := (t.wr g done [sr] 0).wr g err [sr] 0
    { t with shadowRow := sset (fun _ => 0) t.shadowRow (4 * d + 2 * sr + sp) 0 }
  else t

/-- Setting HOST_EN from 0: every line's baseline is to be taken (R289). -/
def hostEnChange (old t : State) : State :=
  if old.rd Pg.landings Reg.Landings.HOST_EN = 0 ∧ t.rd Pg.landings Reg.Landings.HOST_EN = 1 then
    let ls := t.hostLines.map fun e => (e.1, { e.2 with based := false, cached := false })
    { t with hostLines := ls.filter fun e => e.2 != HostLines.reset }
  else t

/-- A hub agent's claim, registered or granted, is withdrawn. -/
def State.revoke (s : State) (w : WaitWho) : State :=
  let t := s.dropWaiter w
  { t with granted := t.granted.filter (fun x => x != w), haltedQ := t.haltedQ.filter fun x => x != w }

/-- A queue that is disabled forgets what it had in flight (log entry 41). -/
def State.freshQueue (s : State) (q : Nat) : State :=
  let g := Pg.workQ
  let t : State := { s with
    workqs := sset (fun _ => WorkQ.idle) s.workqs q WorkQ.idle
    rxWait := s.rxWait.filter fun x => x.xid.toNat / 128 != q
    barriers := s.barriers.filter fun b => b.q != q }
  (t.wr g Reg.WorkQ.DONE [q] (t.rd g Reg.WorkQ.HEAD [q])).wr g Reg.WorkQ.INFLIGHT [q] 0

/-- A Ferry work queue is enabled, disabled, or moved to another landing (R313, R335). -/
def workqChange (old t : State) (q : Nat) : State :=
  let g := Pg.workQ
  let was := old.rd g Reg.WorkQ.QEN [q]
  let is_ := t.rd g Reg.WorkQ.QEN [q]
  let moved := old.rd g Reg.WorkQ.QLANDING [q] != t.rd g Reg.WorkQ.QLANDING [q]
  let drop := fun (t : State) => t.revoke (.workq q)
  if was = 1 ∧ is_ = 0 then ((drop t).freshQueue q).wr g Reg.WorkQ.CSEQ [q] 0
  else if is_ = 1 ∧ (was = 0 ∨ moved) then
    (drop t).hubRegister (t.rd g Reg.WorkQ.QLANDING [q]) 11 (.workq q) true 0 none
  else t

/-- Comparators of a Sluice job. -/
def SluiceJob.tags (j : SluiceJob) (tag : Nat) : Bool := cmpSluice j.q j.slot 0 ≤ tag && tag < cmpSluice j.q j.slot 8

/-- Writes of a Sluice job are held back. -/
def State.sluiceHeld (s : State) (j : SluiceJob) : Bool := s.stalled.any fun w => w.own == some (cmpSluice j.q j.slot 0)

/-- Blocks in flight whose writes have been accepted are counted as completed; INFLIGHT shows the others (R364). -/
def State.sluiceAccepted (s : State) : State :=
  let t := s.sluice.foldl (fun t j =>
    match j.flight with
    | some (d, u, n) =>
      if s.sluiceHeld j then t else (t.count (Pg.die d) Reg.Die.BLOCKS [u] 1).count (Pg.die d) Reg.Die.ELEMS [u] n
    | none => t) s
  let js := s.sluice.map fun j => if s.sluiceHeld j then j else { j with flight := none }
  let busy := fun d u => (js.filter fun j => j.flight.any fun f => f.1 == d && f.2.1 == u).length
  (List.range 16).foldl (fun t i => t.wr (Pg.die (i / 4)) Reg.Die.INFLIGHT [i % 4] (busy (i / 4) (i % 4)))
    { t with sluice := js }

/-- A Sluice queue that is disabled forgets its jobs (log entry 41). -/
def State.freshSluice (s : State) (q : Nat) : State :=
  let t : State := { s with
    sluice := s.sluice.filter fun j => j.q != q
    hubCmp := s.hubCmp.filter fun c => !(cmpSluice q 0 0 ≤ c.1 && c.1 < cmpSluice q 2 0) }
  t.wr Pg.sluiceQ Reg.SluiceQ.DONE [q] (t.rd Pg.sluiceQ Reg.SluiceQ.HEAD [q])

/-- Likewise a Sluice queue (R337). -/
def sluiceqChange (old t : State) (q : Nat) : State :=
  let g := Pg.sluiceQ
  let was := old.rd g Reg.SluiceQ.QEN [q]
  let is_ := t.rd g Reg.SluiceQ.QEN [q]
  let moved := old.rd g Reg.SluiceQ.QLANDING [q] != t.rd g Reg.SluiceQ.QLANDING [q]
  let drop := fun (t : State) => t.revoke (.sluice q)
  if was = 1 ∧ is_ = 0 then (drop t).freshSluice q
  else if is_ = 1 ∧ (was = 0 ∨ moved) then
    (drop t).hubRegister (t.rd g Reg.SluiceQ.QLANDING [q]) 10 (.sluice q) true 0 none
  else t

/-- Batches of which a sample stands after a fault are forgotten, with their channels. -/
def State.forgetBatches (s : State) : State :=
  let bad := s.batches.filter fun b => s.chans.any fun e => e.2.any fun c => c.failed && c.no == b.no
  { s with
    batches := s.batches.filter fun b => !bad.contains b
    chans := s.chans.filter fun e => !(e.2.any fun c => bad.any fun b => b.no == c.no) }

/-- An APPLY of the Wharf page registers the ingest sequencer's claim (log entry 30). -/
def sequencerChange (t : State) (pages : List Nat) : State :=
  if pages.contains Pg.wharf ∧ !t.granted.contains .sequencer then
    let t := t.forgetBatches
    (t.dropWaiter .sequencer).hubRegister (t.rd Pg.wharf Reg.Wharf.IQ_LANDING) 15 .sequencer true 0
      (timeoutOf (t.rd Pg.wharf Reg.Wharf.IQ_TIMEOUT))
  else t

/-- An APPLY that sets FRZ_LEN registers the freeze waiter; one that clears it removes the waiter (R462). -/
def freezeLenChange (old t : State) : State :=
  let g := Pg.slack
  let u := t.dropWaiter .freeze
  let drop := { u with freeze := { u.freeze with waiter := false } }
  if t.rd g Reg.Slack.FRZ_LEN = 1 ∧ (old.rd g Reg.Slack.FRZ_LEN = 0 ∨ old.stagedWritten.contains (regKey g 0x100)) then
    ({ drop with freeze := { drop.freeze with waiter := true } }).hubRegister (t.rd g Reg.Slack.FRZ_LANDING) 13 .freeze false
      (t.rd g Reg.Slack.FRZ_V) (timeoutOf (t.rd g Reg.Slack.FRZ_TIMEOUT))
  else if t.rd g Reg.Slack.FRZ_LEN = 0 ∧ old.rd g Reg.Slack.FRZ_LEN = 1 then drop
  else t

/-- Margining runs while MARGIN_EN is set, the spare is free and the port is up (R306). The eye that it measures is free. -/
def State.margin (s : State) (p : Nat) : State :=
  let g := Pg.ferry p
  let run := s.rd g Reg.Ferry.MARGIN_EN = 1 ∧ s.rd g Reg.Ferry.SPARE_FOR = 0xF ∧ s.portUp p
  let t := s.wr g Reg.Ferry.MARGINING [] (bit run)
  if run ∧ s.rd g Reg.Ferry.MARGINING = 0 then
    let r := t.drawWord
    r.2.wr g Reg.Ferry.MARGIN_EYE [] r.1.toNat
  else t

/-- PORT_EN and MARGIN_EN of a port (R300, R305, R306). -/
def portChange (old t : State) (p : Nat) : State :=
  let g := Pg.ferry p
  let t :=
    if old.rd g Reg.Ferry.PORT_EN = 0 ∧ t.rd g Reg.Ferry.PORT_EN = 1 then
      ((t.setPort p (t.port p).cleared).wr g Reg.Ferry.PSTATE [] 1).wr g Reg.Ferry.FAILS [] 0
    else if old.rd g Reg.Ferry.PORT_EN = 1 ∧ t.rd g Reg.Ferry.PORT_EN = 0 then
      (t.setPort p (t.port p).cleared).wr g Reg.Ferry.PSTATE [] 0
    else t
  t.margin p

/-- Towpath MODE leaving 0, and DEST leaving 0 (R481, R485). -/
def traceChange (old t : State) : State :=
  let t := (List.range 4).foldl (fun t p =>
    if old.towMode p = 0 ∧ t.towMode p ≠ 0 then (t.resetChain p).setTow p Towpath.idle else t) t
  if old.rd Pg.trace Reg.Trace.DEST = 0 ∧ t.rd Pg.trace Reg.Trace.DEST ≠ 0 then
    ({ t with traceSeq := 0, ringRecs := [], ringHead := 0 }.wr Pg.trace Reg.Trace.RING_HEAD [] 0).wr Pg.trace Reg.Trace.RING_OLDEST [] 0
  else t

/-- Setting HREC_EN starts HREC_NEXT at 0 (R365). -/
def hrecChange (old t : State) (p : Nat) : State :=
  let g := Pg.phase p
  if old.rd g Reg.Phase.HREC_EN = 0 ∧ t.rd g Reg.Phase.HREC_EN = 1 then t.wr g Reg.Phase.HREC_NEXT [] 0 else t

/-- The lowest target that is requested, as its code, and THROTTLE_CAUSE (R459). A tie names the cause that stands first. -/
def State.rootTarget (s : State) : Nat × Nat :=
  let g := Pg.clocks
  let reqs := [(s.throttle.pwr, 1), (s.throttle.tmp, 2),
    (if s.throttle.pin then s.rd g Reg.Clocks.THROTTLE_FLOOR else 0, 3)]
  reqs.foldl (fun a r => if a.1 < r.1 then r else a) (s.rd g Reg.Clocks.ROOT_TARGET, 0)

/-- A glide starts where the root is not at its target (R456). -/
def State.retarget (s : State) : State :=
  let g := Pg.clocks
  let r := s.rootTarget
  (s.wr g Reg.Clocks.THROTTLE_CAUSE [] r.2).wr g Reg.Clocks.GLIDING [] (bit (s.rd g Reg.Clocks.ROOT_NOW != r.1))

/-- POLDER of the pages of the compute dies follows PCFG (R498, R500). -/
def pcfgChange (old t : State) : State :=
  if old.pcfg = t.pcfg then t
  else ((List.range 512).filter fun n => (pageKind (0x100 + n)).isSome).foldl (fun t n =>
    t.wr (0x100 + n) Reg.Common.POLDER [] (t.polderOfDie (pageDie (0x100 + n)))) t

/-- Everything an apply edge starts, from the pages of the commit set. -/
def applyEffects (old t : State) (pages : List Nat) : State :=
  let t := startMoves old t pages
  let t := pcfgChange old t.retarget
  let t := (List.range 4).foldl (fun t p => contextChange old t p) t
  let t := (List.range 4).foldl (fun t p => (List.range 4).foldl (fun t i => shadowChange old t p (i / 2) (i % 2)) t) t
  let t := hostEnChange old t
  let t := (List.range 32).foldl (fun t q => workqChange old t q) t
  let t := (List.range 8).foldl (fun t q => sluiceqChange old t q) t
  let t := sequencerChange t pages
  let t := freezeLenChange old t
  let t := (List.range 16).foldl (fun t p => portChange old t p) t
  let t := traceChange old t
  (List.range 4).foldl (fun t p => runChange (hrecChange old t p) pages p) t

/-- The apply edge E of a software commit (R509). -/
def State.applyCommit (s : State) : State :=
  let pages := s.dirtyPages
  let t := s.afterApply
  let t := pages.foldl (fun t n => (t.wr n Reg.Common.DIRTY [] 0).wr n Reg.Common.CHECKFAIL [] 0) t
  let t := t.noteDirty
  let t := applyEffects s { t with stagedWritten := [], commit := none, granted := t.granted.filter fun w => w != WaitWho.commit } pages
  let g := Pg.commit
  let t := (t.wr g Reg.Commit.CSTATE [] 5).count g Reg.Commit.APPLIES [] 1
  ((t.wr2 g Reg.Commit.APPLY_STAMP_LO Reg.Commit.APPLY_STAMP_HI [] s.timestamp).setEvent g).loadsRun

/-! The commands. -/

/-- A write to a register: ignored during a freeze (R463), without power and in recovery (R439); it takes effect once the
gather buffers are written (R423). -/
def State.written (s : State) (f : State → State) : State :=
  if s.frozen || !s.power.rails || s.recovery then s else f s.drainGather

/-- A check or an armed commit locks the COMMIT page (R510). -/
def State.commitLocked (s : State) : Bool :=
  s.rd Pg.commit Reg.Commit.CSTATE == 1 || s.rd Pg.commit Reg.Commit.CSTATE == 4

/-- A write that the lock ignores. -/
def State.lockedWrite (s : State) : State := s.count Pg.commit Reg.Commit.LOCKED_WRITES [] 1

/-- Start a CHECK, for itself or for an APPLY. -/
def State.startCheck (s : State) (apply : Bool) : State :=
  if s.commitLocked then s.lockedWrite
  else { (s.wr Pg.commit Reg.Commit.CSTATE [] 1) with commit := some ⟨apply, 0, 0, 0⟩ }

/-- CHECK (R506): a check starts. -/
def execCheck (s : State) : Host.Outcome State Fault Refusal := .next (s.written fun s => s.startCheck false)

/-- APPLY (R508): its check starts. -/
def execApply (s : State) : Host.Outcome State Fault Refusal := .next (s.written fun s => s.startCheck true)

/-- Report a check's result: CPAGE, CWORD, CBIT, CREASON and CHECKFAIL. -/
def State.reportCheck (s : State) (bad : Option (Nat × Nat × Nat × Nat)) : State :=
  let g := Pg.commit
  let named := (s.regs.filter fun e => e.1 % 1024 == 2 && e.2.getLsbD 2).map fun e => e.1 / 1024
  let s := named.foldl (fun t n => t.wr n Reg.Common.CHECKFAIL [] 0) s
  match bad with
  | none => s.setWord g 0x124 0
  | some (n, o, b, r) =>
    let t := (s.wr g Reg.Commit.CPAGE [] n).wr g Reg.Commit.CWORD [] (o / 4)
    ((t.wr g Reg.Commit.CBIT [] b).wr g Reg.Commit.CREASON [] r).wr n Reg.Common.CHECKFAIL [] 1

/-- Arm a commit whose check found nothing (R508). -/
def State.arm (s : State) : State :=
  let g := Pg.commit
  let s := s.wr g Reg.Commit.CSTATE [] 4
  let pol := s.rd g Reg.Commit.APOLDER
  match s.rd g Reg.Commit.AMODE with
  | 1 => { s with commit := some ⟨true, if s.runState pol = 3 then 1 else 0, pol, 0⟩ }
  | 2 =>
    { s with commit := some ⟨true, 2, pol, 0⟩ }.hubRegister (s.rd g Reg.Commit.ALANDING) 14 .commit false (s.rd g Reg.Commit.AV)
      (some (1024 * s.rd g Reg.Commit.ATIMEOUT))
  | 3 =>
    let due := s.rd2 g Reg.Commit.ATIME_LO Reg.Commit.ATIME_HI
    let late := due ≤ s.timestamp
    { (s.wr g Reg.Commit.LATE [] (bit late)) with commit := some ⟨true, if late then 0 else 3, pol, due⟩ }
  | _ => { s with commit := some ⟨true, 0, pol, 0⟩ }

/-- CHECK_DONE (R506): the check in progress completes; an APPLY's consistent commit is armed. -/
def execCheckDone (s : State) : Host.Outcome State Fault Refusal :=
  .next <|
    match s.commit with
    | none => s
    | some c =>
      if s.frozen || s.rd Pg.commit Reg.Commit.CSTATE != 1 then s
      else
        let bad := s.firstBad s.afterApply s.dirtyPages
        let t := (s.reportCheck bad).setEvent Pg.commit
        if bad.isSome then { (t.wr Pg.commit Reg.Commit.CSTATE [] 3) with commit := none }
        else if c.apply then t.arm
        else { (t.wr Pg.commit Reg.Commit.CSTATE [] 2) with commit := none }

/-- The edge that AMODE selects has come, outside a step boundary. -/
def State.edgeCome (s : State) (c : Commit) : Bool :=
  match c.mode with
  | 0 => true
  | 1 => s.runState c.pol != 3
  | 2 => s.granted.contains .commit
  | _ => c.due ≤ s.timestamp

/-- APPLY_EDGE (R509): the apply edge of an armed commit, outside a step boundary. -/
def execApplyEdge (s : State) : Host.Outcome State Fault Refusal :=
  .next <|
    match s.commit with
    | none => s
    | some c =>
      if s.frozen || s.rd Pg.commit Reg.Commit.CSTATE != 4 || !s.edgeCome c then s else s.applyCommit

/-- An armed commit is aborted; the staged images stay. -/
def State.abortCommit (s : State) : State :=
  if s.rd Pg.commit Reg.Commit.CSTATE ≠ 4 then s
  else
    let t := s.revoke .commit
    (({ t with commit := none }.wr Pg.commit Reg.Commit.CSTATE [] 6).setEvent Pg.commit).loadsRun

/-- ABORT (R510). -/
def execAbort (s : State) : Host.Outcome State Fault Refusal := .next (s.written State.abortCommit)

/-- ATIMEOUT_EXPIRY (R284, R510): the slot-14 waiter of an armed commit outlasts ATIMEOUT, unless it is released in the same
SCLK. -/
def execAtimeoutExpiry (s : State) : Host.Outcome State Fault Refusal :=
  .next <|
    if s.still || s.rd Pg.commit Reg.Commit.CSTATE != 4 then s
    else
      match s.landings.findSome? fun e => (e.2.waiters.find? fun w => w.2.who == .commit).map fun w => (e.1, w) with
      | some (n, w) => if s.releasedNow n w.1 then s else (s.waitTimesOut n w.1 w.2).loadsRun
      | none => s

/-- Every staged image follows the live fields again. -/
def State.discardEvery (s : State) : State :=
  if s.commitLocked then s.lockedWrite else s.dirtyPages.foldl State.discardPage s

/-- DISCARD_ALL (R510). -/
def execDiscardAll (s : State) : Host.Outcome State Fault Refusal := .next (s.written State.discardEvery)

/-- One page's staged image follows its live fields again. -/
def State.discardOne (s : State) (n : Nat) : State :=
  if (pageKind n).isNone then s else if s.commitLocked then s.lockedWrite else s.discardPage n

/-- DISCARD (R500). -/
def execDiscard (page : PageId) (s : State) : Host.Outcome State Fault Refusal :=
  .next (s.written fun s => s.discardOne page.val)

/-- A host write of a word's ST bits: staged, or ignored and counted while a commit is armed (R504, R505). -/
def State.hostStage (s : State) (n o : Nat) (v : Word) : State :=
  if stMask n o = 0 then s
  else if s.rd Pg.commit Reg.Commit.CSTATE = 4 then s.lockedWrite
  else s.stageWord n o v

/-- LOAD (R248, R505): the word's RUN bit is staged as it stands. -/
def execLoad (pol : PolderId) (s : State) : Host.Outcome State Fault Refusal :=
  .next (s.written fun s =>
    let g := Pg.program pol.val
    (s.hostStage g 0x110 (s.word g 0x810)).load pol.val)

/-- MOVE_COMPLETE (R387, R391): the move of a logical core or of its pool's banks is done; `errs` are the granules whose
copy met an error. -/
def execMoveComplete (core : CoreId) (errs : List Nat) (s : State) : Host.Outcome State Fault Refusal :=
  .next <|
    match s.moves.find? fun m => m.core == core.val with
    | none => s
    | some m =>
      if s.frozen || (m.held && s.hold.now != some .substitution) then s
      else
        let t := (s.finishMove m errs).loadsRun
        if m.held && !(t.moves.any (·.held)) then
          let u := { t with hold := { t.hold with done := true } }
          (List.range 4).foldl (fun u p => if (u.polder p).cutDue then u.takeCut p else u) u
        else t

end Sys2Proof.Machine
end

