-- ==== Sys2Proof/Machine/Boundary.lean ====
section
/-! DEFINITION. The ends and starts of steps: abandoned steps, boundaries, rotation and restarts (R12, R251, R268, R358, R373,
R382, R394, R400, R401). -/

namespace Sys2Proof.Machine

/-- Engines of a polder. -/
def State.engsOf (s : State) (p : Nat) : List Nat := (s.diesOf p).flatMap engsOfDie

/-! Draining (R401). -/

/-- Queues homed in a polder. -/
def State.queuesOf (s : State) (p : Nat) : List WaitWho :=
  ((List.range 32).filter fun q =>
      s.rd Pg.workQ Reg.WorkQ.QEN [q] == 1 && s.polderOfDie (s.rd Pg.workQ Reg.WorkQ.HDIE [q]) == p).map WaitWho.workq
    ++ ((List.range 8).filter fun q =>
      s.rd Pg.sluiceQ Reg.SluiceQ.QEN [q] == 1 && s.polderOfDie (s.rd Pg.sluiceQ Reg.SluiceQ.HDIE [q]) == p).map WaitWho.sluice

/-- Clear QEN of a queue. -/
def State.disableQueue (s : State) : WaitWho → State
  | .workq q => workqChange s (s.wrSt Pg.workQ Reg.WorkQ.QEN [q] 0) q
  | .sluice q => sluiceqChange s (s.wrSt Pg.sluiceQ Reg.SluiceQ.QEN [q] 0) q
  | _ => s

/-- A draining polder that no longer runs enters DRAINED; `wait` where it waits for its snapshot (R373). -/
def State.tryDrain (s : State) (p : Nat) (wait : Bool) : State :=
  if s.rd Pg.polders Reg.Polders.PSTATE [p] ≠ 1 ∨ s.runState p = 3
      ∨ (wait ∧ s.rd (Pg.staithe p) Reg.Staithe.SNAP_EN = 1 ∧ (s.snap p).active) then s
  else ((s.queuesOf p).foldl State.disableQueue s).wr Pg.polders Reg.Polders.PSTATE [p] 2

/-! Abandoned steps. -/

/-- The queues of a polder stop claiming; an operation they have begun goes on. -/
def State.haltQueues (s : State) (p : Nat) : State :=
  (s.queuesOf p).foldl (fun t w =>
    let u := t.revoke w
    { u with haltedQ := u.haltedQ ++ [w] }) s

/-- The polder's engines stop, RUN is cleared and STATE becomes 2. A NARROW's job stands under its engine's number +
2,048. -/
def State.abandonStep (s : State) (p : Nat) : State :=
  let ks := s.engsOf p
  let t := ks.foldl (fun t k =>
    let e := t.engine k
    if e.queue.isEmpty then t else (t.setEngine k { e with queue := [], head := e.len }).occupancy k) s
  let t := ks.foldl (fun t k => (t.dropJob k).dropJob (k + 2048)) t
  let t : State := { t with inflight := t.inflight.filter fun x => !ks.contains x.eng }
  let t := (t.wrSt (Pg.program p) Reg.Program.RUN [] 0).wr (Pg.program p) Reg.Program.STATE [] 2
  let t := t.setPolder p { Polder.idle with rotation := (s.polder p).rotation }
  (t.haltQueues p).tryDrain p false

/-- STEP_ABANDONED (R268, R400): the SCLK after a fault or ABANDON. -/
def execStepAbandoned (pol : PolderId) (s : State) : Host.Outcome State Fault Refusal :=
  let p := pol.val
  .next <|
    if s.frozen || !(s.polder p).fault then s
    else if s.runState p = 3 then s.abandonStep p
    else s.setPolder p { s.polder p with fault := false, downs := [] }

/-! Boundaries. -/

/-- A core or gate of the polder is named by a last-signaller word of this module (R272). -/
def State.ownLast (s : State) (p last : Nat) : Bool :=
  bits last 11 0 == s.modId && bits last 14 12 < 4 && bits last 21 18 < 8 && s.polderOfDie (bits last 14 12) == p

/-- A wait that a gate of the polder registered is outstanding (R281). -/
def State.gateWaiting (s : State) (p : Nat) : Bool :=
  s.landings.any fun e => e.2.waiters.any fun w =>
    match w.2.who with
    | .gate c _ => s.polderOfCore c == p
    | _ => false

/-- No signal or registration of the polder's gates is on its way (R251). -/
def State.gatesQuiet (s : State) (p : Nat) : Bool :=
  (s.landingQ.all fun q =>
    match q.op with
    | .register _ _ w =>
      match w.who with
      | .gate c _ => s.polderOfCore c != p
      | _ => true
    | .signal _ _ _ last => !s.ownLast p last.toNat)
  && s.ports.all fun o => o.out.all fun x =>
      x.kind != Kind.signal || x.src.toNat != s.modId || x.xid != 0 || !s.ownLast p (crossNum x 4 4 + s.modId)

/-- Every engine has retired its section, nothing of the polder is outstanding, no wait of its gates neither, and its Sluice
jobs are complete (R251, R281, R349). -/
def State.stepDone (s : State) (p : Nat) : Bool :=
  let x := s.polder p
  x.live && !x.fault
    && (s.engsOf p).all (fun k => (s.engine k).queue.isEmpty && (s.engine k).len ≤ (s.engine k).head)
    && s.inflight.all (fun x => s.polderOfDie (engDie x.eng) != p)
    && s.reqs.all (fun r => r.cls == 4 || s.polderOfCore r.core != p)
    && s.gatesQuiet p && !s.gateWaiting p
    && (List.range 8).all (fun q => s.polderOfCore (s.sluiceHome q) != p
      || !(s.granted.contains (.sluice q) || s.sluice.any (fun j => j.q == q)))

/-- The boundary waits for the snapshot of the step: until it is complete locally, and with BUDDY_EN set at the buddy (R373). -/
def State.snapWaits (s : State) (p : Nat) : Bool :=
  let g := Pg.staithe p
  s.rd g Reg.Staithe.SNAP_EN == 1 && (s.snap p).active && !((s.snap p).whole && s.rd g Reg.Staithe.BUDDY_EN == 0)

/-- Fields the module's agents staged for this polder take effect (R511). -/
def State.applyAgents (s : State) (p : Nat) : State :=
  let mine := s.agentWrites.filter fun w => s.polderOfPage w.1 == some p
  let t := mine.foldl (fun t w => t.putLive w.1 w.2.1 w.2.2.1 w.2.2.2) s
  { t with agentWrites := t.agentWrites.filter fun w => s.polderOfPage w.1 != some p }

/-- The physical core of a cluster that carries no name. -/
def State.freeCore (s : State) (cl : Nat) : Option Nat :=
  (List.range 9).find? fun ph => !(List.range 8).any fun k => s.physCore (8 * cl + k) == ph

/-- The logical core whose physical core a rotation of cluster `cl` takes out: a core that is not OK, else when the period
is over the one that has gone longest without a sounding (R394). -/
def State.rotateOut (s : State) (cl : Nat) (due : Bool) : Option Nat :=
  let cs := (List.range 8).map fun k => 8 * cl + k
  match cs.find? fun c => s.wstate cl (s.physCore c) != 0 with
  | some c => some c
  | none =>
    if due then
      let age := fun c => sget (fun _ => 0) s.sounded (9 * cl + s.physCore c)
      cs.find? fun c => cs.all fun e => age c ≤ age e
    else none

/-- The sequencer's substitution in one cluster. -/
def State.rotateClu (s : State) (cl : Nat) (due : Bool) : State :=
  match s.freeCore cl, s.rotateOut cl due with
  | some ph, some c =>
    if s.wstate cl ph = 0 ∧ s.soundOk.contains (9 * cl + ph) then
      let k := 4 * (c % 8)
      let t := s.putLive (Pg.clu cl) 0x100 (BitVec.ofNat 32 (15 * 2 ^ k)) (BitVec.ofNat 32 (ph * 2 ^ k))
      { t with soundOk := t.soundOk.filter fun x => x != 9 * cl + ph }
    else s
  | _, _ => s

/-- Rotation at a boundary of polder `p`: its moves start as those of an APPLY. -/
def State.rotate (s : State) (p : Nat) : State :=
  if s.rd Pg.reliab Reg.Reliab.ROT_EN ≠ 1 then s
  else
    let x := s.polder p
    let due := s.rd Pg.reliab Reg.Reliab.ROT_PERIOD ≤ x.rotation + 1
    let cls := (s.diesOf p).flatMap fun d => (List.range 8).map (8 * d + ·)
    let t := cls.foldl (fun t cl => t.rotateClu cl due) (s.setPolder p { x with rotation := if due then 0 else x.rotation + 1 })
    let pages := (cls.filter fun cl => s.word (Pg.clu cl) 0x100 != t.word (Pg.clu cl) 0x100).map Pg.clu
    if pages.isEmpty then t else startMoves s t pages

/-- A commit armed for a boundary of this polder takes effect. -/
def State.boundaryCommit (s : State) (p : Nat) : State :=
  match s.commit with
  | some c => if s.rd Pg.commit Reg.Commit.CSTATE = 4 ∧ c.mode = 1 ∧ c.pol = p then s.applyCommit else s
  | none => s

/-- The actions of a step boundary in their order, up to the cut (R251). -/
def State.boundary (s : State) (p : Nat) : State :=
  let g := Pg.staithe p
  let x := s.polder p
  let t := s.wrSt Pg.commit Reg.Commit.STEP [p] (s.stepNo p + 1)
  let t := (t.wr g Reg.Staithe.BWAIT [] x.bwait).setPolder p { x with live := false, boundary := true, cutDue := true, bwait := 0 }
  let t := ((t.boundaryCommit p).applyAgents p).rotate p
  let t := if t.rd Pg.polders Reg.Polders.PSTATE [p] = 1 then t.wrSt (Pg.program p) Reg.Program.RUN [] 0 else t
  let t :=
    if t.rd (Pg.program p) Reg.Program.RUN = 0 then
      (t.wr (Pg.program p) Reg.Program.STATE [] 2).setPolder p { t.polder p with boundary := false }
    else t
  let t := if t.moves.any (·.held) then t else t.takeCut p
  t.tryDrain p true

/-- STEP_BOUNDARY (R251). -/
def execStepBoundary (pol : PolderId) (s : State) : Host.Outcome State Fault Refusal :=
  let p := pol.val
  .next (if s.still || !s.stepDone p || s.snapWaits p then s else s.boundary p)

/-! Restarts. -/

/-- No fetch of a stream of the polder is in flight: one that an abandoned step left behind completes first (R193). -/
def State.fetchesOver (s : State) (p : Nat) : Bool := s.reqs.all fun r => r.owner != 0 || 3 ≤ r.cls || s.polderOfCore r.core != p

/-- The first edge of a step: what an abandoned step left behind is closed, engines at the start of their sections, gates latched,
counts at zero. -/
def State.startStep (s : State) (p : Nat) : State :=
  let cs := s.coresOf p
  let t := s.closeStep p
  let t := (s.engsOf p).foldl (fun t k =>
    let e := t.engine k
    if e.len = 0 then t else (t.setEngine k { e with queue := [], head := 0 }).refill k) t
  let t := t.setPolder p { t.polder p with boundary := false, starting := false, live := true }
  let t := cs.foldl State.latchGates t
  let g := Pg.phase p
  ((List.range 13).foldl (fun t i => t.wr g Reg.Phase.LIVE [i] 0) t).wr g Reg.Phase.CPHASE [] 0

/-- STEP_START (R248, R251): a wheel-turn boundary after the boundary's actions, or after the APPLY that set RUN. -/
def execStepStart (pol : PolderId) (s : State) : Host.Outcome State Fault Refusal :=
  let p := pol.val
  let x := s.polder p
  .next <|
    if s.still || !(x.boundary || x.starting) || x.cutDue || s.runState p != 3 || !s.wheel.turns || s.wheel.slots % 64 != 0
        || s.moves.any (fun m => s.polderOfCore m.core == p) || (s.diesOf p).any s.heldDies.contains || !s.fetchesOver p then s
    else s.startStep p

end Sys2Proof.Machine
end

