-- ==== Sys2Proof/Machine/Queue.lean ====
section
/-! DEFINITION. Ferry work queues: descriptors, claims, faults, reads and completions (R313 to R317, R335). -/

namespace Sys2Proof.Machine

/-! Descriptors (R314). -/

/-- A work descriptor. -/
structure WorkDesc where
  kind    : Nat
  lden    : Bool
  ldone   : Nat
  rsen    : Bool
  radv    : Bool
  tagen   : Bool
  scvm    : Bool
  dcvm    : Bool
  rland   : Nat
  rinc    : Nat
  src     : Nat
  tag     : Nat
  dst     : Nat
  lines   : Nat
  group   : Nat
  /-- Members. -/
  r       : Nat
  rank    : Nat
  c48     : Bool
  obf     : Bool
  ibf     : Bool
  rnd     : Nat
  sat     : Bool
  /-- Local contributions. -/
  nloc    : Nat
  /-- Streams. -/
  streams : Nat
  /-- Elements. -/
  n       : Nat
  scratch : Nat
  tid     : Nat
  idx     : Nat
  deriving DecidableEq, Repr

def workDesc (d : List Byte) : WorkDesc :=
  let w := fun i => dword d (4 * i)
  { kind := bits (w 0) 3 0, lden := bits (w 0) 4 4 = 1, ldone := bits (w 0) 17 5, rsen := bits (w 0) 18 18 = 1
    radv := bits (w 0) 19 19 = 1, tagen := bits (w 0) 20 20 = 1, scvm := bits (w 0) 21 21 = 1, dcvm := bits (w 0) 22 22 = 1
    rland := bits (w 1) 12 0, rinc := bits (w 1) 28 13, src := w 2 + bits (w 3) 15 0 * 2 ^ 32, tag := bits (w 3) 31 16
    dst := w 4 + bits (w 5) 27 0 * 2 ^ 32, lines := bits (w 6) 25 0 + 1, group := w 8 + bits (w 9) 15 0 * 2 ^ 32
    r := bits (w 9) 27 16 + 1, rank := bits (w 10) 11 0, c48 := bits (w 10) 12 12 = 1, obf := bits (w 10) 13 13 = 1
    ibf := bits (w 10) 14 14 = 1, rnd := bits (w 10) 16 15, sat := bits (w 10) 17 17 = 1, nloc := bits (w 10) 21 18 + 1
    streams := 2 * (bits (w 10) 24 22 + 1), n := w 11 + 1, scratch := w 12 + bits (w 13) 15 0 * 2 ^ 32, tid := w 14
    idx := w 15 + bits (w 16) 7 0 * 2 ^ 32 }

/-- Bits of word `i` that a descriptor of this kind uses. -/
def workMask (kind i : Nat) : Nat :=
  let put := kind == 1
  let coll := kind == 2 || kind == 3 || kind == 4
  let shard := kind == 5
  let any := kind != 6
  let group := coll || shard
  match i with
  | 0 => 0x3FFFF + (if put then 0x1C0000 else 0) + (if put || shard then 0x200000 else 0)
      + (if put || shard || coll then 0x400000 else 0)
  | 1 => if put then 0x1FFFFFFF else 0
  | 2 => if any then 0xFFFFFFFF else 0
  | 3 => if put then 0xFFFFFFFF else if any then 0xFFFF else 0
  | 4 => if any then 0xFFFFFFFF else 0
  | 5 => if put then 0xFFFFFFF else if any then 0xFFFF else 0
  | 6 => if put || shard then 0x3FFFFFF else 0
  | 8 => if group then 0xFFFFFFFF else 0
  | 9 => if group then 0xFFFFFFF else 0
  | 10 => if coll then 0x1C3FFFF + (if kind != 4 then 0x3C0000 else 0) else if shard then 0xFFF else 0
  | 11 => if coll then 0xFFFFFFFF else 0
  | 12 => if group then 0xFFFFF000 else 0
  | 13 => if group then 0xFFFF else 0
  | 14 => if coll then 0xFFFFFFFF else 0
  | 15 => if coll then 0xFFFFFFFF else 0
  | 16 => if coll then 0xFF else 0
  | _ => 0

/-- A descriptor without a reserved encoding. -/
def workOk (d : List Byte) : Bool :=
  let x := workDesc d
  1 ≤ x.kind && x.kind ≤ 6
    && (List.range 32).all (fun i => dword d (4 * i) &&& (0xFFFFFFFF - workMask x.kind i) == 0)
    && !(x.kind == 1 && x.rsen && x.rinc == 0)
    && !(2 ≤ x.kind && x.kind ≤ 4 && 2 ≤ x.rnd)
    && !(2 ≤ x.kind && x.kind ≤ 3 && 65535 < (x.r - 1) * x.nloc)

/-! Claims. -/

def State.workq (s : State) (q : Nat) : WorkQ := sget (fun _ => WorkQ.idle) s.workqs q

/-- Write a queue's record; INFLIGHT shows its PUTs. -/
def State.setWorkq (s : State) (q : Nat) (x : WorkQ) : State :=
  { s with workqs := sset (fun _ => WorkQ.idle) s.workqs q x }.wr Pg.workQ Reg.WorkQ.INFLIGHT [q] x.puts.length

/-- Address of a ring entry of a queue. -/
def State.workAddr (s : State) (q i : Nat) : Nat :=
  s.rd2 Pg.workQ Reg.WorkQ.RING_LO Reg.WorkQ.RING_HI [q] + 128 * i

/-- Ring index after `i`. -/
def State.workNext (s : State) (q i : Nat) : Nat := (i + 1) % 2 ^ s.rd Pg.workQ Reg.WorkQ.LOG2 [q]

/-- The queue claims again, unless its polder's step was abandoned. -/
def State.reclaim (s : State) (q : Nat) : State :=
  if s.haltedQ.contains (.workq q) ∨ s.rd Pg.workQ Reg.WorkQ.QEN [q] = 0 then s
  else s.hubRegister (s.rd Pg.workQ Reg.WorkQ.QLANDING [q]) 11 (.workq q) true 0 none

/-- The requests of an access that a queue has made: class S3 of HOME, in the slots of port 8 with OWN 8 (R313, log entry 11). -/
def State.workTraffic (s : State) (q : Nat) (write : Bool) (a n : Nat) : State :=
  s.traffic (Req.madeBy ⟨0, 8, 8⟩ (s.workHome q % 256) 3 9 q 0 0 write) [(a, n)]

/-- The granted descriptor is taken: HEAD advances and the next claim is registered. -/
def State.takeWork (s : State) (q : Nat) : State :=
  let i := s.rd Pg.workQ Reg.WorkQ.HEAD [q]
  let t : State := { s with granted := s.granted.filter fun w => w != .workq q }
  ((t.wr Pg.workQ Reg.WorkQ.HEAD [q] (s.workNext q i)).workTraffic q false (s.workAddr q i) 128).reclaim q

/-- A fault of a work queue; a stale tag is noted in the landing page too (R292). -/
def State.workFault (s : State) (q code addr : Nat) : State :=
  (s.noteStale code addr).queueFault Pg.workQ 9 q (s.workHome q) code addr

/-- The polder a queue belongs to. -/
def State.workPolder (s : State) (q : Nat) : Nat := s.polderOfCore (s.workHome q)

/-! Accesses of a queue (R143, R171, R185, R313). -/

/-- First address in [a, a + n) that a hub unit cannot read under the windows of core `who`, with its fault; `none` inside
where data has yet to arrive. `cvm` verifies each block. -/
def State.hubReadStop (s : State) (who a n : Nat) (cvm : Bool) : Option (Option (Nat × Nat)) :=
  (linesOf a n).findSome? fun l =>
    match s.readStop who l with
    | some (.fault c b) => some (some (c, b))
    | some .wait => some none
    | none => if cvm && isModMem l && s.verify (blockOf l) != .ok then some (some (0x46, blockOf l)) else none

/-- A failed check of a read of [a, a + n) that takes part of block `b` is the controller's, and is recorded in the die page
(R185, R202). -/
def State.partCheck (s : State) (code b a n : Nat) : State :=
  if code = 0x46 ∧ !(a ≤ b && b + 4096 ≤ a + n) then s.recordCheck b (s.verify b) else s

def State.workReadStop (s : State) (q a n : Nat) (cvm : Bool) : Option (Option (Nat × Nat)) :=
  s.hubReadStop (s.workHome q) a n cvm

def State.hubWriteStop (s : State) (who a n : Nat) : Option (Nat × Nat) :=
  (linesOf a n).findSome? fun l => (s.writeStop who l).bind Stop.faultOf

def State.workWriteStop (s : State) (q a n : Nat) : Option (Nat × Nat) :=
  s.hubWriteStop (s.workHome q) a n

/-- Requests of a queue are outstanding. -/
def State.workBusy (s : State) (q : Nat) : Bool := s.reqs.any fun r => r.eng == 9 && r.pc == q

/-- A read of a queue is charged and makes its requests. -/
def State.workRead (s : State) (q a n : Nat) : State := (s.acctMem (s.workPolder q) a n false).workTraffic q false a n

/-- A write of a queue (unit 15 of R201). -/
def State.workWrite (s : State) (q a : Nat) (bs : List Byte) (cvm : Bool) : State :=
  let r := ((s.acctMem (s.workPolder q) a bs.length true).workTraffic q true a bs.length).store (hubWrite a bs cvm)
  match r.2 with
  | some b => r.1.workFault q 0x46 b
  | none => r.1

/-- A write of this unit over [a, a + n) is held back at an uncopied granule. -/
def State.hubStalled (s : State) (unit a n : Nat) : Bool :=
  s.stalled.any fun w => w.wdie == 4 && w.wunit == unit && overlap w.addr w.bytes.length a n

/-- Try the descriptor at a queue's HEAD: nothing while it is not granted, its earlier requests are outstanding, or it is of
another kind; MALFORMED where it cannot
be read right; else `go` with its index, its bytes and its fields. -/
def State.runWork (s : State) (q kind : Nat) (go : State → Nat → List Byte → WorkDesc → State) : State :=
  if s.still || s.workBusy q || !s.granted.contains (.workq q) then s
  else
    let i := s.rd Pg.workQ Reg.WorkQ.HEAD [q]
    let a := s.workAddr q i
    match s.workReadStop q a 128 false with
    | some none => s
    | some (some (c, b)) => (s.takeWork q).workFault q c b
    | none =>
      let d := s.bytesAt a 128
      let x := workDesc d
      if !workOk d then (s.takeWork q).workFault q 0x01 a
      else if x.kind ≠ kind then s
      else go s i d x

/-! Completions, in ring order (R313, R317). -/

/-- The remote signal of a completed PUT. -/
def State.putSignal (s : State) (q slot : Nat) (x : WorkDesc) : State :=
  if !x.rsen then s
  else
    let last := s.hubLast 11 q
    let dst := x.dst / 2 ^ 48
    if dst = s.modId then s.queueOp 0 (rankHub 11) (.signal x.rland x.rinc x.radv (BitVec.ofNat 32 last))
    else ({ s with workqs := sset (fun _ => WorkQ.idle) s.workqs q { s.workq q with told := slot :: (s.workq q).told.filter (· != slot) } } : State).sendFor
      (s.workPolder q) 0 (mkCross Kind.signal true dst s.modId (xidOf q slot) 0
      (natBytes 4 (x.rland + x.rinc * 2 ^ 13 + bit x.radv * 2 ^ 29) ++ natBytes 4 (last / 2 ^ 12 * 2 ^ 12)))

/-- Signal the completed descriptors that are next in ring order, at most `fuel`. -/
def State.signalDone (s : State) (q : Nat) : Nat → State
  | 0 => s
  | f + 1 =>
    let i := s.rd Pg.workQ Reg.WorkQ.DONE [q]
    let w := s.workq q
    match w.ended.find? fun e => e.1 == i with
    | none => s
    | some (_, slot, d) =>
      let x := workDesc d
      let t := s.setWorkq q { w with ended := w.ended.filter fun e => e.1 != i }
      let t := if x.lden then t.hubSignal x.ldone 11 11 q else t
      let t := if x.kind = 1 then t.putSignal q slot x else t
      State.signalDone (t.wr Pg.workQ Reg.WorkQ.DONE [q] (t.workNext q i)) q f

/-- The descriptor at ring index `i` completes. -/
def State.workDone (s : State) (q i slot : Nat) (d : List Byte) : State :=
  let w := s.workq q
  (s.setWorkq q { w with ended := w.ended ++ [(i, slot, d)] }).signalDone q (w.ended.length + 1)

end Sys2Proof.Machine
end

