-- ==== Sys2Proof/Machine/Put.lean ====
section
/-! DEFINITION. PUT transfers: the source, the target, acknowledgements and refusals (R285, R315 to R318). -/

namespace Sys2Proof.Machine

/-! Data crossings. -/

/-- Cut bytes into data crossings of up to four lines; the last one carries LAST and FILL. -/
def dataCrossings (kind : BitVec 4) (dst src xid : Nat) (bs : List Byte) (final : Bool) : List Crossing :=
  let cs := chunks 256 (bs.length / 256 + 1) bs
  cs.zipIdx.map fun c =>
    let last := final && c.2 + 1 == cs.length
    mkCross kind last dst src xid (if last then (c.1.length + 63) / 64 - 1 else 0) c.1

/-- HEAD of a PUT (R296). -/
def putHead (dst src xid addr lines tag : Nat) (tagen dcvm : Bool) : Crossing :=
  mkCross Kind.head false dst src xid 0
    (natBytes 8 addr ++ natBytes 4 (lines - 1) ++ natBytes 2 tag ++ natBytes 1 (bit tagen + 2 * bit dcvm))

/-! The source. -/

/-- Lines of a PUT that can be read before the first that cannot, with its fault. -/
def State.putReadable (s : State) (q : Nat) (x : WorkDesc) : Nat × Option (Nat × Nat) :=
  match s.workReadStop q x.src (64 * x.lines) x.scvm with
  | some (some (c, b)) => (((b - x.src) / 64), some (c, b))
  | _ => (x.lines, none)

/-- A PUT to this module: a local copy (R315). -/
def State.putLocal (s : State) (q i : Nat) (d : List Byte) (x : WorkDesc) : State :=
  let t := (s.takeWork q).workRead q x.src (64 * x.lines)
  let dst := x.dst % 2 ^ 48
  let r := t.putReadable q x
  let room := match t.workWriteStop q dst (64 * r.1) with
    | some (c, b) => (min r.1 ((b - dst) / 64), some (c, b))
    | none => r
  let u := t.workWrite q dst (t.bytesAt x.src (64 * room.1)) x.dcvm
  match room.2 with
  | some (c, b) => (u.partCheck c b x.src (64 * x.lines)).workFault q c b
  | none =>
    let w := u.workq q
    let n := w.sent % 128
    if u.hubStalled 15 dst (64 * x.lines) then
      u.setWorkq q { w with sent := w.sent + 1, puts := w.puts ++ [Put.mk n i false d] }
    else (u.setWorkq q { w with sent := w.sent + 1 }).workDone q i n d

/-- A PUT to the module itself completes once its held write is accepted (R315, R371). -/
def State.putsTryEnd (s : State) (q : Nat) : State :=
  (s.workq q).puts.foldl (fun t p =>
    let x := workDesc p.desc
    if x.dst / 2 ^ 48 = t.modId ∧ !t.hubStalled 15 (x.dst % 2 ^ 48) (64 * x.lines) then
      let w := t.workq q
      (t.setWorkq q { w with puts := w.puts.filter fun y => y != p }).workDone q p.idx p.slot p.desc
    else t) s

/-- A PUT to another module: HEAD and data crossings, up to the first line that cannot be read. -/
def State.putRemote (s : State) (q i : Nat) (d : List Byte) (x : WorkDesc) : State :=
  let pol := s.workPolder q
  let t := (s.takeWork q).workRead q x.src (64 * x.lines)
  let w := t.workq q
  let slot := w.sent % 128
  let dst := x.dst / 2 ^ 48
  let tc := 2 + t.rd Pg.workQ Reg.WorkQ.TC3 [q]
  let r := t.putReadable q x
  let whole := r.2.isNone
  let cs := putHead dst t.modId (xidOf q slot) (x.dst % 2 ^ 48) x.lines x.tag x.tagen x.dcvm
    :: dataCrossings Kind.data dst t.modId (xidOf q slot) (t.bytesAt x.src (64 * r.1)) whole
  let u := cs.foldl (fun t c => t.sendFor pol tc c) t
  let u := u.setWorkq q { w with
    sent := w.sent + 1, puts := w.puts ++ [Put.mk slot i whole d], told := w.told.filter (· != slot) }
  match r.2 with
  | some (c, b) => (u.partCheck c b x.src (64 * x.lines)).workFault q c b
  | none => u

/-- PUT (R315): a granted work queue starts the PUT at its HEAD. -/
def execPut (q : QueueId) (s : State) : Host.Outcome State Fault Refusal :=
  .next (s.runWork q.val 1 fun s i d x =>
    if 128 ≤ (s.workq q.val).puts.length then s
    else if s.workReadStop q.val x.src (64 * x.lines) false = some none then s
    else if x.dst / 2 ^ 48 = s.modId then s.putLocal q.val i d x
    else s.putRemote q.val i d x)

/-! The target (R316). -/

/-- The first byte of a PUT that no single receive window takes in, or that is unmapped, or whose polder is drained. -/
def State.putRefused (s : State) (a lines : Nat) : Option Nat :=
  let n := 64 * lines
  let w := (List.range 16).find? fun i => (s.rxWin i).1 && (s.rxWin i).2.1 ≤ a && a + n ≤ (s.rxWin i).2.1 + (s.rxWin i).2.2
  if w.isNone ∨ !inRange a n false then some a
  else
    (linesOf a n).find? fun l =>
      match s.homeOf l with
      | some h => s.rd Pg.polders Reg.Polders.PSTATE [s.polderOfDie h.1] == 2
      | none => true

/-- Refuse a transfer or signal: REFUSE to its source with an address or landing. -/
def State.refuseTo (s : State) (x : Crossing) (a : Nat) : State :=
  (s.count Pg.routing Reg.Routing.REFUSED [] 1).send 0
    (mkCross Kind.refuse true x.src.toNat s.modId x.xid.toNat 0 (natBytes 2 x.xid.toNat ++ natBytes 6 a))

/-- A PUT's HEAD arrives. -/
def State.putArrives (s : State) (x : Crossing) : State :=
  let a := crossNum x 0 6
  let lines := crossNum x 8 4 + 1
  let e := crossNum x 14 1
  let bad := s.putRefused a lines
  let r : RxStream := ⟨x.src.toNat, x.xid.toNat, a, lines, crossNum x 12 2, bits e 0 0 = 1, bits e 1 1 = 1, 0, bad.isSome, [], false⟩
  let t : State := { s with rxStreams := s.rxStreams ++ [r] }
  match bad with
  | some b => t.refuseTo x b
  | none => t

/-- The blocks of [a, a + n) inside a tag window take a tag (R285). -/
def State.setTags (s : State) (a n tag : Nat) : State :=
  if n = 0 then s
  else (List.range ((a + n - 1) / 4096 - a / 4096 + 1)).foldl (fun t i =>
    match t.tagWindow ((a / 4096 + i) * 4096) with
    | some (_, e) => { t with tags := sset (fun _ => 0) t.tags e (BitVec.ofNat 16 tag) }
    | none => t) s

/-- Polder of the die that holds an address. -/
def State.polderOfAddr (s : State) (a : Nat) : Nat :=
  if regionOf a = .pool then s.polderOfCore (poolCore a)
  else ((s.homeOf a).map fun h => s.polderOfDie h.1).getD 0

/-- A held arrival is accepted: the blocks of its transfer take their tag with the write (R285). -/
def State.rxTag (s : State) (w : StalledWrite) : State :=
  match s.rxStreams.find? fun r => r.tagen && r.base ≤ w.addr && w.addr < r.base + 64 * r.lines with
  | some r => if w.wdie = 4 ∧ w.wunit = 14 then s.setTags w.addr w.bytes.length r.tag else s
  | none => s

/-- Write the lines of a stream that are ready: at once without check values; with them once their block, or the transfer,
has come whole. A block takes the transfer's tag only where its write is performed (R285). -/
def State.rxWrite (s : State) (r : RxStream) : State × RxStream :=
  let have_ := r.data.length / 64
  let upto := if !r.dcvm ∨ r.lines ≤ have_ then have_ else ((r.base + 64 * have_) / 4096 * 4096 - r.base) / 64
  if upto ≤ r.next then (s, r)
  else
    let a := r.base + 64 * r.next
    let bs := (r.data.drop (64 * r.next)).take (64 * (upto - r.next))
    let o := (s.asyncTraffic true a bs.length).store ⟨a, bs.map some, r.dcvm, 4, 0, 14, none, 0⟩
    let kept := o.1.stalled.length == s.stalled.length
    let t := match o.2 with
      | some b => (if r.tagen then o.1.setTags a (b - a) r.tag else o.1).raise
          ⟨Pg.routing, 0x46, 13, 0, 0, noPc, b, some (s.polderOfAddr b), false⟩
      | none => if r.tagen && kept then o.1.setTags a bs.length r.tag else o.1
    (t, { r with next := upto })

/-- The record of a PUT accepted into a polder's dies (R482). -/
def State.putRecord (s : State) (r : RxStream) : State :=
  let key := match s.tagWindow (blockOf r.base) with
    | some (l, _) => l
    | none => 0xFFFF
  s.remoteInput (s.polderOfAddr r.base) 0x06 key
    (natBytes 4 r.src ++ natBytes 4 r.xid ++ natBytes 8 r.base ++ natBytes 4 (64 * r.lines) ++ natBytes 4 r.tag ++ sha256 r.data)

/-- A stream whose writes have all been accepted is acknowledged. -/
def State.ackStream (s : State) (r : RxStream) : State :=
  if !r.ended || s.hubStalled 14 r.base (64 * r.lines) then s
  else
    let t : State := { s with rxStreams := s.rxStreams.filter fun x => x != r }
    (t.putRecord r).send 0 (mkCross Kind.endack true r.src s.modId r.xid 0 (natBytes 2 r.xid))

def State.ackStreams (s : State) : State := s.rxStreams.foldl State.ackStream s

/-- A data crossing of an accepted or refused PUT. -/
def State.putData (s : State) (port : Nat) (x : Crossing) (r : RxStream) : State :=
  let t : State := { s with rxStreams := s.rxStreams.filter fun y => y != r }
  if r.refused then if x.last then t else s
  else
    let b := crossBody x
    let t := t.acct (s.polderOfAddr r.base) (32 + port) b.length
    let o := t.rxWrite { r with data := r.data ++ b, ended := x.last }
    let u : State := { o.1 with rxStreams := o.1.rxStreams ++ [o.2] }
    u.ackStream o.2

/-- A remote signal is accepted for an open landing or refused. -/
def State.signalArrives (s : State) (port : Nat) (x : Crossing) : State :=
  let w := crossNum x 0 4
  let n := bits w 12 0
  let g := Pg.routing
  if s.rd g Reg.Routing.RXL_EN = 1 ∧ s.rd g Reg.Routing.RXL_FIRST ≤ n ∧ n ≤ s.rd g Reg.Routing.RXL_LAST then
    s.queueOp 0 (rankPort port) (.signal n (bits w 28 13) (bits w 29 29 = 1)
      (BitVec.ofNat 32 (crossNum x 4 4 / 2 ^ 12 * 2 ^ 12 + x.src.toNat)))
  else s.refuseTo x n

/-! Acknowledgements, refusals and timeouts at the source (R317). -/

/-- The PUT in flight in a slot of a queue. -/
def State.putIn (s : State) (q slot : Nat) : Option Put := (s.workq q).puts.find? fun p => p.slot == slot

def State.dropPut (s : State) (q : Nat) (p : Put) : State :=
  let w := s.workq q
  s.setWorkq q { w with puts := w.puts.filter fun y => y != p }

/-- An ENDACK for a work queue's PUT. -/
def State.putAcked (s : State) (xid : Nat) : State :=
  match s.putIn (xid / 128) (xid % 128) with
  | some p => (s.dropPut (xid / 128) p).workDone (xid / 128) p.idx p.slot p.desc
  | none => s

/-- A REFUSE of a PUT, of the signal that a completed PUT has sent, both raised by their queue (R316, R335), or of a gate's signal,
which no queue has sent. -/
def State.putTurnedAway (s : State) (port xid a : Nat) : State :=
  let q := xid / 128
  match s.putIn q (xid % 128) with
  | some p => (s.dropPut q p).workFault q 0x02 a
  | none =>
    if (s.workq q).told.contains (xid % 128) then
      let w := s.workq q
      (s.setWorkq q { w with told := w.told.filter (· != xid % 128) }).workFault q 0x02 a
    else s.raise ⟨Pg.ferry port, 0x02, 13, 0, port, noPc, a, none, false⟩

/-- The last crossing of a transfer of this module has left its port. -/
def State.lastSent (s : State) (xid : Nat) : Bool :=
  s.ports.all fun o => o.out.all fun x =>
    !(x.src.toNat == s.modId && x.xid.toNat == xid && (x.kind == Kind.data || x.kind == Kind.head))

end Sys2Proof.Machine
end

