-- ==== Sys2Proof/Machine/Staithe.lean ====
section
/-! DEFINITION. Staithe: granule copies, copy-on-write, transfers to the buddy, SEND, RESTORE and ABANDON (R370 to R382). -/

namespace Sys2Proof.Machine

/-! Shards (R375, R376). -/

/-- Offset and bytes of granule number `g` of a shard: 0 the region table and state record, the header, or a body
granule. -/
def granuleSpan (g : Nat) : Nat × Nat :=
  if g = headerNo then (0, 0x1000) else if g = 0 then (0x1000, 0xF000) else (65536 * g, 65536)

/-- The header of a shard. -/
def State.shardHeader (s : State) (p step nbody : Nat) (digest : List Byte) : List Byte :=
  let g := Pg.staithe p
  let pd := (List.range 8).flatMap fun i => natBytes 4 (s.rd (Pg.program p) Reg.Program.PROGRAM_DIGEST [i])
  let h := natBytes 4 0x57A17E4D ++ natBytes 2 1 ++ natBytes 2 0 ++ natBytes 8 (s.runKey p).toNat ++ natBytes 4 step
    ++ natBytes 2 (s.rd g Reg.Staithe.SHARD) ++ natBytes 2 (s.rd g Reg.Staithe.NSHARD) ++ natBytes 2 s.modId
    ++ natBytes 1 p ++ natBytes 1 0 ++ natBytes 4 nbody ++ natBytes 8 (0x10000 + 65536 * nbody)
  padTo 4096 (padTo 0x40 h ++ pd ++ digest)

/-! Transfers to another module (R374, R382). -/

/-- A transfer slot that no Staithe transfer of this work-queue number uses. -/
def State.freeStSlot (s : State) (q : Nat) : Option Nat :=
  ((List.range 128).map fun i => (s.stSent + i) % 128).find? fun i =>
    !s.stPuts.any fun x => x.slot == i && s.rd (Pg.staithe x.pol) Reg.Staithe.STQ == q

/-- Send granule `g` of the shard at `src` to a pod address. -/
def State.stSend (s : State) (p src dst g slot : Nat) (send : Bool) : State :=
  let o := granuleSpan g
  let q := s.rd (Pg.staithe p) Reg.Staithe.STQ
  let t : State := (s.acctMem p src o.2 false).copyTraffic false (src + o.1) o.2
  let t := { t with stPuts := t.stPuts ++ [StPut.mk slot p g send], stSent := t.stSent + 1 }
  let m := dst / 2 ^ 48
  let cs := putHead m t.modId (xidOf q slot) ((dst + o.1) % 2 ^ 48) (o.2 / 64) 0 false true
    :: dataCrossings Kind.data m t.modId (xidOf q slot) (t.bytesAt (src + o.1) o.2) true
  cs.foldl (fun t c => t.sendFor p 2 c) t

/-- The module sends the polder's error vector when RESTORE or SEND ends (R385). -/
def State.stIrq (s : State) (p : Nat) : State := s.toHost (.msix (s.vecOf (Pg.staithe p)))

/-! Snapshots (R370 to R374). -/

/-- The snapshot in progress stops and is never complete (R372). -/
def State.snapFail (s : State) (p a : Nat) : State := ((s.snapStop p a).tryDrain p true).loadsRun

/-- A snapshot that has no more to do is over. -/
def State.snapOver (s : State) (p : Nat) : State :=
  ((s.setSnap p { s.snap p with active := false }).wr (Pg.staithe p) Reg.Staithe.SSTATE [] 3).tryDrain p true |>.loadsRun

/-- Once every granule is copied the header is written, and the area is locally complete. -/
def State.finishLocal (s : State) (p : Nat) : State :=
  let x := s.snap p
  if x.whole ∨ s.uncopied.any fun u => u.1 == p then s
  else
    let g := Pg.staithe p
    let dig := sha256 ((List.range (x.body.length + 1)).flatMap fun i => sget (fun _ => []) x.digests i)
    match s.areaWrite (s.localArea p x.area).1 (s.shardHeader p x.step x.body.length dig) with
    | none => s.snapFail p (s.localArea p x.area).1
    | some t =>
      let t := (t.setSnap p { x with whole := true }).wr g Reg.Staithe.LVALID [x.area] 1
      let t := t.wr g Reg.Staithe.LSTEP [x.area] x.step
      if t.rd g Reg.Staithe.BUDDY_EN = 1 then t.wr g Reg.Staithe.SSTATE [] 2 else t.snapOver p

/-- Copy body granule `i` of polder `p`'s snapshot into its area: verified where the region has check values, and hashed. -/
def State.copyGranule (s : State) (p i : Nat) : State :=
  let x := s.snap p
  let e := x.body.getD i (0, false)
  if !s.populated e.1 65536 ∨ (e.2 ∧ isModMem e.1 ∧ !s.blocksOk e.1 65536) then s.snapFail p e.1
  else
    match s.staleIn [(e.1, 65536)] with
    | some b => (s.noteStale 0x09 b).snapFail p b
    | none =>
      let bs := s.bytesAt e.1 65536
      let dst := (s.localArea p x.area).1 + 65536 * (i + 1)
      let t := (s.acctMem p e.1 65536 false).copyTraffic false e.1 65536
      let t : State := { t with uncopied := t.uncopied.filter fun u => u != (p, e.1 / 65536) }
      match t.areaWrite dst bs with
      | none => t.snapFail p dst
      | some t =>
        let t := t.setSnap p { x with digests := sset (fun _ => []) x.digests (i + 1) (sha256 bs) }
        (t.wr (Pg.staithe p) Reg.Staithe.COPIED [] (s.rd (Pg.staithe p) Reg.Staithe.COPIED + 1)).finishLocal p

/-- The next body granule of a snapshot that is not copied. -/
def State.nextUncopied (s : State) (p : Nat) : Option Nat :=
  ((s.snap p).body.zipIdx.find? fun e => s.uncopied.contains (p, e.1.1 / 65536)).map (·.2)

/-- Send the next granule of a snapshot to the buddy: in shard order once copied, the header when all are acknowledged. -/
def State.snapSend (s : State) (p : Nat) : State :=
  let g := Pg.staithe p
  let x := s.snap p
  if !x.active ∨ s.rd g Reg.Staithe.BUDDY_EN = 0 then s
  else
    let src := (s.localArea p x.area).1
    let dst := s.rd g Reg.Staithe.BUDDY * 2 ^ 48 + s.rd2 g Reg.Staithe.REMOTE_LO Reg.Staithe.REMOTE_HI [x.area]
    match s.freeStSlot (s.rd g Reg.Staithe.STQ) with
    | none => s
    | some slot =>
      let go := fun (n : Nat) (y : Snap) =>
        if s.blocksOk (src + (granuleSpan n).1) (granuleSpan n).2 then (s.setSnap p y).stSend p src dst n slot false
        else s.snapFail p (src + (granuleSpan n).1)
      if x.next ≤ x.body.length then
        if x.next = 0 ∨ !s.uncopied.contains (p, (x.body.getD (x.next - 1) (0, false)).1 / 65536) then
          go x.next { x with next := x.next + 1, unacked := x.unacked ++ [x.next] }
        else s
      else if x.whole && x.unacked.isEmpty && !x.header then
        go headerNo { x with header := true, unacked := [headerNo] }
      else s

/-- The buddy acknowledged granule `g` of the snapshot. -/
def State.snapAcked (s : State) (p g : Nat) : State :=
  let x := s.snap p
  if !x.active ∨ !x.unacked.contains g then s
  else
    let t := s.setSnap p { x with unacked := x.unacked.filter (· != g) }
    let pg := Pg.staithe p
    if g = headerNo then (t.wr pg Reg.Staithe.RVALID [x.area] 1).snapOver p
    else t.wr pg Reg.Staithe.SENT [] (t.rd pg Reg.Staithe.SENT + 1)

/-- A granule is copied unless its read meets an error (R372). -/
def State.copyUnless (s : State) (p i : Nat) (hw : HwErr) : State :=
  let a := ((s.snap p).body.getD i (0, false)).1
  match s.loneError a 5 14 hw with
  | some t => t.snapFail p a
  | none => (s.noteHw a hw).copyGranule p i

/-- The next granule of a snapshot is sent unless its read meets an error (R372). -/
def State.sendUnless (s : State) (p : Nat) (hw : HwErr) : State :=
  let x := s.snap p
  let a := (s.localArea p x.area).1 + (granuleSpan (if x.next ≤ x.body.length then x.next else headerNo)).1
  match s.loneError a 5 14 hw with
  | some t => t.snapFail p a
  | none => (s.noteHw a hw).snapSend p

/-- A snapshot that is complete locally ends where BUDDY_EN has been cleared since (R373). -/
def State.snapEnds (s : State) (p : Nat) : Bool := (s.snap p).whole && s.rd (Pg.staithe p) Reg.Staithe.BUDDY_EN == 0

/-- GRANULE_COPY (R370, R374): the Staithe engine copies the next uncopied granule, and sends the next one that is due. -/
def execGranuleCopy (pol : PolderId) (hw : HwErr) (s : State) : Host.Outcome State Fault Refusal :=
  let p := pol.val
  .next <|
    if s.still || (s.polder p).cutDue || !(s.snap p).active then s
    else if s.snapEnds p then s.snapOver p
    else
      match s.nextUncopied p with
      | some i => (s.copyUnless p i hw).snapSend p
      | none => s.sendUnless p hw

/-! Copy-on-write (R371). -/

/-- Uncopied granules with a stalled write, ascending: polder and granule. -/
def State.cowGranules (s : State) : List (Nat × Nat) :=
  let hit := s.uncopied.filter fun u => s.stalled.any fun w =>
    (firstIn w.addr w.bytes (u.2 * 65536) (u.2 * 65536 + 65535)).isSome
  (hit.foldl (fun l u => insertNat u.2 l) []).filterMap fun g => hit.find? fun u => u.2 == g

/-- Index of a granule in a polder's snapshot. -/
def State.bodyIndex (s : State) (p g : Nat) : Nat := (s.snap p).body.findIdx fun e => e.1 / 65536 == g

/-- A held write whose merge failed its check at block `b` is reported as its writer's own writes are: the host's in the CXL page, an
instruction's by its engine, a Sluice job's by its queue, another hub unit's in the die page (R184, R419). -/
def State.mergeFailed (s : State) (w : StalledWrite) (b : Nat) : State :=
  if w.wdie = hostWriter then s.hostError 1 b true
  else
    match s.inflight.find? fun x => x.id == w.instr, w.own with
    | some x, _ => s.stopInstr x.eng x.id (engFault x.eng x.pc 0x46 b)
    | none, some tag => let q := (tag - 512) / 16; (s.stopTag tag).queueFault Pg.sluiceQ 11 q (s.sluiceHome q) 0x46 b
    | none, none =>
      s.raise ⟨Pg.die (((s.homeOf b).map (·.1)).getD 0), 0x46, 12, 0, 0, noPc, b, some (s.polderOfAddr b), false⟩

/-- The stalled writes are accepted in their order. -/
def State.acceptStalled (s : State) : State :=
  s.stalled.foldl (fun t w =>
    let r := t.store w
    match r.2 with
    | some b => r.1.mergeFailed w b
    | none => if r.1.stalled.length = t.stalled.length then r.1.rxTag w else r.1) { s with stalled := [] }

/-- The hold's copies, the first of which meets an error that strikes, and the writes that waited for them. -/
def State.cowDone (s : State) (hw : HwErr) : State :=
  let r := s.cowGranules.foldl (fun (r : State × HwErr) u =>
    if r.1.uncopied.contains u then (r.1.copyUnless u.1 (r.1.bodyIndex u.1 u.2) r.2, HwErr.none) else r) (s, hw)
  let t := r.1.acceptStalled
  (List.range 32).foldl State.putsTryEnd ({ t with hold := { t.hold with done := true } } : State).ackStreams

/-! SEND (R382). -/

def State.sendJob (s : State) (p : Nat) : SendJob := sget (fun _ => SendJob.none) s.sends p
def State.setSendJob (s : State) (p : Nat) (x : SendJob) : State :=
  { s with sends := sset (fun _ => SendJob.none) s.sends p x }

/-- A SEND ends with a code. -/
def State.sendOver (s : State) (p err : Nat) : State :=
  let g := Pg.staithe p
  let t := s.setSendJob p SendJob.none
  let t : State := { t with stPuts := t.stPuts.filter fun x => x.pol != p || !x.send }
  ((t.wr g Reg.Staithe.SBUSY [] 0).wr g Reg.Staithe.RERR [] err).stIrq p

/-- Send granules of a SEND while slots are free, at most `fuel`. -/
def State.sendMore (s : State) (p : Nat) : Nat → State
  | 0 => s
  | f + 1 =>
    let x := s.sendJob p
    match s.freeStSlot (s.rd (Pg.staithe p) Reg.Staithe.STQ) with
    | none => s
    | some slot =>
      if s.rd (Pg.staithe p) Reg.Staithe.SBUSY = 0 then s
      else if x.next ≤ x.nbody then
        let o := granuleSpan x.next
        if !s.blocksOk (x.src + o.1) o.2 ∨ (s.staleIn [(x.src + o.1, o.2)]).isSome then (s.stError p (x.src + o.1)).sendOver p 8
        else
          let y := { x with next := x.next + 1, unacked := x.unacked ++ [x.next], digests := x.digests ++ sha256 (s.bytesAt (x.src + o.1) o.2) }
          State.sendMore ((s.setSendJob p y).stSend p x.src x.dst x.next slot true) p f
      else if x.unacked.isEmpty && !x.header then
        if sha256 x.digests = s.bytesAt (x.src + 0x60) 32 then
          (s.setSendJob p { x with header := true, unacked := [headerNo] }).stSend p x.src x.dst headerNo slot true
        else s.sendOver p 9
      else s

/-- The target acknowledged granule `g` of a SEND. -/
def State.sendAcked (s : State) (p g : Nat) : State :=
  let x := s.sendJob p
  if g = headerNo then s.sendOver p 0
  else (s.setSendJob p { x with unacked := x.unacked.filter (· != g) }).sendMore p 1

/-- The header of a shard has the right MAGIC and VERSION. -/
def State.shardMagic (s : State) (a : Nat) : Bool := s.numAt a 4 == 0x57A17E4D && s.numAt (a + 4) 2 == 1

def State.rsrc (s : State) (p : Nat) : Nat := s.rd2 (Pg.staithe p) Reg.Staithe.RSRC_LO Reg.Staithe.RSRC_HI

/-- RERR, with RFOUND where a header was checked. -/
def State.endRestore (s : State) (p err : Nat) : State := (s.wr (Pg.staithe p) Reg.Staithe.RERR [] err).stIrq p

/-- The shard at RSRC is copied to SDST, header last. -/
def State.sendShard (s : State) (p : Nat) (hw : HwErr) : State :=
  let g := Pg.staithe p
  if s.rd g Reg.Staithe.SBUSY = 1 then s.endRestore p 0xA
  else
    let a := s.rsrc p
    let s := s.wr g Reg.Staithe.RFOUND [] (s.numAt (a + 0x10) 4)
    if !s.populated a 4096 || !s.shardMagic a then s.endRestore p 1
    else
      match s.loneError a 5 14 hw with
      | some t => (t.stError p a).endRestore p 8
      | none =>
      if !s.blocksOk a 4096 || s.staleTag a then (s.stError p a).endRestore p 8
      else
      let x := { SendJob.none with
        src := a, dst := s.rd2 g Reg.Staithe.SDST_LO Reg.Staithe.SDST_HI, nbody := s.numAt (a + 0x1C) 4 }
      ((s.setSendJob p x).wr g Reg.Staithe.SBUSY [] 1).sendMore p 128

/-- SEND (R382). -/
def execSend (pol : PolderId) (hw : HwErr) (s : State) : Host.Outcome State Fault Refusal :=
  .next (s.written fun s => s.sendShard pol.val hw)

/-! Acknowledgements and refusals of Staithe transfers. -/

/-- The Staithe transfer of an XID. -/
def State.stPutOf (s : State) (xid : Nat) : Option StPut :=
  s.stPuts.find? fun x => x.slot == xid % 128 && s.rd (Pg.staithe x.pol) Reg.Staithe.STQ == xid / 128

def State.stAcked (s : State) (x : StPut) : State :=
  let t : State := { s with stPuts := s.stPuts.filter fun y => y != x }
  if x.send then t.sendAcked x.pol x.g else (t.snapAcked x.pol x.g).snapSend x.pol

/-- A refused transfer: a snapshot fails; a SEND stops, and the spec gives its RERR no code, so that it is free. -/
def State.stRefused (s : State) (x : StPut) (a : Nat) : State :=
  if x.send then
    let r := s.drawWord
    (r.2.stError x.pol a).sendOver x.pol (r.1.toNat % 16)
  else s.snapFail x.pol a

/-- FERRY_TIMEOUT (R317): E2E_TO has passed since the last crossing of a PUT was sent, or of a Staithe transfer, which then
fails as one that is refused does. -/
def execFerryTimeout (q : QueueId) (slot : XidSlot) (s : State) : Host.Outcome State Fault Refusal :=
  let xid := xidOf q.val slot.val
  .next <|
    if s.frozen || !s.lastSent xid then s
    else
      match s.putIn q.val slot.val with
      | some p => if p.whole then (s.dropPut q.val p).workFault q.val 0x51 ((workDesc p.desc).dst % 2 ^ 48) else s
      | none =>
        match s.stPutOf xid with
        | some x => ({ s with stPuts := s.stPuts.filter fun y => y != x } : State).stRefused x 0
        | none => s

/-! RESTORE (R378, R379). -/

/-- Regions and body granules of the shard at `a`, by address: destination, CVM, and source. -/
def State.shardBody (s : State) (p a : Nat) : List (Nat × Bool × Nat) :=
  let gs := (s.regions p).flatMap fun r => (List.range r.2.1).map fun i => (r.1 + 65536 * i, r.2.2)
  gs.zipIdx.map fun e => (e.1.1, e.1.2, a + 65536 * (e.2 + 1))

/-- The first check of R378 that fails, 0 for none; `bad` where reading the shard meets a hardware error. -/
def State.restoreCheck (s : State) (p a : Nat) (bad : Bool) : Nat :=
  let g := Pg.staithe p
  let pd := (List.range 8).flatMap fun i => natBytes 4 (s.rd (Pg.program p) Reg.Program.PROGRAM_DIGEST [i])
  let rt := s.rd2 g Reg.Staithe.RTAB_LO Reg.Staithe.RTAB_HI
  let body := s.shardBody p a
  let n := 65536 * (body.length + 1)
  if !s.populated a 4096 || !s.shardMagic a then 1
  else if s.numAt (a + 8) 8 ≠ (s.runKey p).toNat then 2
  else if s.runState p = 0 ∨ s.bytesAt (a + 0x40) 32 ≠ pd then 3
  else if s.numAt (a + 0x10) 4 ≠ s.rd g Reg.Staithe.RSTEP then 4
  else if s.numAt (a + 0x14) 2 ≠ s.rd g Reg.Staithe.SHARD then 5
  else if s.rd g Reg.Staithe.ELASTIC = 0 ∧ s.numAt (a + 0x16) 2 ≠ s.rd g Reg.Staithe.NSHARD then 6
  else if s.bytesAt (a + 0x1000) 4096 ≠ padTo 4096 (s.bytesAt rt (16 * (s.rd g Reg.Staithe.NREG + 1))) then 7
  else if bad ∨ !s.populated a n ∨ !s.blocksOk a n ∨ (s.staleIn [(a, n)]).isSome then 8
  else
    let dig := sha256 (s.bytesAt (a + 0x1000) 0xF000) ++ body.flatMap fun e => sha256 (s.bytesAt e.2.2 65536)
    if sha256 dig = s.bytesAt (a + 0x60) 32 then 0 else 9

/-- Tag entries bound to a restored landing take its GEN. -/
def State.restoreTags (s : State) (ls : List Nat) : State :=
  (List.range 32).foldl (fun t w =>
    let x := t.tagWin w
    let l := t.rd Pg.landings Reg.Landings.TW_LANDING [w]
    if x.1 && ls.contains l then
      (List.range x.2.2.2.2).foldl (fun t i => { t with tags := sset (fun _ => 0) t.tags (x.2.2.2.1 + i) (t.landing l).gen }) t
    else t) s

/-- Towpath of a restored polder: the chain starts afresh, verification resumes at STEP (R380, R485). -/
def State.restoreTow (s : State) (p step : Nat) : State :=
  let t := (s.setTow p { Towpath.idle with lost := (s.tow p).lost, lostStep := (s.tow p).lostStep }).resetChain p
  match (t.recordsFrom p (t.rplLen p) (fun r => r.matches p && step ≤ r.step) 134217728 0).head? with
  | some r => t.setTow p { t.tow p with pos := r.off }
  | none => t

/-- The loading of a shard that passed every check. -/
def State.restoreShard (s : State) (p a : Nat) : State :=
  let step := s.numAt (a + 0x10) 4
  let body := s.shardBody p a
  let img := body.map fun e => (e.1, e.2.1, s.bytesAt e.2.2 65536)
  let rec_ := s.bytesAt (a + 0x2000) 0xE000
  let ls := s.recorded p
  let t : State := { s with
    uncopied := s.uncopied.filter fun u => u.1 != p
    stPuts := s.stPuts.filter fun x => x.pol != p || x.send }
  let x := t.snap p
  let t := if x.active then (t.setSnap p Snap.none).wr (Pg.staithe p) Reg.Staithe.LVALID [x.area] 0 else t
  let t := t.asyncTraffic false a (65536 * (body.length + 1))
  let t := img.foldl (fun t e => ((t.storeNow (hubWrite e.1 e.2.2 e.2.1)).1.asyncTraffic true e.1 65536)) t
  let cs := t.coresOf p
  let pool := granulesOf (img.flatMap fun e => (List.range 16).map fun i => e.1 + 4096 * i)
  let t := t.setValids (cs.flatMap fun c => (List.range 1536).map fun g => (c, g)) false
  let t := t.setValids pool true
  let t := cs.zipIdx.foldl (fun t c => (List.range 64).foldl (fun t k =>
    t.setToken c.1 k ((rec_.getD (0x40 + 64 * c.2 + k) 0).toNat)) t) t
  let t := ls.zipIdx.foldl (fun t n =>
    let b := rec_.drop (0x4040 + 8 * n.2)
    t.initLanding n.1 (bytesNat (b.take 4)) (bytesNat ((b.drop 4).take 2))) t
  ((t.restoreTags ls).wrSt Pg.commit Reg.Commit.STEP [p] step).restoreTow p step

/-- A restore that failed while the shard was being read leaves the regions undefined. -/
def State.spoilRegions (s : State) (p a : Nat) : State :=
  let body := s.shardBody p a
  let t := body.zipIdx.foldl (fun t e =>
    t.pokeBytes e.1.1 ((List.range 65536).map fun j => some (Config.freeByte (t.fresh + 65536 * e.2 + j)))) s
  { t with fresh := t.fresh + 65536 * body.length }

/-- The shard at RSRC is checked and loaded; RERR 0xA while the polder is busy. -/
def State.restoreGo (s : State) (p : Nat) (hw : HwErr) : State :=
  let g := Pg.staithe p
  if s.moves.any (fun m => s.polderOfCore m.core == p) then s
  else if s.rd g Reg.Staithe.SBUSY = 1 ∨ s.runState p = 1 ∨ s.runState p = 3 then s.endRestore p 0xA
  else
    let a := s.rsrc p
    let e := s.loneError a 6 14 hw
    let k := s.restoreCheck p a e.isSome
    let t := (if k = 8 then e.getD s else if k = 0 then s.noteHw a hw else s).wr g Reg.Staithe.RFOUND [] (s.numAt (a + 0x10) 4)
    match k with
    | 0 => (t.restoreShard p a).endRestore p 0
    | 8 => ((t.spoilRegions p a).stError p a).endRestore p 8
    | 9 => ((t.spoilRegions p a).stError p a).endRestore p 9
    | e => t.endRestore p e

/-- RESTORE (R378). -/
def execRestore (pol : PolderId) (hw : HwErr) (s : State) : Host.Outcome State Fault Refusal :=
  .next (s.written fun s => s.restoreGo pol.val hw)

/-! ABANDON (R382). -/

/-- The polder's step is abandoned as by a fault raised in the SCLK after the write. -/
def State.abandonWritten (s : State) (p : Nat) : State := if s.runState p = 3 then s.markFault p [] else s

/-- ABANDON (R382). -/
def execAbandon (pol : PolderId) (s : State) : Host.Outcome State Fault Refusal :=
  .next (s.written fun s => s.abandonWritten pol.val)

end Sys2Proof.Machine
end

