-- ==== Sys2Proof/Machine/Causeway.lean ====
section
/-! DEFINITION. Collectives, re-sharding and barriers (R324 to R332). -/

namespace Sys2Proof.Machine

/-! Shards and streams (R324 to R327). -/

/-- Blocks of a collective. -/
def WorkDesc.blocks (x : WorkDesc) : Nat := (x.n + 255) / 256

/-- Blocks of the shard of rank `k`. -/
def WorkDesc.shard (x : WorkDesc) (k : Nat) : List Nat :=
  let lo := k * x.blocks / x.r
  (List.range ((k + 1) * x.blocks / x.r - lo)).map (lo + ·)

/-- Blocks of a shard dealt to a stream. -/
def WorkDesc.dealt (x : WorkDesc) (k strm : Nat) : List Nat :=
  (x.shard k).zipIdx.filterMap fun e => if e.2 % x.streams = strm then some e.1 else none

/-- A block that a stream delivers: of the all-gather, whether it is the last step of its part, and the block. -/
structure CEvent where
  gather : Bool
  last   : Bool
  block  : Nat
  deriving DecidableEq, Repr

/-- What a member receives on a stream, in order. -/
def WorkDesc.events (x : WorkDesc) (strm : Nat) : List CEvent :=
  let r := x.r
  let asc := strm % 2 == 0
  let part := fun (gather : Bool) => (List.range (r - 1)).flatMap fun t =>
    let k :=
      if gather then (if asc then (x.rank + 2 * r - 1 - t) % r else (x.rank + 1 + t) % r)
      else (if asc then (x.rank + 2 * r - t - 2) % r else (x.rank + t + 2) % r)
    (x.dealt k strm).map fun b => CEvent.mk gather (t + 2 == r) b
  (if x.kind = 4 then [] else part false) ++ (if x.kind = 3 then [] else part true)

/-- Bytes of an element of the contributions, of the result, and of a partial. -/
def WorkDesc.iw (x : WorkDesc) : Nat := if x.ibf then 2 else 4
def WorkDesc.ow (x : WorkDesc) : Nat := if x.obf then 2 else 4
def WorkDesc.pw (x : WorkDesc) : Nat := if x.c48 then 6 else 8
def WorkDesc.ofmt (x : WorkDesc) : Fmt := if x.obf then .bf16 else .fp32

/-- Bytes of the message of an event. -/
def WorkDesc.size (x : WorkDesc) (e : CEvent) : Nat := 256 * (if e.gather then x.ow else x.pw)

/-! Numbers. -/

/-- Element `e` of local contribution `j`; beyond the tensor it is +0. -/
def State.contrib (s : State) (x : WorkDesc) (j e : Nat) : FVal :=
  if x.n ≤ e then FVal.zero
  else
    let a := s.numAt (x.src + 8 * j) 6
    let f : Fmt := if x.ibf then .bf16 else .fp32
    f.decode (s.numAt (a + e * x.iw) x.iw)

/-- The anchor of block `b` over the local contributions. -/
def State.localAnchor (s : State) (x : WorkDesc) (b : Nat) : Nat :=
  anchorAll ((List.range x.nloc).flatMap fun j => (List.range 256).map fun i => s.contrib x j (256 * b + i))

/-- The local contributions' words of block `b` under anchor `a`, joined. -/
def State.localWords (s : State) (x : WorkDesc) (a b : Nat) : List Int :=
  (List.range 256).map fun i =>
    (List.range x.nloc).foldl (fun acc j => cwJoin a acc (cwWord x.c48 a (s.contrib x j (256 * b + i)))) 0

/-- A partial as it travels, and as it is read back. -/
def WorkDesc.words (x : WorkDesc) (l : List Int) : List Byte :=
  l.flatMap fun v => natBytes x.pw (v % ((2 ^ (8 * x.pw) : Nat) : Int)).toNat

def WorkDesc.unwords (x : WorkDesc) (a : Nat) (bs : List Byte) : List Int :=
  (chunks x.pw 256 bs).map fun w =>
    let v := bytesNat w
    if a ≠ 0xFF ∧ 2 ^ (8 * x.pw - 1) ≤ v then (v : Int) - ((2 ^ (8 * x.pw) : Nat) : Int) else (v : Int)

/-- The result bytes of block `b`: 256 elements, of which those of the tensor count. -/
def Coll.result (c : Coll) (x : WorkDesc) (b : Nat) (l : List Int) : List Byte :=
  let a := c.anchors.getD b 0
  l.zipIdx.flatMap fun v =>
    let e := 256 * b + v.2
    let rnd := if x.rnd = 1 then
        Rnd.sr (srHash c.key (BitVec.ofNat 32 c.step) (BitVec.ofNat 32 x.tid) ((e + x.idx) % 2 ^ 40)) else .rne
    natBytes x.ow (cwResult x.c48 a v.1 x.ofmt rnd x.sat).1

/-- The anchors of block `b` are final at the member (R325): its own shard's once the maxima have come round, another's once they
have come back. -/
def Coll.final (c : Coll) (b : Nat) : Bool :=
  let x := workDesc c.desc
  c.mant || (x.r - 1 ≤ c.expGot && (x.shard x.rank).contains b)
    || (List.range (c.expGot - (x.r - 1))).any fun i => (x.shard ((x.rank + 2 * x.r - 1 - i) % x.r)).contains b

/-! Streams. -/

/-- The collective's identity as its HEADs carry it (R330). -/
def collHead (q cseq : Nat) (x : WorkDesc) : List Byte :=
  natBytes 1 q ++ natBytes 1 x.kind ++ natBytes 2 cseq ++ natBytes 1 (bit x.c48) ++ natBytes 1 (bit x.obf) ++ [0, 0]
    ++ natBytes 4 x.n ++ natBytes 2 x.r

def Coll.x (c : Coll) : WorkDesc := workDesc c.desc

/-- The module a stream goes to, and comes from. -/
def Coll.to (c : Coll) (strm : Nat) : Nat :=
  let r := c.x.r
  c.members.getD (if strm % 2 = 0 then (c.x.rank + 1) % r else (c.x.rank + r - 1) % r) 0
def Coll.from (c : Coll) (strm : Nat) : Nat := c.to (strm + 1)

/-- Send on a stream of queue `q`. -/
def State.collSend (s : State) (q : Nat) (kind : BitVec 4) (dst strm : Nat) (bs : List Byte) : State :=
  (dataCrossings kind dst s.modId (xidOf q strm) bs true).foldl (fun t x => t.sendFor (s.workPolder q) 1 x) s

def State.collHeadSend (s : State) (q : Nat) (c : Coll) (dst strm : Nat) : State :=
  s.sendFor (s.workPolder q) 1 (mkCross Kind.head false dst s.modId (xidOf q strm) 0 (collHead q c.cseq c.x))

def State.setColl (s : State) (q : Nat) (c : Option Coll) : State := s.setWorkq q { s.workq q with coll := c }

/-- Write the result bytes of block `b` at DST. -/
def State.collWrite (s : State) (q : Nat) (c : Coll) (b : Nat) (bs : List Byte) : State :=
  let x := c.x
  s.workWrite q (x.dst + 256 * b * x.ow) (bs.take (x.ow * (x.n - 256 * b))) x.dcvm

/-- A stream's event with its message. -/
def State.collEvent (s : State) (q strm : Nat) (c : Coll) (e : CEvent) (msg : List Byte) : State :=
  let x := c.x
  if e.gather then
    let t := (s.setColl q (some { c with written := c.written + 1 })).collWrite q c e.block msg
    if e.last then t else t.collSend q Kind.cwData (c.to strm) strm msg
  else
    let a := c.anchors.getD e.block 0
    let sum := (List.zip (x.unwords a msg) (s.localWords x a e.block)).map fun v => cwJoin a v.1 v.2
    if e.last then
      let bs := c.result x e.block sum
      let t := (s.setColl q (some { c with written := c.written + 1 })).collWrite q c e.block bs
      if x.kind = 2 then t.collSend q Kind.cwData (c.to strm) strm bs else t
    else s.collSend q Kind.cwData (c.to strm) strm (x.words sum)

/-- Take the whole messages that a stream holds, at most `fuel`; a partial waits for its block's anchor (R325). -/
def State.drainStream (s : State) (q strm : Nat) : Nat → State
  | 0 => s
  | f + 1 =>
    match (s.workq q).coll with
    | none => s
    | some c =>
      let st := c.streams.getD strm ⟨false, 0, []⟩
      match (c.x.events strm)[st.got]? with
      | none => s
      | some e =>
        let n := c.x.size e
        if st.bytes.length < n || (!e.gather && !c.final e.block) then s
        else
          let d := { c with streams := c.streams.set strm { st with got := st.got + 1, bytes := st.bytes.drop n } }
          State.drainStream ((s.setColl q (some d)).collEvent q strm d e (st.bytes.take n)) q strm f

/-! Completion (R327, R482). -/

/-- Pieces of a shard map: FROM, TO, lines, source and destination offset in lines (R332). An entry whose FROM or TO is no
rank of the group moves nothing (DESIGN CHOICE, log 27). -/
def State.pieces (s : State) (x : WorkDesc) : List (Nat × Nat × Nat × Nat × Nat) :=
  ((List.range x.lines).map fun i =>
    let a := x.src + 16 * i
    (s.numAt a 2, s.numAt (a + 2) 2, s.numAt (a + 4) 4 + 1, s.numAt (a + 8) 4, s.numAt (a + 12) 4)).filter
    fun e => e.1 < x.r && e.2.1 < x.r

/-- Ranges of DST that a collective or RESHARD writes at this member, ascending. -/
def State.collRanges (s : State) (x : WorkDesc) : List (Nat × Nat) :=
  let blk := fun b => (x.dst + 256 * b * x.ow, x.ow * min 256 (x.n - 256 * b))
  match x.kind with
  | 3 => (x.shard x.rank).map blk
  | 4 => ((List.range x.blocks).filter fun b => !(x.shard x.rank).contains b).map blk
  | 2 => (List.range x.blocks).map blk
  | _ =>
    let es := (s.pieces x).filterMap fun e => if e.2.1 = x.rank then some (x.dst + 64 * e.2.2.2.2, 64 * e.2.2.1) else none
    (es.foldl (fun l e => insertNat e.1 l) []).filterMap fun a => es.find? fun e => e.1 == a

/-- Everything a collective has to receive has come, and what it wrote has been accepted. -/
def State.collFinished (s : State) (c : Coll) : Bool :=
  let x := c.x
  let rs := s.collRanges x
  c.mant && !(rs.any fun r => s.hubStalled 15 r.1 r.2)
    && if x.kind = 5 then c.written == (s.pieces x).countP (fun e => e.2.1 == x.rank)
       else (List.range x.streams).all fun i =>
         let st := c.streams.getD i ⟨false, 0, []⟩
         st.got == (x.events i).length && (x.r == 1 || st.head)

/-- A collective or RESHARD that is finished completes: its record, and its place in ring order. -/
def State.collTryEnd (s : State) (q : Nat) : State :=
  match (s.workq q).coll with
  | none => s
  | some c =>
    if s.collFinished c then
      let x := c.x
      let n := if x.kind = 5 then x.lines else x.n
      let bytes := (s.collRanges x).flatMap fun r => s.bytesAt r.1 r.2
      let t := s.setColl q none
      let t := t.collectiveInput (t.workPolder q) (q + c.cseq * 2 ^ 16) (natBytes 4 x.kind ++ natBytes 4 n ++ sha256 bytes)
      t.workDone q c.idx 0 c.desc
    else s

/-- Completions that waited for writes to be accepted. -/
def State.collsTryEnd (s : State) : State := (List.range 32).foldl State.collTryEnd s

/-! The mantissa phase and the all-gather. -/

/-- The shard of which a member sends the first messages on a stream. -/
def WorkDesc.firstShard (x : WorkDesc) (strm : Nat) : Nat :=
  if x.kind = 4 then x.rank else if strm % 2 = 0 then (x.rank + x.r - 1) % x.r else (x.rank + 1) % x.r

/-- What a member sends first on a stream. -/
def State.collFirst (s : State) (q strm : Nat) (c : Coll) : State :=
  let x := c.x
  (x.dealt (x.firstShard strm) strm).foldl (fun t b =>
    let bs :=
      if x.kind = 4 then padTo (256 * x.ow) (t.bytesAt (x.dst + 256 * b * x.ow) (x.ow * min 256 (x.n - 256 * b)))
      else x.words (t.localWords x (c.anchors.getD b 0) b)
    t.collSend q Kind.cwData (c.to strm) strm bs) s

/-- A member without others: its own contributions are the sum. -/
def State.collAlone (s : State) (q : Nat) (c : Coll) : State :=
  if c.x.kind = 4 then s
  else (List.range c.x.blocks).foldl (fun t b =>
    t.collWrite q c b (c.result c.x b (t.localWords c.x (c.anchors.getD b 0) b))) s

/-- Begin a stream whose first blocks have their anchors: its HEAD, where it has none yet, and its first messages. -/
def State.strmBegin (s : State) (q i : Nat) : State :=
  match (s.workq q).coll with
  | none => s
  | some c =>
    let x := c.x
    if c.begun.contains i ∨ !(x.dealt (x.firstShard i) i).all c.final then s
    else
      let t := s.setColl q (some { c with begun := c.begun ++ [i] })
      (if i = 0 ∧ x.kind ≠ 4 then t else t.collHeadSend q c (c.to i) i).collFirst q i c

/-- The streams that may begin do, and every stream takes what it holds. -/
def State.collGo (s : State) (q : Nat) : State :=
  match (s.workq q).coll with
  | none => s
  | some c =>
    if c.x.r = 1 then s
    else
      let t := (List.range c.x.streams).foldl (fun t i => t.strmBegin q i) s
      (List.range c.x.streams).foldl (fun t i =>
        t.drainStream q i ((c.streams.getD i ⟨false, 0, []⟩).bytes.length + 1)) t

/-- Every anchor is final, or the all-gather of ALLGATHER begins. -/
def State.collBegin (s : State) (q : Nat) : State :=
  match (s.workq q).coll with
  | none => s
  | some c =>
    let c := { c with mant := true }
    let t := s.setColl q (some c)
    if c.x.r = 1 then t.collAlone q c else t.collGo q

/-! The exponent phase (R325): a ring reduce-scatter of maxima and an all-gather, in ascending rank. -/

/-- Shard of message `m` that a member receives, and whether it is combined. -/
def WorkDesc.expShard (x : WorkDesc) (m : Nat) : Nat × Bool :=
  if m + 1 < x.r then ((x.rank + 2 * x.r - m - 2) % x.r, true)
  else ((x.rank + 2 * x.r - 1 - (m - (x.r - 1))) % x.r, false)

/-- Send the anchors of a shard on. -/
def State.expSend (s : State) (q : Nat) (c : Coll) (k : Nat) : State :=
  let l := (c.x.shard k).map fun b => BitVec.ofNat 8 (c.anchors.getD b 0)
  if l.isEmpty then s else s.collSend q Kind.cwExp (c.to 0) 0 l

/-- Go past messages of empty shards; the phase ends after the last message; at most `fuel`. -/
def State.expAdvance (s : State) (q : Nat) : Nat → State
  | 0 => s
  | f + 1 =>
    match (s.workq q).coll with
    | none => s
    | some c =>
      if c.mant then s
      else if 2 * (c.x.r - 1) ≤ c.expGot then
        (s.workWrite q c.x.scratch (c.anchors.map (BitVec.ofNat 8 ·)) false).collBegin q
      else if (c.x.shard (c.x.expShard c.expGot).1).isEmpty then
        State.expAdvance (s.setColl q (some { c with expGot := c.expGot + 1 })) q f
      else s

/-- A message of the exponent phase has come whole. -/
def State.expMessage (s : State) (q : Nat) (c : Coll) : State :=
  let x := c.x
  let e := x.expShard c.expGot
  let bs := x.shard e.1
  let as := bs.zipIdx.foldl (fun (as : List Nat) b =>
    let v := ((c.expBuf.getD b.2 0)).toNat
    as.set b.1 (if e.2 then max v (as.getD b.1 0) else v)) c.anchors
  let d := { c with anchors := as, expGot := c.expGot + 1, expBuf := [] }
  let t := s.setColl q (some d)
  let t := if c.expGot + 1 < 2 * (x.r - 1) then t.expSend q d e.1 else t
  (t.expAdvance q (2 * x.r)).collGo q

/-! Arrivals. -/

/-- Take a crossing of a collective; one that belongs to a later collective waits. -/
def State.collArrive (s : State) (q : Nat) (y : Crossing) : State :=
  let later : State := { s with rxWait := s.rxWait ++ [y] }
  let strm := y.xid.toNat % 128
  match (s.workq q).coll with
  | none => later
  | some c =>
    let x := c.x
    if s.rxWait.any fun z => z.src == y.src && z.xid == y.xid then later
    else if x.kind = 5 then
      let k := c.members.findIdx fun m => m == y.src.toNat
      let st := c.streams.getD k ⟨false, 0, []⟩
      let mine := (s.pieces x).filter fun e => e.1 == k && e.2.1 == x.rank
      if y.kind = Kind.head then
        if st.head ∨ mine.isEmpty then later
        else if y.payload.take 14 ≠ collHead q c.cseq x then s.workFault q 0x01 (s.workAddr q c.idx)
        else s.setColl q (some { c with streams := c.streams.set k { st with head := true } })
      else
        let buf := st.bytes ++ crossBody y
        match mine[st.got]? with
        | none => later
        | some e =>
          if buf.length < 64 * e.2.2.1 then
            s.setColl q (some { c with streams := c.streams.set k { st with bytes := buf } })
          else
            let d := { c with written := c.written + 1, streams := c.streams.set k { st with got := st.got + 1, bytes := [] } }
            ((s.setColl q (some d)).workWrite q (x.dst + 64 * e.2.2.2.2) (buf.take (64 * e.2.2.1)) x.dcvm).collTryEnd q
    else if y.kind = Kind.head then
      let st := c.streams.getD strm ⟨false, 0, []⟩
      if st.head then later
      else if x.streams ≤ strm ∨ y.src.toNat ≠ c.from strm ∨ y.payload.take 14 ≠ collHead q c.cseq x then
        s.workFault q 0x01 (s.workAddr q c.idx)
      else (s.setColl q (some { c with streams := c.streams.set strm { st with head := true } })).collTryEnd q
    else if y.kind = Kind.cwExp then
      if c.mant then later
      else
        let d := { c with expBuf := c.expBuf ++ crossBody y }
        ((if y.last then s.expMessage q d else s.setColl q (some d))).collTryEnd q
    else if x.streams ≤ strm then s
    else
      let st := c.streams.getD strm ⟨false, 0, []⟩
      let d := { c with streams := c.streams.set strm { st with bytes := st.bytes ++ crossBody y } }
      ((s.setColl q (some d)).drainStream q strm (st.bytes.length + 2)).collTryEnd q

/-- Crossings of a queue that arrived before its collective started. -/
def State.collWaiting (s : State) (q : Nat) : State :=
  let mine := s.rxWait.filter fun y => y.xid.toNat / 128 == q
  let t : State := { s with rxWait := s.rxWait.filter fun y => y.xid.toNat / 128 != q }
  mine.foldl (fun t y => t.collArrive q y) t

/-! The descriptors. -/

/-- Entries of the member list in rank order: module identities of 12 bits, the rest reserved. -/
def State.memberList (s : State) (x : WorkDesc) : List Nat := (List.range x.r).map fun i => s.numAt (x.group + 2 * i) 2

/-- First access of a collective that cannot be made, with its fault; `some none` where data has yet to arrive. -/
def State.collStop (s : State) (q : Nat) (x : WorkDesc) : Option (Option (Nat × Nat)) :=
  let rds : List (Nat × Nat × Bool) :=
    [(x.group, 2 * x.r, false)]
      ++ (if x.kind = 2 ∨ x.kind = 3 then
            (x.src, 8 * x.nloc, false) :: (List.range x.nloc).map fun j => (s.numAt (x.src + 8 * j) 6, x.n * x.iw, false)
          else [])
      ++ (if x.kind = 4 then ((x.shard x.rank).map fun b => (x.dst + 256 * b * x.ow, x.ow * min 256 (x.n - 256 * b), false)) else [])
      ++ (if x.kind = 5 then
            (x.src, 16 * x.lines, false)
              :: ((s.pieces x).filter fun e => e.1 == x.rank).map fun e => (x.dst + 64 * e.2.2.2.1, 64 * e.2.2.1, x.scvm)
          else [])
  let wrs : List (Nat × Nat) :=
    (if x.kind = 2 ∨ x.kind = 3 then [(x.scratch, x.blocks)] else [])
      ++ (if x.kind = 5 then [(x.scratch, 64 * (((s.pieces x).filter fun e => e.1 == x.rank).map fun e => e.2.2.1).sum)] else [])
      ++ s.collRanges x
  match rds.findSome? fun e => s.workReadStop q e.1 e.2.1 e.2.2 with
  | some r => some r
  | none => (wrs.findSome? fun e => s.workWriteStop q e.1 e.2).map some

/-- A failed check of part of a block that a collective reads (R202); only RESHARD verifies what it reads. -/
def State.recordWork (s : State) (q : Nat) (x : WorkDesc) (code b : Nat) : State :=
  match if x.kind = 5 then (s.pieces x).find? fun e => e.1 == x.rank
      && (s.workReadStop q (x.dst + 64 * e.2.2.2.1) (64 * e.2.2.1) x.scvm) == some (some (code, b)) else none with
  | some e => s.partCheck code b (x.dst + 64 * e.2.2.2.1) (64 * e.2.2.1)
  | none => s

/-- Start a collective or RESHARD from the descriptor at HEAD. -/
def State.startColl (s : State) (q i : Nat) (d : List Byte) (x : WorkDesc) (go : State → Coll → State) : State :=
  if (s.workq q).coll.isSome || (s.workq q).bar.isSome then s
  else
    let ms := s.memberList x
    match s.collStop q x with
    | some none => s
    | some (some (c, b)) => ((s.takeWork q).recordWork q x c b).workFault q c b
    | none =>
      if x.r ≤ x.rank ∨ ms.getD x.rank 0 ≠ s.modId ∨ ms.any (4096 ≤ ·) then (s.takeWork q).workFault q 0x01 (s.workAddr q i)
      else
        let p := s.workPolder q
        let cseq := s.rd Pg.workQ Reg.WorkQ.CSEQ [q]
        let n := if x.kind = 5 then x.r else x.streams
        let c : Coll :=
          { desc := d, idx := i, cseq := cseq, key := s.runKey p, step := s.stepNo p, mant := false
            anchors := [], expGot := 0, expBuf := [], streams := List.replicate n ⟨false, 0, []⟩, begun := [], written := 0, members := ms }
        let t := (s.takeWork q).wr Pg.workQ Reg.WorkQ.CSEQ [q] (cseq + 1)
        ((go t c).collWaiting q).collTryEnd q

/-- The exponent phase begins. -/
def State.startExp (s : State) (q : Nat) (c : Coll) : State :=
  let x := c.x
  let t := (List.range x.nloc).foldl (fun t j =>
    let a := s.numAt (x.src + 8 * j) 6
    (t.workRead q a (x.n * x.iw)).workRead q a (x.n * x.iw)) s
  let c := { c with anchors := (List.range x.blocks).map fun b => t.localAnchor x b }
  let t := t.setColl q (some c)
  if x.r = 1 then t.expAdvance q 1
  else ((t.collHeadSend q c (c.to 0) 0).expSend q c ((x.rank + x.r - 1) % x.r)).expAdvance q (2 * x.r)

/-- ALLREDUCE (R325 to R327). -/
def execAllreduce (q : QueueId) (s : State) : Host.Outcome State Fault Refusal :=
  .next (s.runWork q.val 2 fun s i d x => s.startColl q.val i d x fun t c => t.startExp q.val c)

/-- REDUCE_SCATTER (R325, R326). -/
def execReduceScatter (q : QueueId) (s : State) : Host.Outcome State Fault Refusal :=
  .next (s.runWork q.val 3 fun s i d x => s.startColl q.val i d x fun t c => t.startExp q.val c)

/-- ALLGATHER (R327). -/
def execAllgather (q : QueueId) (s : State) : Host.Outcome State Fault Refusal :=
  .next (s.runWork q.val 4 fun s i d x => s.startColl q.val i d x fun t c => (t.setColl q.val (some c)).collBegin q.val)

/-! Re-sharding (R332). -/

/-- A RESHARD's first phase, copying this member's pieces into SCRATCH, and the sending of them: the bytes that SCRATCH holds, or
is to hold once a write held back for a copy is accepted. -/
def State.startReshard (s : State) (q : Nat) (c : Coll) : State :=
  let x := c.x
  let mine := (s.pieces x).filter fun e => e.1 == x.rank
  let put := fun (a : State × Nat × List (Nat × List Byte × Nat)) (e : Nat × Nat × Nat × Nat × Nat) =>
    let from_ := x.dst + 64 * e.2.2.2.1
    let n := 64 * e.2.2.1
    let bs := a.1.bytesAt from_ n
    (((a.1.workRead q from_ n).workWrite q (x.scratch + a.2.1) bs x.dcvm).workTraffic q false (x.scratch + a.2.1) n,
      a.2.1 + n, a.2.2 ++ [(e.2.1, bs, x.dst + 64 * e.2.2.2.2)])
  let r := mine.foldl put (s, 0, [])
  let c := { c with mant := true, written := r.2.2.countP fun e => e.1 == x.rank }
  let t := r.1.setColl q (some c)
  let heads := ((r.2.2.map (·.1)).filter (· != x.rank)).eraseDups
  let t := heads.foldl (fun t k => t.collHeadSend q c (c.members.getD k 0) 0) t
  r.2.2.foldl (fun t e =>
    if e.1 = x.rank then t.workWrite q e.2.2 e.2.1 x.dcvm
    else t.collSend q Kind.data (c.members.getD e.1 0) 0 e.2.1) t

/-- RESHARD (R332). -/
def execReshard (q : QueueId) (s : State) : Host.Outcome State Fault Refusal :=
  .next (s.runWork q.val 5 fun s i d x => s.startColl q.val i d x fun t c => t.startReshard q.val c)

/-! Barriers (R331). -/

/-- Arrivals seen from one side of a line: from lower coordinates (`plus` true: travelling up) or from higher ones. -/
def State.barSeen (s : State) (q gen dim : Nat) (plus : Bool) : Nat :=
  ((s.barriers.find? fun b => b.q == q && b.gen == gen && b.dim == dim && b.plus == plus).map (·.n)).getD 0

def State.noteBar (s : State) (q gen dim : Nat) (plus : Bool) (n : Nat) : State :=
  { s with barriers := (s.barriers.filter fun b => !(b.q == q && b.gen == gen && b.dim == dim && b.plus == plus))
      ++ [BarSeen.mk q gen dim plus n] }

/-- Send `n` combined arrivals to the neighbour in one direction of a dimension, where it has one. -/
def State.barSend (s : State) (q gen d : Nat) (plus : Bool) (n : Nat) : State :=
  let x := s.dim d
  let m := x.coord s.modId
  let edge := if plus then m + 1 == x.n else m == 0
  if (edge && !x.torus) || x.n ≤ n then s
  else
    let c := if plus then (m + 1) % x.n else (m + x.n - 1) % x.n
    let dst := s.modId - m * 2 ^ x.shift + c * 2 ^ x.shift
    let live := s.livePorts (if plus then x.plus else x.minus)
    match live[(s.modId + dst + xidOf q 0) % live.length]? with
    | some p =>
      s.enqueue p { mkCross Kind.barrier true dst s.modId (xidOf q 0) 0 (natBytes 4 gen ++ natBytes 2 n) with
        vc := BitVec.ofNat 3 (bit edge) }
    | none => s.count Pg.routing Reg.Routing.UNROUTABLE [] 1

/-- Every arrival of this module's line has been seen. -/
def State.lineDone (s : State) (q gen d : Nat) : Bool :=
  let x := s.dim d
  let m := x.coord s.modId
  let up := s.barSeen q gen d true
  let down := s.barSeen q gen d false
  if x.torus then x.n - 1 ≤ up + down else up == m && down == x.n - 1 - m

/-- Go on through the dimensions whose lines are complete, at most `fuel`; after the last the barrier completes. -/
def State.barAdvance (s : State) (q : Nat) : Nat → State
  | 0 => s
  | f + 1 =>
    let w := s.workq q
    match w.bar with
    | none => s
    | some (i, desc, d) =>
      if !s.lineDone q w.gen d then s
      else if d + 1 < s.rd Pg.routing Reg.Routing.DIMS then
        let t := s.setWorkq q { w with bar := some (i, desc, d + 1) }
        let t := t.barSend q w.gen (d + 1) true (1 + t.barSeen q w.gen (d + 1) true)
        State.barAdvance (t.barSend q w.gen (d + 1) false (1 + t.barSeen q w.gen (d + 1) false)) q f
      else
        let t := s.setWorkq q { w with bar := none, gen := (w.gen + 1) % 2 ^ 32 }
        ({ t with barriers := t.barriers.filter fun b => !(b.q == q && b.gen == w.gen) }).workDone q i 0 desc

/-- BARRIER (R331): this module arrives in its first dimension. -/
def execBarrier (q : QueueId) (s : State) : Host.Outcome State Fault Refusal :=
  .next (s.runWork q.val 6 fun s i d _ =>
    let q := q.val
    let w := s.workq q
    if w.coll.isSome || w.bar.isSome then s
    else
      let t := s.takeWork q
      let w := t.workq q
      let t := t.setWorkq q { w with bar := some (i, d, 0) }
      let t := t.barSend q w.gen 0 true (1 + t.barSeen q w.gen 0 true)
      (t.barSend q w.gen 0 false (1 + t.barSeen q w.gen 0 false)).barAdvance q 7)

/-- Arrivals come from a neighbour through a port: combined with this module's, where it has arrived, and passed on. -/
def State.barArrive (s : State) (port : Nat) (y : Crossing) : State :=
  let q := y.xid.toNat / 128
  let gen := crossNum y 0 4
  match s.portDim port with
  | none => s
  | some d =>
    let plus := (s.dim d).minus.testBit port
    let n := max (crossNum y 4 2) (s.barSeen q gen d plus)
    let t := s.noteBar q gen d plus n
    let w := t.workq q
    match w.bar with
    | some (_, _, e) => if e = d ∧ w.gen = gen then (t.barSend q gen d plus (1 + n)).barAdvance q 7 else t
    | none => t

end Sys2Proof.Machine
end

