-- ==== Sys2Proof/Machine/Ferry.lean ====
section
/-! DEFINITION. Ferry ports: crossing times, acknowledgement and retry, lanes, and the delivery of what arrives (R297 to R310,
R316, R467 to R469). -/

namespace Sys2Proof.Machine

/-! Retries and the link-retry hold (R263, R303 to R305). -/

/-- Some port retries. -/
def State.retrying (s : State) : Bool := (List.range 16).any fun p => s.rd (Pg.ferry p) Reg.Ferry.PSTATE == 3

/-- The link-retry hold reports completion once no port retries. -/
def State.settleRetry (s : State) : State :=
  if s.hold.now = some .retry ∧ !s.retrying then { s with hold := { s.hold with done := true } } else s

/-- A port starts a retry: every unacknowledged crossing is sent again. No hold is requested during a freeze. -/
def State.startRetry (s : State) (p : Nat) : State :=
  let g := Pg.ferry p
  let o := s.port p
  let t := (s.setPort p { o with resend := o.retry.length, unacked := o.retry.length }).wr g Reg.Ferry.PSTATE [] 3
  let t := t.count g Reg.Ferry.RETRIES [] 1
  if t.frozen ∨ (t.hold.now = some .retry ∧ !t.hold.done) then t else t.requestHold .retry

/-- A port is declared down (R305). -/
def State.portDown (s : State) (p : Nat) : State :=
  let g := Pg.ferry p
  let t := ((s.setPort p (s.port p).cleared).wr g Reg.Ferry.PSTATE [] 0).wr g Reg.Ferry.MARGINING [] 0
  (t.raise ⟨g, 0x50, 13, 0, p, noPc, 0, none, false⟩).settleRetry

/-- A retry fails: the next one starts, or at the third the port waits for its lane, or goes down. -/
def State.failRetry (s : State) (p : Nat) : State :=
  let g := Pg.ferry p
  let n := s.rd g Reg.Ferry.FAILS + 1
  let t := s.wr g Reg.Ferry.FAILS [] n
  if n < 3 then t.startRetry p
  else if t.rd g Reg.Ferry.SPARE_FOR ≠ 0xF then t.portDown p
  else t.setPort p { t.port p with resend := 0 }

/-- The port's third retry has failed and lane management is on. -/
def State.awaitsLane (s : State) (p : Nat) : Bool :=
  s.rd (Pg.ferry p) Reg.Ferry.PSTATE == 3 && s.rd (Pg.ferry p) Reg.Ferry.FAILS == 3

/-- A NAK, or the expiry of the ack timer. -/
def State.mustRetry (s : State) (p : Nat) : State :=
  if (s.port p).retry.isEmpty || s.awaitsLane p then s
  else if s.rd (Pg.ferry p) Reg.Ferry.PSTATE = 3 then s.failRetry p
  else s.startRetry p

/-- The links of the module run: not in an isolated freeze (R466). -/
def State.linkRuns (s : State) (p : Nat) : Bool :=
  s.portUp p && !(s.frozen && s.rd Pg.slack Reg.Slack.FRZ_MODE == 0)

/-- ACK_TIMER (R303). -/
def execAckTimer (port : PortId) (s : State) : Host.Outcome State Fault Refusal :=
  .next (if s.linkRuns port.val then s.mustRetry port.val else s)

/-- A port carries a logical lane on its spare from now on; margining stops (R304, R306). -/
def State.swapLane (s : State) (p l : Nat) : State :=
  let g := Pg.ferry p
  let t := if s.rd g Reg.Ferry.MARGINING = 1 then
      (s.count g Reg.Ferry.MARGIN_ABORT [] 1).wr g Reg.Ferry.MARGINING [] 0 else s
  (t.wr g Reg.Ferry.SPARE_FOR [] l).count g Reg.Ferry.SWAPS [] 1

/-- The in-service lane that a receiving end names: the one with the most symbol errors, the lowest-numbered on a tie; none where
no lane has any. -/
def Port.worstLane (o : Port) : Option Nat :=
  (List.range 8).find? fun l => o.syms.getD l 0 != 0 && (List.range 8).all fun k => o.syms.getD k 0 ≤ o.syms.getD l 0

/-- LANE_SWAP (R304): lane management on the spare lane. At the end whose retries have failed, the other end has named a lane, or
none; at a port that awaits none, the other end asks for one, and both ends carry the lane it names on the spare. A spare lane
that is in use or marked FAILED is never selected (R395). -/
def execLaneSwap (port : PortId) (lane : Option Lane) (s : State) : Host.Outcome State Fault Refusal :=
  let p := port.val
  let g := Pg.ferry p
  .next <|
    if !s.linkRuns p then s
    else if s.awaitsLane p then
      match lane with
      | none => s.portDown p
      | some l =>
        if s.badSpares.contains (2, p, 0) then s.portDown p else
        let t := (s.swapLane p l.val).wr g Reg.Ferry.FAILS [] 0
        let o := t.port p
        t.setPort p { o with resend := o.retry.length, unacked := o.retry.length }
    else
      match (s.port p).worstLane with
      | some l =>
        if s.rd g Reg.Ferry.SPARE_FOR ≠ 0xF ∨ s.badSpares.contains (2, p, 0) then s
        else let t := s.swapLane p l; t.setPort p { t.port p with syms := [] }
      | none => s

/-- LINK_SILENCE (R305): no valid crossing for 1.6 µs. -/
def execLinkSilence (port : PortId) (s : State) : Host.Outcome State Fault Refusal :=
  .next (if s.linkRuns port.val then s.portDown port.val else s)

/-- PORT_UP (R300): an enabled port has trained. -/
def execPortUp (port : PortId) (s : State) : Host.Outcome State Fault Refusal :=
  let p := port.val
  let g := Pg.ferry p
  .next <|
    if s.frozen || s.rd g Reg.Ferry.PORT_EN != 1 || s.rd g Reg.Ferry.PSTATE != 1 then s
    else ((s.setPort p (s.port p).cleared).wr g Reg.Ferry.PSTATE [] 2).margin p

/-! Crossing times (R301). -/

/-- The control crossing a port owes. -/
def Port.control (o : Port) : Crossing :=
  let ack := (o.rxSeq + 4095) % 4096
  ⟨0, Kind.control, true, 0, 0, 0, 0, 0,
    padTo 256 (natBytes 4 (ack + 2 ^ 12 + bit o.nakDue * 2 ^ 13) ++ o.freed.flatMap (natBytes 2)), []⟩

def Port.owes (o : Port) : Bool := o.ackDue || o.nakDue || o.freed.any (· != 0)

def State.sendControl (s : State) (p : Nat) : State :=
  let o := s.port p
  s.setPort p { o with
    last := some o.control, ackDue := false, nakDue := false, nakSent := o.nakSent || o.nakDue, freed := List.replicate 8 0 }

/-- A VC has a crossing and a credit. -/
def Port.canSend (o : Port) (v : Nat) : Bool := (o.out.any fun x => x.vc.toNat == v) && o.credits.getD v 0 != 0

/-- The VC whose slice the crossing time is. -/
def State.vcSlice (s : State) (p n : Nat) : Nat :=
  let e := n % 32
  let b := 4 * (e % 8)
  bits (s.word (Pg.ferry p) (0x140 + 4 * (e / 8))).toNat (b + 2) b

/-- The VC that sends, in the order of R301. -/
def State.nextVc (s : State) (p : Nat) (o : Port) : Option Nat :=
  let v := s.vcSlice p o.times
  ([0, 1, v, if v % 2 = 0 then v + 1 else v - 1] ++ [2, 3, 4, 5, 6, 7]).find? o.canSend

/-- While frozen a port sends no data crossing but a THAW that was flooded (R468, R469). -/
def Port.keeperVc (o : Port) : Option Nat :=
  match o.out.head? with
  | some x => if x.kind = Kind.freeze ∧ o.canSend 0 then some 0 else none
  | none => none

/-- Send the oldest crossing of a VC. -/
def State.sendData (s : State) (p v : Nat) : State :=
  let o := s.port p
  match o.out.find? fun x => x.vc.toNat == v with
  | none => s
  | some x =>
    let y := { x with seq := BitVec.ofNat 12 o.txSeq }
    s.setPort p { o with
      out := o.out.eraseIdx (o.out.findIdx fun z => z.vc.toNat == v)
      retry := o.retry ++ [y], txSeq := (o.txSeq + 1) % 4096
      credits := o.credits.set v (o.credits.getD v 0 - 1), last := some y }

/-- An idle crossing. -/
def idleCrossing : Crossing := ⟨0, Kind.idle, false, 0, 0, 0, 0, 0, List.replicate 256 0, []⟩

/-- CROSSING_TIME (R294, R301, R468): the protocol engine sends one crossing. While frozen only control crossings,
retransmissions, a THAW and IDLE go out. -/
def execCrossingTime (port : PortId) (s : State) : Host.Outcome State Fault Refusal :=
  let p := port.val
  .next <|
    if !s.linkRuns p then s
    else
      let o := s.port p
      let t := s.setPort p { o with times := o.times + 1 }
      if o.times % 100 = 0 then t.sendControl p
      else
        match o.retry[o.retry.length - o.resend]? with
        | some x => t.setPort p { t.port p with resend := o.resend - 1, last := some x }
        | none =>
          match if 2048 ≤ o.retry.length || s.awaitsLane p then none else if s.frozen then o.keeperVc else s.nextVc p o with
          | some v => t.sendData p v
          | none => if o.owes then t.sendControl p else t.setPort p { t.port p with last := some idleCrossing }

/-! Symbol errors (R293). -/

/-- The symbols that a receiver corrected, or could not, are counted by physical lane. -/
def State.noteSym (s : State) (p : Nat) (sym : List Nat) : State :=
  if sym.isEmpty then s
  else
    let t := sym.zipIdx.foldl (fun t e => if e.1 = 0 then t else t.count (Pg.ferry p) Reg.Ferry.SYM_ERR [e.2] e.1) s
    let o := t.port p
    t.setPort p { o with syms := (List.range 9).map fun i => o.syms.getD i 0 + sym.getD i 0 }

/-! Control crossings (R298). -/

/-- Acknowledgement of everything up to a SEQ. -/
def State.ackUpTo (s : State) (p ack : Nat) : State :=
  let o := s.port p
  match o.retry.head? with
  | none => s
  | some x =>
    let k := (ack + 4096 - x.seq.toNat + 1) % 4096
    if k = 0 ∨ o.retry.length < k then s
    else
      let rest := o.retry.drop k
      let t := s.setPort p { o with retry := rest, resend := min o.resend rest.length, unacked := o.unacked - k }
      if s.rd (Pg.ferry p) Reg.Ferry.PSTATE = 3 ∧ o.unacked ≤ k then
        ((t.wr (Pg.ferry p) Reg.Ferry.PSTATE [] 2).wr (Pg.ferry p) Reg.Ferry.FAILS [] 0).settleRetry
      else t

/-- CONTROL (R298): acknowledgements, credits and a NAK. -/
def execControl (port : PortId) (x : Crossing) (s : State) : Host.Outcome State Fault Refusal :=
  let p := port.val
  .next <|
    if !s.linkRuns p || x.kind != Kind.control then s
    else
      let s := s.noteSym p x.sym
      let w := crossNum x 0 4
      let t := if bits w 12 12 = 1 then s.ackUpTo p (bits w 11 0) else s
      let o := t.port p
      let cs := o.credits.zipIdx.map fun c => min (vcCredits.getD c.2 0) (c.1 + crossNum x (4 + 2 * c.2) 2)
      let t := t.setPort p { o with credits := cs }
      if bits w 13 13 = 1 then t.mustRetry p else t

/-! Received data crossings. -/

/-- Discard a crossing: counted, and answered with one NAK until the retransmission arrives (R297, R302). -/
def State.discard (s : State) (p : Nat) : State :=
  let o := s.port p
  (s.count (Pg.ferry p) Reg.Ferry.BAD_CROSS [] 1).setPort p { o with nakDue := o.nakDue || !o.nakSent }

/-- A received crossing is one to discard: its codeword is uncorrectable, its CRC fails, its KIND is reserved, or it is a data
crossing whose SEQ is not the next one expected. -/
def mustDiscard (w : DiscardWhy) (rxSeq : Nat) : Bool :=
  match w with
  | .fec _ => true
  | .bytes raw _ =>
    !crossCrcOk raw || 0xB ≤ rawKind raw || (Kind.head.toNat ≤ rawKind raw && rawSeq raw != rxSeq)

def discardSym : DiscardWhy → List Nat
  | .fec l => l
  | .bytes _ l => l

/-- The losses that a receiver names a lane for begin with the first discard after crossings in sequence (log entry 25). -/
def State.lossBegins (s : State) (p : Nat) : State :=
  let o := s.port p
  if o.nakDue || o.nakSent then s else s.setPort p { o with syms := [] }

/-- DISCARDED_CROSSING (R297). -/
def execDiscardedCrossing (port : PortId) (why : DiscardWhy) (s : State) : Host.Outcome State Fault Refusal :=
  let p := port.val
  .next (if s.linkRuns p && mustDiscard why (s.port p).rxSeq then ((s.lossBegins p).noteSym p (discardSym why)).discard p else s)

/-- A FREEZE crossing (R466, R467). -/
def State.freezeArrives (s : State) (p : Nat) (x : Crossing) : State :=
  let g := Pg.slack
  let gen := crossNum x 2 2
  if s.rd g Reg.Slack.FRZ_MODE = 0 then s.count g Reg.Slack.FRZ_IGNORED [] 1
  else if s.freeze.thawed.contains gen || (s.freeze.known && s.rd g Reg.Slack.FGEN == gen) then s
  else
    let t := s.flood { x with vc := 0, seq := 0 } (some p)
    let t := ((t.wr g Reg.Slack.FGEN [] gen).wr g Reg.Slack.FINIT [] (crossNum x 4 2)).wr g Reg.Slack.FPORT [] p
    { t with freeze := { t.freeze with known := true } }.requestFreeze 3

/-- A THAW crossing (R469). -/
def State.thawArrives (s : State) (p : Nat) (x : Crossing) : State :=
  let g := Pg.slack
  let gen := crossNum x 2 2
  if s.rd g Reg.Slack.FRZ_MODE = 0 then s.count g Reg.Slack.FRZ_IGNORED [] 1
  else if s.freeze.thawed.contains gen then s
  else
    let t := s.flood { x with vc := 0, seq := 0 } (some p)
    let t : State := { t with freeze := { t.freeze with thawed := t.freeze.thawed ++ [gen] } }
    if s.rd g Reg.Slack.FGEN = gen ∧ s.freeze.known then
      if s.rd g Reg.Slack.FSTATE = 2 then t.wr g Reg.Slack.FSTATE [] 3
      else if s.rd g Reg.Slack.FSTATE = 1 then t.wr g Reg.Slack.FSTATE [] 0
      else t
    else t

/-- A crossing for this module reaches its unit. -/
def State.deliverCross (s : State) (p : Nat) (x : Crossing) : State :=
  let q := x.xid.toNat / 128
  let tc1 := x.vc.toNat / 2 == 1
  if x.kind = Kind.head then if tc1 then s.collArrive q x else s.putArrives x
  else if x.kind = Kind.data then
    if tc1 then s.collArrive q x
    else
      match s.rxStreams.find? fun r => r.src == x.src.toNat && r.xid == x.xid.toNat with
      | some r => s.putData p x r
      | none => s
  else if x.kind = Kind.cwExp ∨ x.kind = Kind.cwData then s.collArrive q x
  else if x.kind = Kind.signal then s.signalArrives p x
  else if x.kind = Kind.endack then
    match s.stPutOf (crossNum x 0 2) with
    | some e => s.stAcked e
    | none => s.putAcked (crossNum x 0 2)
  else if x.kind = Kind.refuse then
    match s.stPutOf (crossNum x 0 2) with
    | some e => s.stRefused e (crossNum x 2 6)
    | none => s.putTurnedAway p (crossNum x 0 2) (crossNum x 2 6)
  else if x.kind = Kind.barrier then s.barArrive p x
  else s

/-- The crossing is for another module. -/
def State.passesOn (s : State) (x : Crossing) : Bool :=
  x.kind != Kind.freeze && s.route x.dst.toNat x.src.toNat x.xid.toNat != .here

/-- A crossing that waits in the receive buffer (R265, R283, R300, R468). -/
def State.mustWait (s : State) (x : Crossing) : Bool :=
  (s.frozen && x.kind != Kind.freeze)
    || (!s.passesOn x && s.hold.now.isSome
      && (x.kind == Kind.head || x.kind == Kind.data || x.kind == Kind.cwExp || x.kind == Kind.cwData
        || (x.kind == Kind.signal && 4096 ≤ s.landingQ.length)))

/-- Pass a crossing on to its destination or an output port; its credit is returned. -/
def State.handOver (s : State) (p : Nat) (x : Crossing) : State :=
  let o := s.port p
  let v := x.vc.toNat
  let t := s.setPort p { o with freed := o.freed.set v (o.freed.getD v 0 + 1) }
  if t.passesOn x then
    (t.add2 Pg.hubAcct Reg.HubAcct.FWD_LO Reg.HubAcct.FWD_HI [] (crossBody x).length).send (v / 2) x (some (p, v % 2 == 1))
  else if x.kind = Kind.freeze then if crossNum x 0 1 = 2 then t.thawArrives p x else t.freezeArrives p x
  else t.deliverCross p x

/-- A crossing that is kept stands before this one on its way: of its VC, and like it for this module or for another. Forwarding
goes on past crossings that wait for this module (R309). -/
def State.behindKept (s : State) (kept : List Crossing) (x : Crossing) : Bool :=
  x.kind != Kind.freeze && kept.any fun y => y.vc == x.vc && s.passesOn y == s.passesOn x

/-- A data crossing in sequence is taken, or kept in the receive buffer. A NAK that is due stays due: it is set once after a discard
(R302). -/
def State.takeCross (s : State) (p : Nat) (x : Crossing) : State :=
  let o := s.port p
  let t := s.setPort p { o with rxSeq := (o.rxSeq + 1) % 4096, ackDue := true, nakSent := false }
  if t.mustWait x || t.behindKept o.rxBuf x then t.setPort p { t.port p with rxBuf := o.rxBuf ++ [x] }
  else t.handOver p x

/-- Receive a data crossing of kind `k`. -/
def State.receive (s : State) (p : Nat) (k : BitVec 4) (x : Crossing) : State :=
  if !s.linkRuns p || x.kind != k then s
  else if x.seq.toNat ≠ (s.port p).rxSeq then ((s.lossBegins p).noteSym p x.sym).discard p
  else (s.noteSym p x.sym).takeCross p { x with sym := [] }

/-- Deliver what a port has kept, in order. -/
def State.drainRx (s : State) (p : Nat) : State :=
  let kept := (s.port p).rxBuf
  kept.foldl (fun t x =>
    if t.mustWait x || t.behindKept (t.port p).rxBuf x then
      t.setPort p { t.port p with rxBuf := (t.port p).rxBuf ++ [x] }
    else t.handOver p x) (s.setPort p { s.port p with rxBuf := [] })

def State.drainRxAll (s : State) : State := (List.range 16).foldl State.drainRx s

/-- HEAD (R316, R330). -/
def execHead (port : PortId) (x : Crossing) (s : State) : Host.Outcome State Fault Refusal :=
  .next (s.receive port.val Kind.head x)

/-- DATA (R316). -/
def execData (port : PortId) (x : Crossing) (s : State) : Host.Outcome State Fault Refusal :=
  .next (s.receive port.val Kind.data x)

/-- REMOTE_SIGNAL (R316). -/
def execRemoteSignal (port : PortId) (x : Crossing) (s : State) : Host.Outcome State Fault Refusal :=
  .next (s.receive port.val Kind.signal x)

/-- ENDACK (R317). -/
def execEndack (port : PortId) (x : Crossing) (s : State) : Host.Outcome State Fault Refusal :=
  .next (s.receive port.val Kind.endack x)

/-- REFUSE (R316). -/
def execRefuse (port : PortId) (x : Crossing) (s : State) : Host.Outcome State Fault Refusal :=
  .next (s.receive port.val Kind.refuse x)

/-- CW_EXP (R325). -/
def execCwExp (port : PortId) (x : Crossing) (s : State) : Host.Outcome State Fault Refusal :=
  .next (s.receive port.val Kind.cwExp x)

/-- CW_DATA (R326, R327). -/
def execCwData (port : PortId) (x : Crossing) (s : State) : Host.Outcome State Fault Refusal :=
  .next (s.receive port.val Kind.cwData x)

/-- BARRIER_CROSSING (R331). -/
def execBarrierCrossing (port : PortId) (x : Crossing) (s : State) : Host.Outcome State Fault Refusal :=
  .next (s.receive port.val Kind.barrier x)

/-- FREEZE_CROSSING (R467). -/
def execFreezeCrossing (port : PortId) (x : Crossing) (s : State) : Host.Outcome State Fault Refusal :=
  .next (if crossNum x 0 1 = 1 then s.receive port.val Kind.freeze x else s)

/-- THAW_CROSSING (R469). -/
def execThawCrossing (port : PortId) (x : Crossing) (s : State) : Host.Outcome State Fault Refusal :=
  .next (if crossNum x 0 1 = 2 then s.receive port.val Kind.freeze x else s)

end Sys2Proof.Machine
end

