-- ==== Sys2Proof/Machine/Video.lean ====
section
/-! DEFINITION. The sample shuffle, demultiplexing and the frame-to-patch arithmetic (R218, R219, R226, R231 to R240). -/

namespace Sys2Proof.Machine

/-! The shuffle (R238). -/

/-- Half width h for an epoch of N samples. -/
def pqHalf (n : Nat) : Nat :=
  let b := max 2 (if n ≤ 1 then 0 else Nat.log2 (n - 1) + 1)
  (b + b % 2) / 2

/-- Round key K[i]. -/
def pqKey (key : BitVec 64) (epoch : Nat) (i : Nat) : BitVec 32 :=
  key.truncate 32 ^^^ (key.extractLsb' 32 32).rotateRight (8 * i) ^^^ (BitVec.ofNat 32 (epoch + i) * 0x9E3779B9)

/-- F(i, x). -/
def pqF (key : BitVec 64) (epoch h i x : Nat) : Nat :=
  ((pqKey key epoch i + BitVec.ofNat 32 x) * 0x2C1B3C6D).toNat / 2 ^ (32 - h)

/-- One Feistel round. -/
def pqRound (key : BitVec 64) (epoch h i : Nat) (p : Nat × Nat) : Nat × Nat := (p.2, p.1 ^^^ pqF key epoch h i p.2)

/-- E(v). -/
def pqE (key : BitVec 64) (epoch h v : Nat) : Nat :=
  let p := (List.range 4).foldl (fun p i => pqRound key epoch h i p) (v / 2 ^ h, v % 2 ^ h)
  p.1 * 2 ^ h + p.2

/-- Walk from `y` until a value below `n`, at most `fuel` times. -/
def pqWalk (key : BitVec 64) (epoch h n : Nat) : Nat → Nat → Nat
  | 0, y => y
  | f + 1, y => if y < n then y else pqWalk key epoch h n f (pqE key epoch h y)

/-- π(p) of an epoch of `n` samples. -/
def shuffle (key : BitVec 64) (epoch n p : Nat) : Nat :=
  let h := pqHalf n
  pqWalk key epoch h n (2 ^ (2 * h)) (pqE key epoch h p)

/-! Demultiplexing (R218, R219, R226). -/

/-- The stream so far, whether a PES packet is open, whether it is damaged, the last continuity_counter, packets damaged. -/
structure Demux where
  es    : List (Byte × Bool)
  open_ : Bool
  bad   : Bool
  cc    : Option Nat
  npkt  : Nat
  /-- Bytes of the open PES packet, its header too. -/
  cur   : List (Byte × Bool)
  deriving DecidableEq, Repr

def Demux.start : Demux := ⟨[], false, false, none, 0, []⟩

/-- Close the open PES packet: its payload follows 9 bytes and the header data that the last of them counts. One whose start
code is wrong, or whose length disagrees and which has no damaged TS packet, is damaged whole (R226; log entry 44). -/
def Demux.close (d : Demux) : Demux :=
  if !d.open_ then d
  else
    let b := fun i => ((d.cur.getD i (0, true)).1).toNat
    let plen := b 4 * 256 + b 5
    let wrong := !d.bad && plen != 0 && plen + 6 != d.cur.length
    let whole := wrong || (d.cur.take 3).map (·.1) != [0, 0, 1]
    let bs := (d.cur.drop (9 + b 8)).map fun x => (x.1, x.2 || whole)
    { d with es := d.es ++ bs, open_ := false, cur := [], bad := false }

/-- A payload that starts a PES packet. -/
def Demux.startPes (d : Demux) (p : List Byte) (bad : Bool) : Demux :=
  { d with open_ := true, bad := bad, cur := p.map fun b => (b, bad) }

/-- One TS packet. -/
def Demux.packet (d : Demux) (pid : Nat) (k : List Byte) : Demux :=
  let b := fun i => (k.getD i 0).toNat
  if bits (b 1) 4 0 * 256 + b 2 ≠ pid then d
  else
    let afc := bits (b 3) 5 4
    let alen := if 2 ≤ afc then 1 + b 4 else 0
    let disc := 2 ≤ afc && 1 ≤ b 4 && bits (b 5) 7 7 == 1
    let cc := bits (b 3) 3 0
    let hasData := afc % 2 == 1
    let dup := hasData && d.cc == some cc
    let jump := match d.cc with
      | none => false
      | some c => !disc && !dup && cc != (if hasData then (c + 1) % 16 else c)
    let bad := bits (b 1) 7 7 == 1 || bits (b 3) 7 6 != 0 || jump
    let d := { d with cc := some cc, npkt := d.npkt + bit bad }
    if !hasData || dup then { d with bad := d.bad || bad }
    else
      let p := k.drop (4 + alen)
      if bits (b 1) 6 6 = 1 then d.close.startPes p bad
      else if d.open_ then
        { d with bad := d.bad || bad, cur := d.cur ++ p.map fun x => (x, d.bad || bad) }
      else d

/-- The sync byte of R218 is found at the head of `l`. -/
def tsSync (l : List Byte) : Bool := l.head? == some 0x47 && l[188]? == some 0x47 && l[376]? == some 0x47

/-- Parse packets; a byte that is no sync byte makes the demultiplexer resynchronise. -/
def Demux.run (pid : Nat) : Nat → List Byte → Demux → Demux
  | 0, _, d => d
  | f + 1, l, d =>
    if l.length < 188 then d
    else if l.head? = some 0x47 then Demux.run pid f (l.drop 188) (d.packet pid (l.take 188))
    else
      let rec skip : List Byte → List Byte
        | [] => []
        | x :: r => if tsSync (x :: r) then x :: r else skip r
      Demux.run pid f (skip l) d

/-- The elementary stream of a sample with its damage marks, and its damaged packets. -/
def demux (cont pid : Nat) (raw : List Byte) : List (Byte × Bool) × Nat :=
  if cont = 1 then (raw.map fun b => (b, false), 0)
  else
    let d := (Demux.start.run pid raw.length raw).close
    (d.es, d.npkt)
where
  Demux.start.run (pid n : Nat) (raw : List Byte) : Demux := Demux.run pid (2 * n + 2) raw Demux.start

/-! Frame to patch (R231 to R237). -/

structure PatchDesc where
  cropx : Nat
  cropy : Nat
  dec   : Nat
  tube  : Bool
  ofmt  : Nat
  cropw : Nat
  croph : Nat
  wo    : Nat
  ho    : Nat
  xt    : Nat
  scale : List Word
  bias  : List Word
  deriving DecidableEq, Repr

def patchDesc (d : List Byte) : PatchDesc :=
  let w := fun i => dword d (4 * i)
  { cropx := bits (w 0) 11 0, cropy := bits (w 0) 23 12, dec := bits (w 0) 25 24, tube := bits (w 0) 26 26 = 1
    ofmt := bits (w 0) 30 27, cropw := bits (w 1) 12 0, croph := bits (w 1) 25 13, wo := bits (w 2) 12 0
    ho := bits (w 2) 25 13, xt := bits (w 3) 7 0, scale := (List.range 3).map fun c => BitVec.ofNat 32 (w (4 + c))
    bias := (List.range 3).map fun c => BitVec.ofNat 32 (w (7 + c)) }

/-- No reserved encoding: a crop and an output of no extent are none either (log entry 45). -/
def patchOk (d : List Byte) : Bool :=
  let x := patchDesc d
  let m := 2 ^ (x.dec + 1)
  let w := fun i => dword d (4 * i)
  w 0 < 2 ^ 31 && w 1 < 2 ^ 26 && w 2 < 2 ^ 26 && w 3 < 256 && (List.range 6).all (fun i => w (10 + i) == 0)
    && x.ofmt ≤ 4 && x.cropx % 2 == 0 && x.cropy % 2 == 0 && x.cropw % m == 0 && x.croph % m == 0 && x.cropw != 0
    && x.croph != 0 && x.wo % 16 == 0 && x.ho % 16 == 0 && x.wo ≤ 4096 && x.ho ≤ 2304 && x.wo != 0 && x.ho != 0

/-- A plane: extents and its samples. -/
structure Plane where
  w : Nat
  h : Nat
  v : Nat → Nat → Nat

/-- `i` clamped to 0 to hi. -/
def clampI (i : Int) (hi : Nat) : Nat := if i < 0 then 0 else min i.toNat hi

/-- A crop of a plane, read with edge clamping, and box-averaged (R232). -/
def Plane.crop (p : Plane) (x y w h dec : Nat) : Plane :=
  let at_ := fun i j => p.v (min (x + i) (p.w - 1)) (min (y + j) (p.h - 1))
  if dec = 0 then ⟨w, h, at_⟩
  else
    let n := 2 ^ dec
    ⟨w / n, h / n, fun i j =>
      ((List.range n).foldl (fun a dy => (List.range n).foldl (fun a dx => a + at_ (n * i + dx) (n * j + dy)) a) 0
        + 2 ^ (2 * dec - 1)) / 2 ^ (2 * dec)⟩

/-- Coefficients of phases 0 to 8 (R234). -/
def resizeTable : List (List Int) :=
  [[0, 0, 0, 256, 0, 0, 0, 0], [-1, 5, -13, 253, 15, -5, 2, 0], [-3, 9, -24, 249, 33, -11, 3, 0],
   [-3, 12, -33, 240, 52, -17, 6, -1], [-4, 14, -39, 229, 72, -23, 8, -1], [-4, 16, -43, 214, 94, -29, 10, -2],
   [-4, 16, -45, 198, 116, -35, 12, -2], [-4, 16, -44, 179, 137, -39, 14, -3], [-3, 15, -42, 158, 158, -42, 15, -3]]

/-- w[ph][t], `k` being t + 3. -/
def resizeW (ph k : Nat) : Int :=
  if ph ≤ 8 then (resizeTable.getD ph []).getD k 0 else (resizeTable.getD (16 - ph) []).getD (7 - k) 0

/-- Position Q of output `x` on an axis of extent `wi` resized to `wo` (R233). -/
def resizePos (wi wo x : Nat) : Int :=
  let step : Int := wi * 2 ^ 16 / wo
  x * step + (step - 65536) / 2

/-- Σ w × s around position `q` on an axis of extent `n`. -/
def resizeTap (q : Int) (n : Nat) (s : Nat → Int) : Int :=
  let i := q / 65536
  let ph := (q / 4096 % 16).toNat
  (List.range 8).foldl (fun a k => a + resizeW ph k * s (clampI (i + k - 3) (n - 1))) 0

/-- A plane resized with positions `px` and `py` at bit depth `n`. -/
def Plane.resize (p : Plane) (px py : Nat → Int) (n : Nat) (x y : Nat) : Nat :=
  let h := fun j => (clampI ((resizeTap (px x) p.w (fun i => (p.v i j : Int)) + 32) / 64) (2 ^ (n + 2) - 4) : Int)
  clampI ((resizeTap (py y) p.h h + 512) / 1024) (2 ^ n - 1)

/-- CY, CRV, CGU, CGV, CBU by matrix (1 BT.601, 2 BT.709, 3 BT.2020) and range (R235). -/
def colourConsts (matrix : Nat) (full : Bool) : Int × Int × Int × Int × Int :=
  match matrix, full with
  | 1, false => (9539, 13075, 3209, 6660, 16525)
  | 2, false => (9539, 14686, 1747, 4366, 17305)
  | _, false => (9539, 13752, 1535, 5328, 17545)
  | 1, true => (8192, 11485, 2819, 5850, 14516)
  | 2, true => (8192, 12901, 1535, 3835, 15201)
  | _, true => (8192, 12080, 1348, 4681, 15412)

/-- MATRIX and RANGE of an entry resolved for a picture of `h` lines. -/
def colourOf (matrix range codec h : Nat) (sm : Option Nat) (sf : Option Bool) : Nat × Bool :=
  let m := if matrix ≠ 0 then matrix
    else match sm with
      | some 1 => 2
      | some 5 => 1
      | some 6 => 1
      | some 9 => 3
      | _ => if 576 < h then 2 else 1
  let full := if codec = 0 then false else if range ≠ 0 then range == 2 else sf.getD false
  (m, full)

/-- Red, green and blue of a pixel. -/
def toRgb (matrix : Nat) (full : Bool) (n : Nat) (y cb cr : Nat) : List Nat :=
  let k := colourConsts matrix full
  let y' : Int := if full then y else (y : Int) - 16 * 2 ^ (n - 8)
  let b : Int := cb - 2 ^ (n - 1)
  let r : Int := cr - 2 ^ (n - 1)
  let c := fun (v : Int) => clampI ((v + 4096) / 8192) (2 ^ n - 1)
  [c (k.1 * y' + k.2.1 * r), c (k.1 * y' - k.2.2.1 * b - k.2.2.2.1 * r), c (k.1 * y' + k.2.2.2.2 * b)]

/-- A picture as the frame-to-patch stage sees it. -/
structure Picture where
  y      : Plane
  cb     : Plane
  cr     : Plane
  depth  : Nat
  matrix : Nat
  full   : Bool

/-- Channel values of output pixel (x, y). -/
def PatchDesc.pixel (d : PatchDesc) (p : Picture) (x y : Nat) : List FVal :=
  let l := p.y.crop d.cropx d.cropy d.cropw d.croph d.dec
  let c := fun (q : Plane) => q.crop (d.cropx / 2) (d.cropy / 2) (d.cropw / 2) (d.croph / 2) d.dec
  let px := resizePos l.w d.wo
  let py := resizePos l.h d.ho
  let pcx := fun x => px x / 2
  let pcy := fun y => (py y - 32768) / 2
  let yy := l.resize px py p.depth x y
  let cb := (c p.cb).resize pcx pcy p.depth x y
  let cr := (c p.cr).resize pcx pcy p.depth x y
  (toRgb p.matrix p.full p.depth yy cb cr).zipIdx.map fun (v, i) =>
    f32 (rne32 (((FVal.fin false v 0).mul (f32 (d.scale.getD i 0))).add (f32 (d.bias.getD i 0))))

/-- The 768 values of patch `q`. -/
def PatchDesc.patch (d : PatchDesc) (p : Picture) (q : Nat) : List FVal :=
  let n := d.wo / 16
  (List.range 256).flatMap fun i => d.pixel p (16 * (q % n) + i % 16) (16 * (q / n) + i / 16)

/-- Encode the values of a patch (R236): data bytes and MX scales. -/
def PatchDesc.encode (d : PatchDesc) (vs : List FVal) : List Byte × List Byte :=
  match d.ofmt with
  | 0 => (vs.flatMap fun v => natBytes 2 (Fmt.bf16.encode .rne true v).1, [])
  | 1 => (vs.map fun v => plain .e4m3 v, [])
  | 2 => (vs.map fun v => plain .e5m2 v, [])
  | o =>
    let f := if o = 3 then Fmt.e4m3 else .e5m2
    let bs := (chunks 32 vs.length vs).map fun b =>
      let x := mxScale f b
      (b.map fun v => BitVec.ofNat 8 (mxElem f x .rne v).1, BitVec.ofNat 8 x)
    (bs.flatMap (·.1), bs.map (·.2))
where
  /-- A plain FP8 element. -/
  plain (f : Fmt) (v : FVal) : Byte :=
    BitVec.ofNat 8 (f.encode .rne true (if d.xt = 0xFF then .nan else v.scale (127 - (d.xt : Int)))).1

/-- Bytes of an element, elements of a patch of dimension 0, patches of a picture. -/
def PatchDesc.esize (d : PatchDesc) : Nat := if d.ofmt = 0 then 2 else 1
def PatchDesc.elems (d : PatchDesc) : Nat := if d.tube then 1536 else 768
def PatchDesc.patches (d : PatchDesc) : Nat := d.wo / 16 * (d.ho / 16)
def PatchDesc.mx (d : PatchDesc) : Bool := 3 ≤ d.ofmt

/-- Data bytes and scale bytes of a sample with `n` used pictures (R237). -/
def PatchDesc.dataBytes (d : PatchDesc) (n : Nat) : Nat := d.elems * d.patches * (if d.tube then n / 2 else n) * d.esize
def PatchDesc.scaleBytes (d : PatchDesc) (n : Nat) : Nat :=
  if d.mx then d.elems / 32 * d.patches * (if d.tube then n / 2 else n) else 0

end Sys2Proof.Machine
end

