-- ==== Sys2Proof/Machine/Reedbed.lean ====
section
/-! DEFINITION. The decode units: where decoding starts, what is supported, concealment, weaving, display order (R219 to R229).
The syntax and the samples of the four standards are functions of Config (log entry 43). -/

namespace Sys2Proof.Machine

open Config (VideoTool CodingUnit VideoSlice CodedPicture Planes videoPictures videoSamples)

/-! Picture slots (R223). -/

/-- Chroma extents of 4:2:0. -/
def chromaOf (n : Nat) : Nat := (n + 1) / 2

/-- Rows of a plane in a picture slot (R223): each padded to 64 bytes, the padding free. -/
def planeBytes (free w h depth : Nat) (v : List Nat) : List Byte :=
  let n := if depth = 8 then 1 else 2
  let pad := (64 - w * n % 64) % 64
  (List.range h).flatMap fun j =>
    ((List.range w).flatMap fun i => natBytes n (v.getD (j * w + i) 0 % 2 ^ depth))
      ++ (List.range pad).map fun i => Config.freeByte (free + j * 64 + i)

/-- Bytes of a plane of `w` × `h` samples. -/
def planeSize (w h depth : Nat) : Nat := (w * (if depth = 8 then 1 else 2) + 63) / 64 * 64 * h

/-- Size of a picture slot's contents. -/
def pictureSize (w h depth : Nat) : Nat := planeSize w h depth + 2 * planeSize (chromaOf w) (chromaOf h) depth

/-! Fields and frames (R220). -/

/-- Rows of a field: the top field, `o` = 0, has the even rows. -/
def fieldH (h o : Nat) : Nat := (h + 1 - o) / 2

/-- Every second row of a plane, from row `o`. -/
def fieldRows (w h o : Nat) (v : List Nat) : List Nat := (List.range (fieldH h o)).flatMap fun j => (v.drop ((2 * j + o) * w)).take w

/-- A plane woven of its two fields. -/
def weaveRows (w h : Nat) (top bot : List Nat) : List Nat :=
  (List.range h).flatMap fun j => ((if j % 2 = 0 then top else bot).drop (j / 2 * w)).take w

/-- Each plane of a picture of luma extents `w` and `h`. -/
def onPlanes (w h : Nat) (f : Nat → Nat → List Nat → List Nat → List Nat) (a b : Planes) : Planes :=
  ⟨f w h a.y b.y, f (chromaOf w) (chromaOf h) a.cb b.cb, f (chromaOf w) (chromaOf h) a.cr b.cr⟩

/-- One field of a frame, and the frame woven of two. -/
def fieldOf (w h o : Nat) (p : Planes) : Planes := onPlanes w h (fun w h v _ => fieldRows w h o v) p p
def weave (w h : Nat) (top bot : Planes) : Planes := onPlanes w h weaveRows top bot

/-! What the units support (R221). -/

/-- The table of supported coding tools; AV1 film grain is reported and not applied. -/
def toolOk (codec : Nat) (t : VideoTool) : Bool :=
  match codec with
  | 0 => [.simpleProfile, .mainProfile, .chroma420, .framePicture, .fieldPicture, .frameDct, .fieldDct].contains t
  | 1 => [.constrainedBaseline, .mainProfile, .high, .chroma420, .paff, .mbaff, .cavlc, .cabac].contains t
  | 2 => [.mainProfile, .main10, .chroma420, .tiles, .wavefronts, .sao].contains t
  | _ => [.mainProfile, .chroma420, .monochrome, .filmGrain].contains t

/-- Supported bit depths. -/
def depthOk (codec depth : Nat) : Bool := depth == 8 || (2 ≤ codec && depth == 10)

/-- CAUSE of a coded picture (R229): 3 for its tools, 4 for the limits of R221 and R223, 0 when it is supported. `rate` counts
the coded bytes of one second of the stream's timing. -/
def pictureCause (codec : Nat) (field : Bool) (npic picb rate : Nat) (p : CodedPicture) : Nat :=
  if !p.tools.all (toolOk codec) || !depthOk codec p.depth then 3
  else if 4096 < p.w || 2304 < p.h || p.w < 16 || p.h < 16 || 16 < p.held || 240000000 < 8 * rate || npic < p.slots + 1
      || picb < pictureSize p.w (if field then fieldH p.h 0 else p.h) p.depth then 4
  else 0

/-- Coded bytes of the second that ends at picture `i`. -/
def rateAt (ps : List CodedPicture) (i : Nat) : Nat :=
  match ps[i]? with
  | none => 0
  | some p => (ps.take (i + 1)).foldl (fun n q => if q.time ≤ p.time ∧ p.time < q.time + 90000 then n + q.size else n) 0

/-! Where decoding starts, and what is not output (R220). -/

/-- A random-access point. -/
def isEntry (codec : Nat) (p : CodedPicture) : Bool :=
  !p.bad && match codec with
  | 0 => p.seqHead && p.intra
  | 1 => p.rap || (p.intra && p.recover.isSome)
  | 2 => p.rap
  | _ => p.rap && p.seqHead

/-- Pictures that the decoding from picture `e` leaves out: RASL pictures of a leading CRA, and MPEG-2 B pictures that precede
the first I picture in display order. -/
def leftOut (codec e : Nat) (first p : CodedPicture) : Bool :=
  (codec == 2 && p.rasl == some e) || (codec == 0 && p.bidir && p.order < first.order)

/-- Display order from which an H.264 stream is output: that of its recovery point. -/
def outputFrom (codec e : Nat) (ps : List CodedPicture) : Option Nat :=
  match codec, ps[e]? with
  | 1, some p =>
    match p.rap, p.recover with
    | false, some n => ps[e + n]?.map (·.order)
    | _, _ => some 0
  | _, _ => some 0

/-! Concealment (R226, R227). -/

/-- A damaged byte lies in `n` bytes of the stream from byte `o`. -/
def damaged (es : List (Byte × Bool)) (o n : Nat) : Bool := ((es.drop o).take n).any (·.2)

/-- A slice is concealed: a damaged byte, an error, or a reference picture that was not decoded. -/
def sliceBad (es : List (Byte × Bool)) (done : List (Option Planes)) (x : VideoSlice) : Bool :=
  x.bad || damaged es x.start x.bytes || x.refs.any fun r => ((done[r]?).bind id).isNone

/-- A header or a parameter set that cannot be decoded. -/
def headBad (es : List (Byte × Bool)) (p : CodedPicture) : Bool := p.bad || damaged es p.start p.bytes

/-- A sample of a plane whose positions are 1/`sc` of luma's lies in a coding unit. -/
def inUnit (sc x y : Nat) (u : CodingUnit) : Bool :=
  u.x / sc ≤ x && x < (u.x + u.w + sc - 1) / sc && u.y / sc ≤ y && y < (u.y + u.h + sc - 1) / sc

/-- A concealment source: a picture decoded earlier and its luma extents. -/
structure RefPic where
  w  : Nat
  h  : Nat
  pl : Planes
  deriving DecidableEq, Repr

/-- A plane whose samples in concealed units, or all of them, are the co-located ones of the source `src` of extents `sw` and
`sh`; 2^(n − 1) where there is none. -/
def concealPlane (sc w h depth : Nat) (whole : Bool) (us : List CodingUnit) (v : List Nat) (sw sh : Nat)
    (src : Option (List Nat)) : List Nat :=
  (List.range (w * h)).map fun i =>
    let x := i % w
    let y := i / w
    if whole || us.any (inUnit sc x y) then
      match src with
      | some l => if x < sw ∧ y < sh then l.getD (y * sw + x) 0 else 2 ^ (depth - 1)
      | none => 2 ^ (depth - 1)
    else v.getD i 0

/-- Conceal a picture of luma extents `w` and `h`. -/
def conceal (w h depth : Nat) (whole : Bool) (us : List CodingUnit) (p : Planes) (src : Option RefPic) : Planes :=
  let sw := (src.map (·.w)).getD 0
  let sh := (src.map (·.h)).getD 0
  ⟨concealPlane 1 w h depth whole us p.y sw sh (src.map (·.pl.y)),
   concealPlane 2 (chromaOf w) (chromaOf h) depth whole us p.cb (chromaOf sw) (chromaOf sh) (src.map (·.pl.cb)),
   concealPlane 2 (chromaOf w) (chromaOf h) depth whole us p.cr (chromaOf sw) (chromaOf sh) (src.map (·.pl.cr))⟩

/-! Decoding (R220 to R229). -/

/-- An output frame, or a picture that the sample uses: its samples and its concealed coding units, those of a frame's fields
too; place in display order; MATRIX and RANGE of the stream. -/
structure OutPicture where
  w        : Nat
  h        : Nat
  depth    : Nat
  pl       : Planes
  cus      : Nat
  cusTop   : Nat
  cusBot   : Nat
  topFirst : Bool
  order    : Nat
  shown    : Bool
  matrix   : Option Nat
  full     : Option Bool
  deriving DecidableEq, Repr

/-- A picture of no extent, read where a stream has none. -/
def OutPicture.none : OutPicture := ⟨0, 0, 8, ⟨[], [], []⟩, 0, 0, 0, true, 0, false, .none, .none⟩

/-- A decoder: the samples of each coded picture so far; the latest reference frame and field of each parity; the field that
waits for its second, with its concealed units; the frames; pictures decoded, coding units concealed; the CAUSE that ended it. -/
structure Decoder where
  done  : List (Option Planes)
  frame : Option RefPic
  top   : Option RefPic
  bot   : Option RefPic
  half  : Option (CodedPicture × Bool × Planes × Nat)
  out   : List OutPicture
  npic  : Nat
  cus   : Nat
  cause : Nat
  deriving DecidableEq, Repr

def Decoder.start : Decoder := ⟨[], none, none, none, none, [], 0, 0, 0⟩

def Decoder.ref (d : Decoder) : Option Bool → Option RefPic
  | none => d.frame
  | some true => d.top
  | some false => d.bot

/-- A frame is decoded. -/
def Decoder.frameDone (d : Decoder) (p : CodedPicture) (pl : Planes) (cus ct cb : Nat) : Decoder :=
  let r : RefPic := ⟨p.w, p.h, pl⟩
  let f := fun o => (⟨p.w, fieldH p.h o, fieldOf p.w p.h o pl⟩ : RefPic)
  { d with
    frame := if p.isRef then some r else d.frame, top := if p.isRef then some (f 0) else d.top
    bot := if p.isRef then some (f 1) else d.bot
    out := d.out ++ [⟨p.w, p.h, p.depth, pl, cus, ct, cb, p.topFirst, p.order, p.shown, p.matrix, p.full⟩] }

/-- Weave two fields, the first of parity `top`. -/
def Decoder.paired (d : Decoder) (p : CodedPicture) (top : Bool) (a b : Planes) (ca cb : Nat) : Decoder :=
  let t := if top then (a, b, ca, cb) else (b, a, cb, ca)
  { d with half := none }.frameDone p (weave p.w p.h t.1 t.2.1) (ca + cb) t.2.2.1 t.2.2.2

/-- A field that stays without its second: the missing field is concealed whole. -/
def Decoder.unpaired (d : Decoder) : Decoder :=
  match d.half with
  | none => d
  | some (p, top, a, ca) =>
    let o := if top then 1 else 0
    let b := conceal p.w (fieldH p.h o) p.depth true [] a (d.ref (some !top))
    let n := p.units.length
    { d with cus := d.cus + n }.paired p top a b ca n

/-- Decode coded picture `p`, number `i`. -/
def Decoder.decode (d : Decoder) (codec i : Nat) (es : List (Byte × Bool)) (p : CodedPicture) : Decoder :=
  let h := match p.field with
    | none => p.h
    | some top => fieldH p.h (if top then 0 else 1)
  let whole := headBad es p
  let us := if whole then p.units else (p.slices.filter (sliceBad es d.done)).flatMap (·.units)
  let raw := videoSamples codec (es.map (·.1)) i d.done
  let mid := List.replicate (chromaOf p.w * chromaOf h) (2 ^ (p.depth - 1))
  let raw : Planes := if p.tools.contains .monochrome then ⟨raw.y, mid, mid⟩ else raw
  let pl := conceal p.w h p.depth whole us raw (d.ref p.field)
  let n := us.length
  let d : Decoder := { d with done := d.done ++ [some pl], npic := d.npic + 1, cus := d.cus + n }
  match p.field with
  | none => d.frameDone p pl n (us.countP fun u => u.y % 2 == 0 || 2 ≤ u.h) (us.countP fun u => u.y % 2 == 1 || 2 ≤ u.h)
  | some top =>
    let r : RefPic := ⟨p.w, h, pl⟩
    let d' : Decoder := { d with
      top := if p.isRef && top then some r else d.top, bot := if p.isRef && !top then some r else d.bot }
    match d.half with
    | some (q, t, a, ca) => d'.paired q t a pl ca n
    | none => { d' with half := some (p, top, pl, n) }

/-- Coded picture `p` is the second field of the frame that is open. -/
def Decoder.pairs (d : Decoder) (p : CodedPicture) : Bool :=
  match d.half, p.field with
  | some (_, t, _, _), some top => p.second && t != top
  | _, _ => false

/-- One coded picture of the stream `ps`, decoded from picture `e`. -/
def Decoder.take (codec e npic picb : Nat) (field : Bool) (es : List (Byte × Bool)) (ps : List CodedPicture) (d : Decoder)
    (q : CodedPicture × Nat) : Decoder :=
  let d := if d.pairs q.1 then d else d.unpaired
  if d.cause ≠ 0 then d
  else if q.2 < e then { d with done := d.done ++ [none] }
  else if leftOut codec e (ps.getD e default) q.1 then { d with done := d.done ++ [none] }
  else
    match pictureCause codec field npic picb (rateAt (ps.drop e) (q.2 - e)) q.1 with
    | 0 => d.decode codec q.2 es q.1
    | c => { d with cause := c }

/-- Insert a frame by display order. -/
def insertFrame (f : OutPicture) : List OutPicture → List OutPicture
  | [] => [f]
  | g :: r => if f.order < g.order then f :: g :: r else g :: insertFrame f r

/-- The two pictures of a frame under FIELD = 1, that displayed first first. -/
def OutPicture.fields (f : OutPicture) : List OutPicture :=
  let g := fun o => { f with h := fieldH f.h o, pl := fieldOf f.w f.h o f.pl, cus := if o = 0 then f.cusTop else f.cusBot }
  if f.topFirst then [g 0, g 1] else [g 1, g 0]

/-- What a unit makes of an elementary stream: the output pictures in their order, pictures decoded, coding units concealed,
film grain parameters present, CAUSE. -/
structure Decoded where
  pics    : List OutPicture
  decoded : Nat
  cus     : Nat
  grain   : Bool
  cause   : Nat
  deriving DecidableEq, Repr

/-- Decode a stream (R220 to R229). -/
def decodeStream (codec npic picb : Nat) (field : Bool) (es : List (Byte × Bool)) : Decoded :=
  let ps := videoPictures codec (es.map (·.1))
  let e := ps.findIdx (isEntry codec)
  let d := (ps.zipIdx.foldl (Decoder.take codec e npic picb field es ps) Decoder.start).unpaired
  let fs := (d.out.filter fun f => f.shown && match outputFrom codec e ps with
    | some n => n ≤ f.order
    | none => false).foldl (fun l f => insertFrame f l) []
  ⟨if field then fs.flatMap OutPicture.fields else fs, d.npic, d.cus,
   codec == 3 && (ps.drop e).any (fun p => p.tools.contains .filmGrain), d.cause⟩

end Sys2Proof.Machine
end

