-- ==== Sys2Proof/Machine/Ingest.lean ====
section
/-! DEFINITION. The ingest sequencer, the ingest ports, Wharf, and the Reedbed units (R204 to R243). -/

namespace Sys2Proof.Machine

/-! Batches (R204 to R209). -/

structure BatchDesc where
  nsamp   : Nat
  /-- Channels. -/
  nch     : Nat
  endpt   : Nat
  ports   : Nat
  epoch   : Nat
  nm1     : Nat
  pos     : Nat
  stab    : Nat
  pdesc   : Nat
  pbase   : Nat
  pstride : Nat
  statb   : Nat
  chbase  : Nat
  chstr   : Nat
  buflog  : Nat
  npic    : Nat
  picb    : Nat
  done_   : Nat
  deriving DecidableEq, Repr

def batchDesc (d : List Byte) : BatchDesc :=
  let w := fun o => dword d o
  let a := fun o => w o + bits (w (o + 4)) 15 0 * 2 ^ 32
  { nsamp := bits (w 0) 15 0, nch := bits (w 0) 24 16 + 1, endpt := bits (w 0) 28 25, ports := bits (w 0) 30 29
    epoch := w 4, nm1 := w 8, pos := w 0xC, stab := a 0x10, pdesc := a 0x18, pbase := a 0x20, pstride := w 0x28
    statb := a 0x2C, chbase := a 0x34, chstr := w 0x3C, buflog := bits (w 0x40) 4 0, npic := bits (w 0x40) 9 5
    picb := w 0x44, done_ := bits (w 0x48) 12 0 }

/-- Not malformed under R207. -/
def batchOk (d : List Byte) : Bool :=
  let x := batchDesc d
  let w := fun o => dword d o
  x.ports != 0 && w 0 < 2 ^ 31 && [0x14, 0x1C, 0x24, 0x30, 0x38].all (fun o => w o < 2 ^ 16) && w 0x40 < 2 ^ 10
    && w 0x48 < 2 ^ 13 && (List.range 13).all (fun i => w (0x4C + 4 * i) == 0)
    && x.pos + x.nsamp ≤ x.nm1 && 12 ≤ x.buflog && x.buflog ≤ 26 && 2 ≤ x.npic && x.npic ≤ 17
    && x.pbase % 4096 == 0 && x.pstride % 4096 == 0 && x.chbase % 2 ^ 21 == 0 && x.chstr % 2 ^ 21 == 0

/-- A sample-table entry (R208). -/
structure Entry where
  object : Nat
  off    : Nat
  len    : Nat
  cont   : Nat
  codec  : Nat
  pid    : Nat
  field  : Bool
  matrix : Nat
  range  : Nat
  first  : Nat
  npict  : Nat
  stride : Nat
  deriving DecidableEq, Repr

def sampleEntry (d : List Byte) : Entry :=
  let w := fun o => dword d o
  { object := w 0 + w 4 * 2 ^ 32, off := w 8 + w 0xC * 2 ^ 32, len := w 0x10, cont := bits (w 0x14) 1 0
    codec := bits (w 0x14) 3 2, pid := bits (w 0x14) 16 4, field := bits (w 0x14) 17 17 = 1, matrix := bits (w 0x14) 19 18
    range := bits (w 0x14) 21 20, first := bits (w 0x18) 15 0, npict := bits (w 0x18) 31 16 + 1
    stride := bits (w 0x1C) 7 0 + 1 }

/-- An entry without a reserved encoding. -/
def entryOk (d : List Byte) : Bool :=
  let e := sampleEntry d
  e.cont ≤ 1 && !(e.codec == 3 && e.cont == 0) && e.range ≤ 2 && e.len != 0 && dword d 0x14 < 2 ^ 22 && dword d 0x1C < 2 ^ 8

/-! Who the sequencer and the Reedbed units are. -/

/-- Grantee of the sequencer's windows (R250). -/
def seqGrantee : Nat := 256

/-- A fault of the sequencer or a Reedbed unit, in the Wharf page. The record has no field for the object of R216 or the writer of
R224 (R502). -/
def State.ingestFault (s : State) (code unit addr : Nat) : State :=
  (s.noteStale code addr).raise ⟨Pg.wharf, code, 10, 0, unit, noPc, addr, none, false⟩

def State.chan (s : State) (c : Nat) : Option Chan := sget (fun _ => none) s.chans c
def State.setChan (s : State) (c : Nat) (x : Chan) : State :=
  { s with chans := sset (fun _ => none) s.chans c (some x) }
def State.batchOf (s : State) (x : Chan) : Option Batch := s.batches.find? fun b => b.no == x.no

/-- Region of channel `c` (R223). -/
def BatchDesc.region (b : BatchDesc) (c : Nat) : Nat := (b.chbase + c * b.chstr) % 2 ^ 48
def BatchDesc.slotAt (b : BatchDesc) (c k : Nat) : Nat := (b.region c + 2 ^ b.buflog + k * b.picb) % 2 ^ 48

/-- A write over [a, a + n) is held back at an uncopied granule. -/
def State.writesHeld (s : State) (a n : Nat) : Bool := s.stalled.any fun w => overlap w.addr w.bytes.length a n

/-- Die of the logical unit that serves channel `c` (R222). -/
def chanDie (c : Nat) : Nat := c / 128
def chanUnit (c : Nat) : Nat := c / 32 % 4

/-- A core of a polder, by which its traffic is charged. -/
def State.coreOfPolder (s : State) (p : Nat) : Nat := 64 * (((List.range 4).find? fun d => s.polderOfDie d == p).getD 0)

/-- Requests of a Reedbed unit (`unit` 12) at its die's port 9, or of the sequencer and the ingest ports at port 8 (R7, R254). -/
def State.ingestTraffic (s : State) (unit chan pol : Nat) (write : Bool) (a n : Nat) : State :=
  let o : Owner := if unit = 12 then ⟨chanDie chan, 9, chanUnit chan⟩ else ⟨0, 8, 8⟩
  s.traffic (Req.madeBy o (s.coreOfPolder pol) 4 10 (chan % 32) 0 0 write) [(a, n)]

/-- Write for the sequencer (`unit` 15, hub) or a Reedbed unit (`unit` 12): what precedes the first address outside its
windows, or unmapped, is written, then the fault is raised (R207). -/
def State.ingestWrite (s : State) (die unit chan pol a : Nat) (bs : List Byte) : State × Bool :=
  let go := fun (s : State) (bs : List Byte) =>
    let t := (s.acctMem pol a bs.length true).ingestTraffic unit chan pol true a bs.length
    let r := t.store ⟨a, bs.map some, isModMem a, die, 0, unit, none, 0⟩
    match r.2 with
    | some b => (r.1.ingestFault 0x46 (chan % 32) b, false)
    | none => (r.1, true)
  match s.hubWriteStop seqGrantee a bs.length with
  | none => if bs.isEmpty then (s, true) else go s bs
  | some (c, b) =>
    let n := b - a
    let t := if n = 0 then s else (go s (bs.take n)).1
    (t.ingestFault c (chan % 32) (if b < a then a else b), false)

/-! READs (R212, R213, R215). -/

/-- Ones' complement sum of 16-bit words, the last one padded. -/
def onesSum (bs : List Byte) : Nat :=
  let n := (chunks 2 (bs.length + 1) bs).foldl (fun a w => a + (if w.length = 1 then 256 * beNat w else beNat w)) 0
  let fold := fun n => n % 2 ^ 16 + n / 2 ^ 16
  fold (fold (fold n))

/-- UDP checksum of a pseudo-header and a datagram whose checksum field is zero: a sum of zero is sent as 0xFFFF. -/
def udpCheck (pseudo dg : List Byte) : Nat :=
  let c := 0xFFFF - onesSum (pseudo ++ dg)
  if c = 0 then 0xFFFF else c

/-- UDP header of `n` payload bytes. -/
def udpHead (sport dport n check : Nat) : List Byte := beBytes 2 sport ++ beBytes 2 dport ++ beBytes 2 (8 + n) ++ beBytes 2 check

/-- Pseudo-header of a UDP datagram of `n` bytes between addresses in words. -/
def pseudo (v6 : Bool) (src dst : List Nat) (n : Nat) : List Byte :=
  src.flatMap (beBytes 4) ++ dst.flatMap (beBytes 4) ++ if v6 then beBytes 4 n ++ [0, 0, 0, 17] else [0, 17] ++ beBytes 2 n

/-- MAC address in two register words. -/
def macOf (hi lo : Nat) : Nat := hi * 2 ^ 32 + lo

/-- A READ datagram's payload. -/
def readPayload (maxdata c tag object off len : Nat) : List Byte :=
  beBytes 2 0x5746 ++ [1, 1] ++ beBytes 2 maxdata ++ beBytes 2 c ++ beBytes 4 tag ++ beBytes 8 object ++ beBytes 8 off
    ++ beBytes 4 len

def maxData (buflog : Nat) : Nat := min 8192 (2 ^ buflog)

/-- The ingest port through which a channel sends. -/
def BatchDesc.portOf (b : BatchDesc) (c : Nat) : Nat := if b.ports = 1 then 0 else if b.ports = 2 then 1 else c % 2

/-- Send a READ for a range of the channel's sample. -/
def State.sendRead (s : State) (c : Nat) (x : Chan) (b : BatchDesc) (off len tries : Nat) : State :=
  let e := sampleEntry x.entry
  let p := b.portOf c
  let g := Pg.ingest p
  let w := Pg.wharf
  let words := fun (f : FieldSpec) (ix : List Nat) (q : Nat) => (List.range 4).map fun i => s.rd q f (i :: ix)
  let v6 := s.rd g Reg.Ingest.V6 = 1
  let tag := s.wharfTag
  let src := if v6 then words Reg.Ingest.IPV6 [] g else [s.rd g Reg.Ingest.IPV4]
  let dst := if v6 then words Reg.Wharf.EP_ADDR [b.endpt] w else [s.rd w Reg.Wharf.EP_ADDR [3, b.endpt]]
  let sport := s.rd g Reg.Ingest.UDP_PORT
  let dport := s.rd w Reg.Wharf.EP_PORT [b.endpt]
  let pl := readPayload (maxData b.buflog) c tag e.object (e.off + off) len
  let out : NetOut :=
    { port := p
      mac := if p = 0 then macOf (s.rd w Reg.Wharf.NH0_HI [b.endpt]) (s.rd w Reg.Wharf.NH0_LO [b.endpt])
        else macOf (s.rd w Reg.Wharf.NH1_HI [b.endpt]) (s.rd w Reg.Wharf.NH1_LO [b.endpt])
      vid := if s.rd g Reg.Ingest.VLAN_EN = 1 then some (s.rd g Reg.Ingest.VID) else none
      v6 := v6
      src := src
      dst := dst
      sport := sport
      dport := dport
      check := udpCheck (pseudo v6 src dst (8 + pl.length)) (udpHead sport dport pl.length 0 ++ pl)
      dscp := s.rd g Reg.Ingest.DSCP
      payload := pl }
  let y := { x with reads := x.reads ++ [⟨tag, off, len, [], tries, p⟩] }
  let t := ({ s with netOut := s.netOut ++ [out], wharfTag := (tag + 1) % 2 ^ 32 } : State).setChan c y
  let t := t.count g Reg.Ingest.TX_READ [] 1
  if 1 < tries then t.count g Reg.Ingest.RETRANS [] 1 else t

/-- Send the READs that are due: ranges to be requested again first, then new ones as far as the buffer is free; at most 4
outstanding. -/
def State.sendReads (s : State) (c : Nat) : Nat → State
  | 0 => s
  | f + 1 =>
    match s.chan c with
    | none => s
    | some x =>
      match s.batchOf x with
      | none => s
      | some b =>
        let d := batchDesc b.desc
        let len := (sampleEntry x.entry).len
        if s.towMode b.pol = 3 ∨ x.failed ∨ x.isOver ∨ 4 ≤ x.reads.length then s
        else
          match x.todo with
          | (o, n, k) :: r => State.sendReads (s.sendRead c { x with todo := r } d o n (k + 1)) c f
          | [] =>
            let free := 2 ^ d.buflog - (x.asked - x.raw.length)
            let n := min (min free 1048576) (len - x.asked)
            if n = 0 then s
            else State.sendReads (s.sendRead c { x with asked := x.asked + n } d x.asked n 1) c f

/-! Received ranges. -/

/-- Bytes from offset `o` that have been received without a gap. -/
def contiguous (l : List (Nat × Nat)) : Nat → Nat → Nat
  | 0, o => o
  | f + 1, o =>
    match l.find? fun r => r.1 ≤ o && o < r.1 + r.2 with
    | some r => contiguous l f (r.1 + r.2)
    | none => o

/-- End of the contiguous prefix of a channel. -/
def Chan.ready (x : Chan) : Nat := contiguous x.have_ (x.have_.length + 1) x.raw.length

/-- Bytes of the buffer of channel `c` from sample offset `o`. -/
def State.bufBytes (s : State) (b : BatchDesc) (c o n : Nat) : List Byte :=
  (List.range n).map fun i => s.byteAt ((b.region c + (o + i) % 2 ^ b.buflog) % 2 ^ 48)

/-- The pieces of `n` bytes at sample offset `o` in the buffer, cut where it wraps: address and length. -/
def BatchDesc.bufRuns (b : BatchDesc) (c o n : Nat) : List (Nat × Nat) :=
  let size := 2 ^ b.buflog
  let k := min n (size - o % size)
  [((b.region c + o % size) % 2 ^ 48, k)] ++ (if k < n then [(b.region c, n - k)] else [])

/-- Place bytes of the sample at offset `o` in the channel's buffer. -/
def State.fillBuf (s : State) (c pol : Nat) (b : BatchDesc) (o : Nat) (bs : List Byte) : State × Bool :=
  ((b.bufRuns c o bs.length).foldl (fun (a : State × Bool × List Byte) r =>
    if !a.2.1 then a
    else
      let w := a.1.ingestWrite 4 15 c pol r.1 (a.2.2.take r.2)
      (w.1, w.2, a.2.2.drop r.2)) (s, true, bs)) |> fun r => (r.1, r.2.1)

/-- Disarm the decode output stream of channel `c`. -/
def State.disarmOut (s : State) (c : Nat) : State := { s with hubCmp := s.hubCmp.filter fun k => k.1 != cmpReedbed c }

/-- Stop a channel's sample after a fault. -/
def State.failChan (s : State) (c : Nat) : State :=
  match s.chan c with
  | some x => (s.disarmOut c).setChan c { x with failed := true, reads := [], todo := [] }
  | none => s

/-! Samples (R206, R209, R229, R230). -/

/-- KEY of a sample's records (R482). -/
def Chan.recKey (x : Chan) : Nat := x.batch % 2 ^ 16 + x.s * 2 ^ 16

/-- INGEST payload of R482. -/
def Chan.record (x : Chan) (code : Nat) : List Byte :=
  let e := sampleEntry x.entry
  natBytes 8 e.object ++ natBytes 8 e.off ++ natBytes 4 e.len ++ natBytes 4 x.index ++ natBytes 4 code ++ natBytes 4 0
    ++ sha256 x.raw

/-- The status record (R230). -/
def statusRecord (x : Chan) (short missing grain : Bool) (cause decoded : Nat) : List Byte :=
  natBytes 4 (bit (x.cpics != 0) + bit short * 2 + bit missing * 4 + bit grain * 8 + cause * 16
      + min x.cpics 0xFFFF * 2 ^ 16)
    ++ natBytes 4 (min x.cus 0xFFFFFFFF) ++ natBytes 2 x.firstc ++ natBytes 2 (min decoded 0xFFFF) ++ natBytes 4 x.index

/-- Free the channel of a sample that is complete, count it in its batch, and signal the batches that are complete in ring
order. -/
def State.batchSignals (s : State) : Nat → State
  | 0 => s
  | f + 1 =>
    match s.batches with
    | [] => s
    | b :: r =>
      let d := batchDesc b.desc
      if b.ndone ≤ d.nsamp then s
      else
        let t : State := { s with batches := r }
        let t := t.hubSignal d.done_ 15 9 0
        let n := (b.idx + 1) % 2 ^ s.rd Pg.wharf Reg.Wharf.IQ_LOG2
        State.batchSignals (t.wr Pg.wharf Reg.Wharf.IQ_DONE [] n) f

/-- Update a batch. -/
def State.setBatch (s : State) (b : Batch) : State :=
  { s with batches := s.batches.map fun x => if x.no = b.no then b else x }

/-- The sample's patches and status record are written and acknowledged. -/
def State.sampleEnds (s : State) (c : Nat) : State :=
  match s.chan c with
  | none => s
  | some x =>
    match s.batchOf x with
    | none => s
    | some b =>
      let d := batchDesc b.desc
      if !x.isOver || x.failed || s.writesHeld ((d.pbase + x.s * d.pstride) % 2 ^ 48) d.pstride
          || s.writesHeld ((d.statb + 16 * x.s) % 2 ^ 48) 16 then s
      else
        let t : State := { s with chans := sset (fun _ => none) s.chans c none }
        let t := t.setBatch { b with ndone := b.ndone + 1 }
        t.batchSignals (t.batches.length + 1)

/-- Write into a sample's region from offset `off`, as far as the region goes (R237). -/
def State.patchRegion (s : State) (die c pol base size off : Nat) (bs : List Byte) : State × Bool :=
  s.ingestWrite die 12 c pol ((base + off) % 2 ^ 48) (bs.take (size - off))

/-- The stage has written a sample's tensor of `n` bytes as far as PSTRIDE allows: OUT_OF_WINDOW where the tensor is larger
(R237). -/
def State.patchEnds (s : State) (c : Nat) (d : BatchDesc) (base n : Nat) : State × Bool :=
  if d.pstride < n then (s.ingestFault 0x02 (c % 32) ((base + d.pstride) % 2 ^ 48), false) else (s, true)

/-- The region of a sample that is MISSING: zeros, with MX scales of 0x7F (R229). -/
def State.missingPatches (s : State) (c : Nat) (x : Chan) (b : Batch) : State × Bool :=
  let d := batchDesc b.desc
  let p := patchDesc b.pdesc
  let n := (sampleEntry x.entry).npict
  let base := (d.pbase + x.s * d.pstride) % 2 ^ 48
  let data := if patchOk b.pdesc then p.dataBytes n else 0
  let sc := if patchOk b.pdesc then p.scaleBytes n else 0
  let bs := List.replicate data (0 : Byte) ++ List.replicate sc (0x7F : Byte)
    ++ List.replicate (d.pstride - data - sc) (0 : Byte)
  let w := s.patchRegion (chanDie c) c b.pol base d.pstride 0 bs
  if w.2 then w.1.patchEnds c d base (data + sc) else w

/-- The sample's last writes: the status record; then the sample is complete once they are accepted. -/
def State.closeSample (s : State) (c : Nat) (x : Chan) (b : Batch) (rec : List Byte) : State :=
  let d := batchDesc b.desc
  let y := { x with isOver := true, reads := [], todo := [] }
  let w := (s.setChan c y).ingestWrite (chanDie c) 12 c b.pol ((d.statb + 16 * x.s) % 2 ^ 48) rec
  if w.2 then w.1.sampleEnds c else w.1.failChan c

/-- The sample ends as MISSING with a CAUSE. -/
def State.missing (s : State) (c : Nat) (x : Chan) (b : Batch) (cause decoded : Nat) (grain : Bool) : State :=
  let s := if 3 ≤ cause then s.count (Pg.die (chanDie c)) Reg.Die.UNSUPPORTED [chanUnit c] 1 else s
  let w := s.missingPatches c x b
  if w.2 then
    w.1.closeSample c x b (statusRecord { x with cpics := 0, cus := 0, firstc := 0xFFFF } false true grain cause decoded)
  else w.1.failChan c

/-- The sample's record, once its last byte is consumed or a FAIL ends it (R484, R485). -/
def State.sampleRecord (s : State) (x : Chan) (b : Batch) (code : Nat) : State :=
  s.sampleDone b.pol (b.ord + x.s) x.recKey (x.record code)

/-- Begin sample `n` of batch `b` on channel `c`: its entry is read; a reserved encoding makes it MISSING (R208, R231,
R237). -/
def State.beginSample (s : State) (c : Nat) (b : Batch) (n : Nat) : State :=
  let d := batchDesc b.desc
  let ix := shuffle b.key d.epoch (d.nm1 + 1) (d.pos + n)
  let a := (d.stab + 32 * ix) % 2 ^ 48
  let t := s.setBatch { b with taken := sset (fun _ => 0) b.taken c (sget (fun _ => 0) b.taken c + 1) }
  let e := t.bytesAt a 32
  let x : Chan := ⟨b.no, b.idx, n, ix, e, [], [], 0, [], [], false, 0, 0, [], 0, 0, 0xFFFF, false, false, false⟩
  match t.hubReadStop seqGrantee a 32 false with
  | some none => s
  | some (some (code, f)) => ((t.setChan c { x with failed := true }).partCheck code f a 32).ingestFault code (c % 32) f
  | none =>
    let t := (t.setChan c x).ingestTraffic 15 c b.pol false a 32
    if !entryOk e || !patchOk b.pdesc || ((patchDesc b.pdesc).tube && (sampleEntry e).npict % 2 == 1) then
      (t.sampleRecord x b 0).missing c x b 3 0 false
    else t.sendReads c 8

/-- The next sample that channel `c` takes: the first batch in ring order with one left. -/
def State.nextSample (s : State) (c : Nat) : Option (Batch × Nat) :=
  s.batches.findSome? fun b =>
    let d := batchDesc b.desc
    let n := c + sget (fun _ => 0) b.taken c * d.nch
    if c < d.nch ∧ n ≤ d.nsamp then some (b, n) else none

/-- Free channels take samples, at most `fuel` times in all. -/
def State.assign (s : State) : Nat → State
  | 0 => s
  | f + 1 =>
    match (List.range 512).findSome? fun c =>
        if (s.chan c).isSome then none else (s.nextSample c).map fun e => (c, e) with
    | none => s
    | some (c, b, n) => State.assign (s.beginSample c b n) f

/-- Assign as many samples as may be due. -/
def State.assignAll (s : State) : State := s.assign (512 + s.batches.foldl (fun n b => n + (batchDesc b.desc).nsamp + 1) 0)

/-- The polder whose dies hold an address (R238). -/
def State.polderHolding (s : State) (a : Nat) : Option Nat := (s.homeOf a).map fun h => s.polderOfDie h.1

/-- Remove the granted claim and register the next one (R204, R288). -/
def State.takeBatch (s : State) : State :=
  let g := Pg.wharf
  let t : State := { s with granted := s.granted.filter fun w => w != .sequencer }
  let t := t.wr g Reg.Wharf.IQ_HEAD [] ((s.rd g Reg.Wharf.IQ_HEAD + 1) % 2 ^ s.rd g Reg.Wharf.IQ_LOG2)
  t.hubRegister (t.rd g Reg.Wharf.IQ_LANDING) 15 .sequencer true 0 (timeoutOf (t.rd g Reg.Wharf.IQ_TIMEOUT))

/-- A hardware error that strikes the sequencer's evaluation, or a read of its at `a` (R243; log entry 32). -/
def State.sequencerHw (s : State) (a : Nat) (hw : HwErr) : Option State :=
  match hw with
  | .unit => some (s.ingestFault 0x49 0 a)
  | _ => s.memError a noPc hw

/-- BATCH_DESCRIPTOR (R204 to R208): the sequencer takes the descriptor that its claim released, and its samples go to the
free channels. An error in a permutation unit or in the read stops the batch (R243). -/
def execBatchDescriptor (s : State) (hw : HwErr := .none) : Host.Outcome State Fault Refusal :=
  .next <|
    if s.still || !s.granted.contains .sequencer then s
    else
      let g := Pg.wharf
      let i := s.rd g Reg.Wharf.IQ_HEAD
      let a := s.rd2 g Reg.Wharf.IQ_BASE_LO Reg.Wharf.IQ_BASE_HI + 128 * i
      let t := s.takeBatch
      match s.hubReadStop seqGrantee a 128 false with
      | some none => s
      | some (some (c, b)) => t.ingestFault c 0 b
      | none =>
        let d := s.bytesAt a 128
        let x := batchDesc d
        match t.sequencerHw a hw with
        | some u => u
        | none =>
        let t := t.noteHw a hw
        if !batchOk d then t.ingestFault 0x0E 0 a
        else
          match s.polderHolding x.pbase, s.hubReadStop seqGrantee x.pdesc 64 false with
          | none, _ => t.ingestFault 0x03 0 x.pbase
          | _, some none => s
          | _, some (some (c, b)) => t.ingestFault c 0 b
          | some p, none =>
            let w := t.tow p
            let b : Batch := ⟨s.ids, i, d, s.bytesAt x.pdesc 64, p, s.runKey p, w.drawn, [], 0⟩
            let t := (t.setTow p { w with drawn := w.drawn + x.nsamp + 1 })
            let t := (({ t with batches := t.batches ++ [b], ids := s.ids + 1 } : State).ingestTraffic 15 0 p false a 128).ingestTraffic
              15 0 p false x.pdesc 64
            t.assignAll

/-! Received datagrams (R213 to R217). -/

/-- Fields of a Wharf header. -/
structure WharfHdr where
  ok     : Bool
  type   : Nat
  aux    : Nat
  chan   : Nat
  tag    : Nat
  off    : Nat
  len    : Nat
  deriving DecidableEq, Repr

def wharfHdr (d : List Byte) : WharfHdr :=
  let f := fun o n => beNat ((d.drop o).take n)
  ⟨32 ≤ d.length && f 0 2 == 0x5746 && f 2 1 == 1, f 3 1, f 4 2, f 6 2, f 8 4, f 0x14 8, f 0x1C 4⟩

/-- A datagram that no rule accepts is counted. -/
def State.stray (s : State) (p : Nat) : State := s.count (Pg.ingest p) Reg.Ingest.STRAY [] 1

/-- A DATA datagram. -/
def State.wharfData (s : State) (p : Nat) (dg : List Byte) : State :=
  let h := wharfHdr dg
  let c := h.chan
  match if h.ok && h.type == 2 && c < 512 then s.chan c else none with
  | none => s.stray p
  | some x =>
    match s.batchOf x with
    | none => s.stray p
    | some b =>
      let d := batchDesc b.desc
      let e := sampleEntry x.entry
      let m := maxData d.buflog
      if 2 ^ d.buflog < h.len then s.count (Pg.ingest p) Reg.Ingest.OVERSIZE [] 1
      else
        match x.reads.find? fun r => r.tag == h.tag with
        | none => s.stray p
        | some r =>
          let o := h.off - e.off - r.off
          let k := o / m
          if h.aux ≠ 0 ∨ dg.length ≠ 32 + h.len ∨ h.off < e.off + r.off ∨ o % m ≠ 0 ∨ r.len ≤ o ∨ h.len ≠ min m (r.len - o) then
            s.stray p
          else if r.got.contains k then s.count (Pg.ingest p) Reg.Ingest.DUP [] 1
          else
            let r' := { r with got := r.got ++ [k] }
            let whole := (r.len + m - 1) / m ≤ r'.got.length
            let reads := if whole then x.reads.filter fun q => q.tag != r.tag else x.reads.map fun q => if q.tag = r.tag then r' else q
            let y := { x with reads := reads, have_ := (r.off + o, h.len) :: x.have_ }
            let t := (s.acct b.pol (48 + p) h.len).setChan c y
            let w := t.fillBuf c b.pol d (r.off + o) (dg.drop 32)
            if w.2 then w.1.sendReads c 8 else w.1.failChan c

/-- A FAIL datagram ends the sample (R216). -/
def State.wharfFail (s : State) (p : Nat) (dg : List Byte) : State :=
  let h := wharfHdr dg
  match if h.ok && h.type == 3 && h.chan < 512 && dg.length == 32 then s.chan h.chan else none with
  | none => s.stray p
  | some x =>
    match s.batchOf x, x.reads.find? fun r => r.tag == h.tag with
    | some b, some r =>
      if h.off = (sampleEntry x.entry).off + r.off ∧ h.len = r.len then
        ((s.sampleRecord x b h.aux).missing h.chan x b 1 0 false).assignAll
      else s.stray p
    | _, _ => s.stray p

/-! Received frames (R210, R211). -/

/-- One bit, and one byte, of the frame check sequence of IEEE 802.3 (log entry 46). -/
def fcsBit (c : Nat) : Nat := if c % 2 = 1 then c / 2 ^^^ 0xEDB88320 else c / 2
def fcsByte (c : Nat) (b : Byte) : Nat := (List.range 8).foldl (fun c _ => fcsBit c) (c ^^^ b.toNat)

/-- The frame ends in its frame check sequence. -/
def fcsOk (f : List Byte) : Bool :=
  let n := f.length - 4
  4 ≤ f.length && bytesNat (f.drop n) == (f.take n).foldl fcsByte 0xFFFFFFFF ^^^ 0xFFFFFFFF

/-- What R211 makes of a frame: dropped for FCS, length or checksum; dropped by address, tag, protocol or port; its UDP
payload. -/
inductive FrameFate where
  | bad
  | filter
  | accept (dg : List Byte)
  deriving DecidableEq, Repr

/-- Source, destination and UDP datagram of an IP packet: IPv4 without options and fragmentation, or IPv6 without extension
headers. -/
def ipParts (etherType : Nat) (ip : List Byte) : Option (Bool × List Byte × List Byte × List Byte) :=
  let f := fun o n => beNat ((ip.drop o).take n)
  let sub := fun o n => (ip.drop o).take n
  if etherType = 0x0800 then
    if 20 ≤ ip.length ∧ f 0 1 = 0x45 ∧ f 6 2 % 2 ^ 14 = 0 ∧ f 9 1 = 17 then
      some (false, sub 12 4, sub 16 4, (ip.take (f 2 2)).drop 20)
    else none
  else if etherType = 0x86DD then
    if 40 ≤ ip.length ∧ f 0 1 / 16 = 6 ∧ f 6 1 = 17 then some (true, sub 8 16, sub 24 16, sub 40 (f 4 2)) else none
  else none

/-- A UDP datagram to `port`. -/
def udpFate (v6 : Bool) (src dst : List Byte) (port : Nat) (u : List Byte) : FrameFate :=
  let f := fun o n => beNat ((u.drop o).take n)
  let n := f 4 2
  let ps := src ++ dst ++ if v6 then beBytes 4 n ++ [0, 0, 0, 17] else [0, 17] ++ beBytes 2 n
  if f 2 2 ≠ port then .filter
  else if n < 8 ∨ u.length < n then .bad
  else if f 6 2 = 0 then if v6 then .bad else .accept ((u.take n).drop 8)
  else if onesSum (ps ++ u.take n) = 0xFFFF then .accept ((u.take n).drop 8) else .bad

/-- The port's judgement of a frame, from its destination address through its FCS (R211). -/
def State.frameFate (s : State) (p : Nat) (f : List Byte) : FrameFate :=
  let g := Pg.ingest p
  let at_ := fun o n => beNat ((f.drop o).take n)
  let tagged := at_ 12 2 == 0x8100
  let o := if tagged then 16 else 12
  if 9216 < f.length ∨ !fcsOk f then .bad
  else if at_ 0 6 ≠ macOf (s.rd g Reg.Ingest.MAC_HI) (s.rd g Reg.Ingest.MAC_LO) then .filter
  else if tagged ∧ ¬(s.rd g Reg.Ingest.VLAN_EN = 1 ∧ at_ 14 2 % 4096 = s.rd g Reg.Ingest.VID) then .filter
  else
    match ipParts (at_ o 2) ((f.take (f.length - 4)).drop (o + 2)) with
    | none => .filter
    | some (v6, src, dst, u) =>
      let own := if v6 then (List.range 4).flatMap fun i => beBytes 4 (s.rd g Reg.Ingest.IPV6 [i])
        else beBytes 4 (s.rd g Reg.Ingest.IPV4)
      if dst ≠ own then .filter else udpFate v6 src dst (s.rd g Reg.Ingest.UDP_PORT) u

/-- Bytes that an ingest port's receive buffer holds. -/
def State.ingestHeld (s : State) (p : Nat) : Nat := (s.ingestRx.filter fun e => e.1 == p).foldl (fun n e => n + e.2.length) 0

/-- The payload of an accepted frame: a FAIL, or a DATA datagram and what no rule accepts. -/
def State.datagramIn (s : State) (p : Nat) (dg : List Byte) : State :=
  let t := s.count (Pg.ingest p) Reg.Ingest.RX_ACCEPT [] 1
  if (wharfHdr dg).type = 3 then t.wharfFail p dg else t.wharfData p dg

/-- A frame that reaches a port (R211). While the module stands still an accepted one waits in the port's 2 MiB buffer, and
is dropped where the buffer is full, for which no counter is named (R265, R463; log entry 46). A freeze stops the counters. -/
def State.frameIn (s : State) (p : Nat) (f : List Byte) : State :=
  match s.frameFate p f with
  | .bad => if s.frozen then s else s.count (Pg.ingest p) Reg.Ingest.RX_BAD [] 1
  | .filter => if s.frozen then s else s.count (Pg.ingest p) Reg.Ingest.RX_FILTER [] 1
  | .accept dg =>
    if !s.still then s.datagramIn p dg
    else if 2097152 < s.ingestHeld p + f.length then s
    else { s with ingestRx := s.ingestRx ++ [(p, f)] }

/-- The frames that waited are taken in their order. -/
def State.drainIngest (s : State) : State := s.ingestRx.foldl (fun t e => t.frameIn e.1 e.2) { s with ingestRx := [] }

/-- WHARF_DATA (R211, R215). -/
def execWharfData (port : IngestPort) (frame : List Byte) (s : State) : Host.Outcome State Fault Refusal :=
  .next (s.frameIn port.val frame)

/-- WHARF_FAIL (R211, R216). -/
def execWharfFail (port : IngestPort) (frame : List Byte) (s : State) : Host.Outcome State Fault Refusal :=
  .next (s.frameIn port.val frame)

/-- FRAME_DROPPED (R211). -/
def execFrameDropped (port : IngestPort) (frame : List Byte) (s : State) : Host.Outcome State Fault Refusal :=
  .next (s.frameIn port.val frame)

/-- Maximal runs of a READ's bytes that have not arrived. -/
def missingRuns (r : Read) (m : Nat) : List (Nat × Nat) :=
  (List.range ((r.len + m - 1) / m)).foldl (fun l k =>
    if r.got.contains k then l
    else
      let o := r.off + k * m
      let n := min m (r.len - k * m)
      match l.getLast? with
      | some (a, b) => if a + b = o then l.dropLast ++ [(a, b + n)] else l ++ [(o, n)]
      | none => [(o, n)]) []

/-- RTO_EXPIRY (R216): nothing during a freeze, whose timers stand still. -/
def execRtoExpiry (ch : ChannelId) (tag : Nat) (s : State) : Host.Outcome State Fault Refusal :=
  .next <|
    match if s.frozen then none else s.chan ch.val with
    | none => s
    | some x =>
      match s.batchOf x, x.reads.find? fun r => r.tag == tag with
      | some b, some r =>
        let y := { x with reads := x.reads.filter fun q => q.tag != tag }
        if s.rd Pg.wharf Reg.Wharf.RETRY_MAX < r.tries then
          let o := ((missingRuns r (maxData (batchDesc b.desc).buflog)).head?.map (·.1)).getD r.off
          ((s.setChan ch.val y).failChan ch.val).raise ⟨Pg.ingest r.port, 0x47, 10, 0, ch.val % 32, noPc,
            ((sampleEntry x.entry).off + o) % 2 ^ 48, none, false⟩
        else
          let runs := (missingRuns r (maxData (batchDesc b.desc).buflog)).map fun e => (e.1, e.2, r.tries)
          (s.setChan ch.val { y with todo := y.todo ++ runs }).sendReads ch.val 8
      | _, _ => s

/-! The entropy engines (R217, R222, R487). -/

/-- INGEST and INGEST_DATA records of a sample's KEY, from the start of the source to the end of the verifier's reach. -/
def State.sampleRecords (s : State) (p key : Nat) : List Record :=
  s.recordsFrom p ((s.tow p).pos + 16777216) (fun r => r.pol == p && (r.type == 0x02 || r.type == 0x03) && r.key == key)
    (s.rplLen p / 32) 0

/-- An INGEST record that no sample has been matched with yet. -/
def State.unmatched (s : State) (p : Nat) (r : Record) : Bool :=
  r.type == 0x03 && (s.tow p).pos ≤ r.off && !(s.tow p).used.contains r.off

/-- In replay mode the sample's bytes come from the INGEST_DATA records that lie between the last matched INGEST record
of its KEY and the next: the bytes at offset `o`, at most `n`. -/
def State.replayBytes (s : State) (p key o n : Nat) : List Byte :=
  let before := (s.sampleRecords p key).takeWhile fun r => !s.unmatched p r
  let rs := (before.reverse.takeWhile fun r => r.type == 0x02).reverse.filter (·.good)
  ((List.range n).map fun i => rs.findSome? fun r =>
    let b := bytesNat (r.payload.take 8)
    if b ≤ o + i then r.payload[8 + (o + i - b)]? else none).takeWhile Option.isSome |>.map fun v => v.getD 0

/-- The sample's next INGEST record. -/
def State.replayIngest (s : State) (p key : Nat) : Option Record :=
  (s.sampleRecords p key).find? fun r => s.unmatched p r && r.good

/-- A recorded FAIL of the sample: its code. -/
def State.replayFail (s : State) (p key : Nat) : Nat :=
  ((s.replayIngest p key).map fun r => bytesNat ((r.payload.drop 24).take 4)).getD 0

/-- Place what the records hold of the sample into the buffer, as far as it is free; one divergence where they hold nothing
more. -/
def State.replayFill (s : State) (c : Nat) (x : Chan) (b : Batch) : State :=
  if s.towMode b.pol ≠ 3 ∨ x.failed ∨ x.isOver then s
  else
    let d := batchDesc b.desc
    let n := min (2 ^ d.buflog - (x.asked - x.raw.length)) ((sampleEntry x.entry).len - x.asked)
    let bs := s.replayBytes b.pol x.recKey x.asked n
    if bs.isEmpty then
      if n = 0 ∨ x.lacks then s
      else (s.setChan c { x with lacks := true }).diverge b.pol 2 0x02 0 x.recKey
    else
      let w := (s.setChan c { x with asked := x.asked + bs.length, have_ := (x.asked, bs.length) :: x.have_ }).fillBuf c b.pol d
        x.asked bs
      if w.2 then w.1 else w.1.failChan c

/-- The lowest picture slot that is free. -/
def Chan.freeSlot (x : Chan) (npic : Nat) : Option Nat := (List.range npic).find? fun k => !x.pics.any fun p => p.slot == k

/-- A channel that the entropy engine can serve: stream bytes ready, or pictures to come, and a free picture slot. -/
def State.entropyReady (s : State) (c : Nat) : Bool :=
  match s.chan c with
  | none => false
  | some x =>
    match s.batchOf x with
    | none => false
    | some b =>
      let d := batchDesc b.desc
      !x.failed && !x.isOver && (x.freeSlot d.npic).isSome && (x.raw.length < x.ready || (x.dec && x.next < x.total))
        && !s.writesHeld (d.region c) (2 ^ d.buflog)

/-- The channel that takes the next time slice of unit `u`. -/
def State.entropyNext (s : State) (u : Nat) : Option Nat :=
  let at_ := sget (fun _ => 31) s.entropyAt u
  ((List.range 32).map fun i => 32 * u + (at_ + 1 + i) % 32).find? s.entropyReady

/-- The elementary stream of a channel's sample. -/
def Chan.stream (x : Chan) : List (Byte × Bool) :=
  let e := sampleEntry x.entry
  (demux e.cont e.pid x.raw).1

/-- What the unit makes of the sample: its output pictures and what its status record says (R220 to R229). -/
def Chan.decoded (x : Chan) (d : BatchDesc) : Decoded :=
  let e := sampleEntry x.entry
  decodeStream e.codec d.npic d.picb e.field x.stream

/-- Output picture `k`. -/
def Chan.picture (x : Chan) (d : BatchDesc) (k : Nat) : OutPicture := (x.decoded d).pics.getD k OutPicture.none

/-- The sample's last byte has been consumed: its record is made, and its stream is judged (R221, R223, R229). -/
def State.beginDecode (s : State) (c : Nat) (x : Chan) (b : Batch) : State :=
  let d := batchDesc b.desc
  let e := sampleEntry x.entry
  let i := x.decoded d
  let g := Pg.die (chanDie c)
  let s := s.sampleRecord x b 0
  let s := s.count g Reg.Die.DAMAGED_PKT [chanUnit c] (demux e.cont e.pid x.raw).2
  let s := (s.count g Reg.Die.PICTURES [chanUnit c] i.decoded).count g Reg.Die.CONCEALED_CU [chanUnit c] i.cus
  if i.cause ≠ 0 then s.missing c x b i.cause i.decoded i.grain
  else if i.pics.isEmpty then s.missing c x b 2 i.decoded i.grain
  else s.setChan c { x with dec := true, total := i.pics.length }

/-- Write the next picture into a free slot. -/
def State.nextPicture (s : State) (c : Nat) (x : Chan) (b : Batch) : State :=
  let d := batchDesc b.desc
  match x.freeSlot d.npic with
  | none => s
  | some k =>
    let f := x.picture d x.next
    let bs := planeBytes s.fresh f.w f.h f.depth f.pl.y
      ++ planeBytes (s.fresh + 64 * f.h) (chromaOf f.w) (chromaOf f.h) f.depth f.pl.cb
      ++ planeBytes (s.fresh + 128 * f.h) (chromaOf f.w) (chromaOf f.h) f.depth f.pl.cr
    let y := { x with next := x.next + 1, pics := x.pics ++ [⟨k, x.next⟩] }
    let t := ({ s with fresh := s.fresh + 192 * f.h } : State).setChan c y
    let w := t.ingestWrite (chanDie c) 12 c b.pol (d.slotAt c k) bs
    if w.2 then w.1 else w.1.failChan c

/-- The demultiplexer consumes the contiguous prefix: verified, recorded, and freed. -/
def State.consume (s : State) (c : Nat) (x : Chan) (b : Batch) : State :=
  let d := batchDesc b.desc
  let o := x.raw.length
  let n := x.ready - o
  let bad := (d.bufRuns c o n).findSome? fun r => (s.hubReadStop seqGrantee r.1 r.2 true).map fun e => (r, e)
  match bad with
  | some (_, none) => s
  | some (r, some (code, a)) => ((s.partCheck code a r.1 r.2).ingestFault code (c % 32) a).failChan c
  | none =>
    let bs := s.bufBytes d c o n
    let y := { x with raw := x.raw ++ bs, have_ := x.have_.filter fun r => o + n < r.1 + r.2 }
    let t := (d.bufRuns c o n).foldl (fun t r => t.ingestTraffic 12 c b.pol false r.1 r.2)
      ((s.acctMem b.pol (d.region c) n false).setChan c y)
    let t := if t.towMode b.pol = 1 ∧ t.rd Pg.trace Reg.Trace.CONTENT [b.pol] = 1 then
        ((chunks 65536 n bs).zipIdx.foldl (fun t e =>
          t.towAdmit b.pol 0x02 y.recKey (natBytes 8 (o + 65536 * e.2) ++ e.1)) t)
      else t
    let t := t.sendReads c 8
    match t.chan c with
    | some z => if (sampleEntry x.entry).len ≤ z.raw.length ∧ !z.failed then t.beginDecode c z b else t
    | none => t

/-- A parity error in the Reedbed unit of channel `c` stops its sample (R243). -/
def State.reedbedParity (s : State) (c : Nat) : State :=
  (s.failChan c).raise ⟨Pg.die (chanDie c), 0x49, 10, 0, chanUnit c, noPc, 0, none, false⟩

/-- A hardware error that strikes a read of channel `c` at `a`. -/
def State.reedbedHw (s : State) (c a : Nat) (hw : HwErr) : Option State :=
  match hw with
  | .unit => some (s.reedbedParity c)
  | _ => (s.memError a noPc hw).map (·.failChan c)

/-- Replay takes the bytes of every channel of the unit, and its recorded FAILs, from the records. -/
def State.replayUnit (s : State) (u : Nat) : State :=
  (List.range 32).foldl (fun t i =>
    let c := 32 * u + i
    match t.chan c with
    | none => t
    | some x =>
      match t.batchOf x with
      | none => t
      | some b =>
        if t.towMode b.pol ≠ 3 ∨ x.failed ∨ x.isOver then t
        else
          let code := t.replayFail b.pol x.recKey
          if code ≠ 0 ∧ !x.dec then (t.sampleRecord x b code).missing c x b 1 0 false
          else t.replayFill c x b) s

/-- ENTROPY_TIME_SLICE (R222): the next ready channel consumes its bytes, or its next picture is finished. -/
def execEntropyTimeSlice (unit : ReedbedId) (hw : HwErr) (s : State) : Host.Outcome State Fault Refusal :=
  .next <|
    if s.still then s
    else
      let u := unit.val
      let s := s.replayUnit u
      match s.entropyNext u with
      | none => s.assignAll
      | some c =>
        let t := ({ s with entropyAt := sset (fun _ => 31) s.entropyAt u (c % 32) } : State).count (Pg.die (u / 4))
          Reg.Die.SLICES [u % 4] 1
        match t.chan c with
        | none => t
        | some x =>
          match t.batchOf x with
          | none => t
          | some b =>
            match t.reedbedHw c ((batchDesc b.desc).region c) hw with
            | some r => r
            | none =>
              let t := t.noteHw ((batchDesc b.desc).region c) hw
              (if x.dec then t.nextPicture c x b else t.consume c x b).assignAll

/-! Frame to patch (R224, R229, R237). -/

/-- The picture in a slot, read from memory. -/
def State.slotPicture (s : State) (a : Nat) (f : OutPicture) (e : Entry) : Picture :=
  let n := if f.depth = 8 then 1 else 2
  let pl := fun (base w h : Nat) =>
    (⟨w, h, fun i j => s.numAt (base + (w * n + 63) / 64 * 64 * j + n * i) n⟩ : Plane)
  let cw := chromaOf f.w
  let ch := chromaOf f.h
  let k := colourOf e.matrix e.range e.codec f.h f.matrix f.full
  ⟨pl a f.w f.h, pl (a + planeSize f.w f.h f.depth) cw ch,
   pl (a + planeSize f.w f.h f.depth + planeSize cw ch f.depth) cw ch, f.depth, k.1, k.2⟩

/-- The frame-to-patch stage for used picture `j`, from picture `p`. -/
def State.toPatches (s : State) (c : Nat) (x : Chan) (b : Batch) (p : Picture) (j : Nat) : State × Bool :=
  let d := batchDesc b.desc
  let q := patchDesc b.pdesc
  let e := sampleEntry x.entry
  let base := (d.pbase + x.s * d.pstride) % 2 ^ 48
  let row := if q.tube then j / 2 else j
  let z := if q.tube then j % 2 else 0
  (List.range q.patches).foldl (fun (a : State × Bool) i =>
    if !a.2 then a
    else
      let r := q.encode (q.patch p i)
      let n := row * q.patches + i
      let w := a.1.patchRegion (chanDie c) c b.pol base d.pstride ((n * q.elems + z * 768) * q.esize) r.1
      if !w.2 ∨ !q.mx then w
      else w.1.patchRegion (chanDie c) c b.pol base d.pstride (q.dataBytes e.npict + n * (q.elems / 32) + z * 24) r.2) (s, true)

/-- Used pictures that picture `k` serves: its own, and where it is the last, those that are missing (R229). -/
def Chan.uses (x : Chan) (k : Nat) : List Nat :=
  let e := sampleEntry x.entry
  (List.range e.npict).filter fun j =>
    let n := e.first + j * e.stride
    n == k || (k + 1 == x.total && x.total ≤ n)

/-- Note concealment in used picture `j` (R228). -/
def Chan.note (x : Chan) (j cus : Nat) : Chan :=
  if cus = 0 then x else { x with cpics := x.cpics + 1, cus := x.cus + cus, firstc := min x.firstc j }

/-- The stage has read the stream's last picture: the rest of the region and the status record are written. -/
def State.lastPicture (s : State) (c : Nat) (x : Chan) (b : Batch) : State :=
  let d := batchDesc b.desc
  let e := sampleEntry x.entry
  let q := patchDesc b.pdesc
  let base := (d.pbase + x.s * d.pstride) % 2 ^ 48
  let full := q.dataBytes e.npict + q.scaleBytes e.npict
  let w := s.patchRegion (chanDie c) c b.pol base d.pstride full (List.replicate (d.pstride - full) 0)
  let w := if w.2 then w.1.patchEnds c d base full else w
  if !w.2 then w.1.failChan c
  else
    let i := x.decoded d
    let short := x.total ≤ e.first + (e.npict - 1) * e.stride
    w.1.closeSample c x b (statusRecord x short false i.grain 0 i.decoded)

/-- Physical Reedbed unit that serves channel `c`, 0 to 19 (R225). -/
def State.reedbedPhys (s : State) (c : Nat) : Nat :=
  5 * chanDie c + (if s.rd (Pg.die (chanDie c)) Reg.Die.SPARE_FOR = chanUnit c then 4 else chanUnit c)

/-- The decode output stream of channel `c` is armed. -/
def State.outArmed (s : State) (c : Nat) : Bool := s.hubCmp.any fun e => e.1 == cmpReedbed c

/-- The unit that serves channel `c` has a stream armed: it has one comparator (R198). -/
def State.unitArmed (s : State) (c : Nat) : Bool :=
  s.hubCmp.any fun e => e.1 < 512 && s.reedbedPhys e.1 == s.reedbedPhys c

/-- The stage has read picture `p`: its slot is free, and after the last picture the sample's other bytes are written. -/
def State.pictureRead (s : State) (c : Nat) (x : Chan) (b : Batch) (p : Pic) : State :=
  let y := { x with pics := x.pics.filter fun r => r.slot != p.slot }
  let t := s.setChan c y
  if p.k + 1 = x.total then (t.lastPicture c y b).assignAll else t

/-- The output turn of picture `p`: the stream is armed over its planes once the unit's comparator is free; then the stage reads
it, writes its patches and disarms it. A picture that is not used needs no stream. -/
def State.runPicture (s : State) (c : Nat) (x : Chan) (b : Batch) (p : Pic) : State :=
  let d := batchDesc b.desc
  let e := sampleEntry x.entry
  let a := d.slotAt c p.slot
  let f := x.picture d p.k
  let n := pictureSize f.w f.h f.depth
  let js := x.uses p.k
  if js.isEmpty then s.pictureRead c x b p
  else if !s.outArmed c then
    let lo := bounding a n 0 0 0 0
    if s.unitArmed c then s else { s with hubCmp := s.hubCmp ++ [(cmpReedbed c, lo.1, lo.2)] }
  else
    match s.hubReadStop seqGrantee a n true with
    | some none => s
    | some (some (code, l)) =>
      ((s.partCheck code l a n).ingestFault (if code = 0x02 then 0x03 else code) (c % 32) l).failChan c
    | none =>
      let pic := s.slotPicture a f e
      let w := js.foldl (fun (t : State × Bool) j => if t.2 then t.1.toPatches c x b pic j else t)
        ((s.acctMem b.pol a n false).ingestTraffic 12 c b.pol false a n, true)
      if !w.2 then w.1.failChan c else (w.1.disarmOut c).pictureRead c (js.foldl (fun x j => x.note j f.cus) x) b p

/-- PICTURE_COMPLETE (R224): the output turn of the channel's oldest picture. -/
def execPictureComplete (ch : ChannelId) (hw : HwErr) (s : State) : Host.Outcome State Fault Refusal :=
  let c := ch.val
  .next <|
    match if s.still then none else s.chan c with
    | none => s
    | some x =>
      match s.batchOf x, x.pics.head? with
      | some b, some p =>
        let a := (batchDesc b.desc).slotAt c p.slot
        if x.failed || x.isOver || s.writesHeld a (batchDesc b.desc).picb then s
        else
          match s.reedbedHw c a hw with
          | some t => t
          | none => (s.noteHw a hw).runPicture c x b p
      | _, _ => s

/-- Samples whose last writes were held back are complete once those are accepted. -/
def State.settleIngest (s : State) : State := ((List.range 512).foldl State.sampleEnds s).assignAll

/-- A probe evaluation of π(p); a position outside the epoch gives a free word (log entry 47). -/
def State.probe (s : State) (p : Nat) : State :=
  let g := Pg.wharf
  let n := s.rd g Reg.Wharf.PQ_NM1 + 1
  let r := if p < n then (shuffle (s.runKey 0) (s.rd g Reg.Wharf.PQ_EPOCH) n p, s) else (s.drawWord.1.toNat, s.drawWord.2)
  (r.2.wr g Reg.Wharf.PQ_OUT [] r.1).wr g Reg.Wharf.PQ_VALID [] 1

/-- A probe whose evaluation a parity error stops (R243): PQ_OUT holds no result of it. -/
def State.probeStopped (s : State) : State := (s.wr Pg.wharf Reg.Wharf.PQ_VALID [] 0).ingestFault 0x49 0 0

/-- PQ_POS (R242, R243). -/
def execPqPos (p : Word) (s : State) (hw : HwErr := .none) : Host.Outcome State Fault Refusal :=
  .next (s.written fun s => if hw = .unit then s.probeStopped else s.probe p.toNat)

end Sys2Proof.Machine
end

