-- ==== Sys2Proof/Machine/Hold.lean ====
section
/-! DEFINITION. Module holds: refresh, their start and end, copy-on-write (R199, R263 to R267, R371). -/

namespace Sys2Proof.Machine

/-- REFRESH_REQUEST (R199): nothing before the root PLL locks, and no hold during a freeze (R463). -/
def execRefreshRequest (s : State) : Host.Outcome State Fault Refusal :=
  .next (if s.frozen || !s.wheel.turns then s else s.requestHold .refresh)

/-- The cause of a hold that begins has nothing left to wait for: the retry is over, no write is stalled, no move runs. -/
def State.holdIdle (s : State) (c : HoldCause) : Bool :=
  match c with
  | .refresh => false
  | .retry => !s.retrying
  | .cow => s.stalled.isEmpty
  | .substitution => !(s.moves.any (·.held))

/-- The hold of cause `c` comes into force (R264). -/
def State.holdBegins (s : State) (c : HoldCause) : State :=
  let h : Hold := { s.hold with now := some c, sclk := 0, done := s.holdIdle c }
  let t := ((({ s with hold := h } : State).wr Pg.holds Reg.Holds.ACTIVE [] 1).wr Pg.holds Reg.Holds.CAUSE [] c.code)
  t.add2 Pg.holds Reg.Holds.COUNT_LO Reg.Holds.COUNT_HI [c.code] 1

/-- HOLD_START (R264): the hold within its lead comes into force. -/
def execHoldStart (s : State) : Host.Outcome State Fault Refusal :=
  .next <|
    match s.hold.lead with
    | none => s
    | some c =>
      if s.frozen then s
      else (({ s with hold := { s.hold with lead := none } } : State).wr Pg.holds Reg.Holds.LEAD [] 0).holdBegins c

/-- REFRESH_COMPLETE (R264). -/
def execRefreshComplete (s : State) : Host.Outcome State Fault Refusal :=
  .next (if s.frozen || s.hold.now != some .refresh then s else { s with hold := { s.hold with done := true } })

/-- The waiting hold that starts first (R265). -/
def State.nextHold (s : State) : Option HoldCause :=
  [HoldCause.refresh, .retry, .cow, .substitution].find? s.hold.waiting.contains

/-- A waiting hold starts on the edge where the last one ended. -/
def State.holdFollows (s : State) (c : HoldCause) : State :=
  let t : State := { s with hold := { s.hold with waiting := s.hold.waiting.filter (· != c) } }
  (t.setWord Pg.holds 0x100 (s.word Pg.holds 0x100 &&& ~~~(BitVec.ofNat 32 (2 ^ (4 + c.code))))).holdBegins c

/-- HOLD_END (R71, R264, R265): the next hold starts, or every unit resumes, the completions held back take effect, and what
waited at the ports is taken. -/
def execHoldEnd (s : State) : Host.Outcome State Fault Refusal :=
  .next <|
    if s.frozen || s.hold.now.isNone || !s.hold.done then s
    else
      let h : Hold := { s.hold with now := none, sclk := 0, done := false }
      let t := (({ s with hold := h } : State).wr Pg.holds Reg.Holds.ACTIVE [] 0).wr Pg.holds Reg.Holds.LAST_LEN []
        s.hold.sclk
      match t.nextHold with
      | some c => t.holdFollows c
      | none => t.heldComplete.drainRxAll.drainIngest

/-- COW_COPY_DONE (R371): the hold's granules are copied and the stalled writes accepted. -/
def execCowCopyDone (s : State) (hw : HwErr := .none) : Host.Outcome State Fault Refusal :=
  .next (if s.frozen || s.hold.now != some .cow || s.stalled.isEmpty then s else (s.cowDone hw).collsTryEnd.settleIngest.sluiceAccepted)

/-- TEMPERATURE_MODE_CHANGE (R199, R202): HOT shows in every die page whether any device asks. -/
def execTemperatureModeChange (dev : DevId) (hot : Bool) (s : State) : Host.Outcome State Fault Refusal :=
  let ds := s.hotDevs.filter (· != dev.val) ++ (if hot then [dev.val] else [])
  let t : State := { s with hotDevs := ds }
  .next ((List.range 4).foldl (fun t d => t.wr (Pg.die d) Reg.Die.HOT [] (bit !ds.isEmpty)) t)

end Sys2Proof.Machine
end

