-- ==== Sys2Proof/Machine/Host.lean ====
section
/-! DEFINITION. The host's memory accesses and the resets of its port (R414 to R426, R463, R464). -/

namespace Sys2Proof.Machine

/-! The readout window (R464). -/

/-- Bytes of the core arrays: tile registers and accumulator sets; the weight queue's layout is open. -/
def State.readCore (s : State) (a : Nat) : Byte :=
  let o := bits a 19 0
  let w := (s.word32 (a / 4)).extractLsb' (8 * (a % 4)) 8
  match bits a 21 20 with
  | 0 => if o < 0x40000 then w else 0
  | 1 => if o < 0x8000 then w else 0
  | 2 => if o < 0x10000 then Config.freeByte (2 ^ 64 + a) else 0
  | _ => 0

/-- Bytes of the Silt store (R163): accumulators and counts at 12e, anchors from 0xC0000. -/
def State.readSilt (s : State) (cl o : Nat) : Byte :=
  let x := sget (fun _ => Silt.closed) s.silt cl
  if o < 0xC0000 then
    let e := o / 12
    let acc := BitVec.ofInt 72 (sget (fun _ => 0) x.acc e)
    if o % 12 < 9 then acc.extractLsb' (8 * (o % 12)) 8
    else BitVec.ofNat 8 (sget (fun _ => 0) x.cnt e % 2 ^ 17 / 256 ^ (o % 12 - 9))
  else if o < 0xC0100 then BitVec.ofNat 8 (sget (fun _ => 0) x.anchor (o - 0xC0000))
  else 0

/-- A byte of the readout space. -/
def State.readout (s : State) (a : Nat) : Byte :=
  let cl := bits a 32 31 * 8 + bits a 30 28
  match a / 2 ^ 44 with
  | 0 => if bits a 43 41 = 0 ∧ bits a 35 0 < 33 * 2 ^ 30 then s.peek a else 0
  | 1 => if bits a 43 35 = 0 ∧ bits a 31 25 < 66 then s.peek a else 0
  | 2 => if bits a 43 35 = 0 ∧ bits a 31 24 = 0 then s.peek a else 0
  | 3 => if bits a 43 33 = 0 ∧ bits a 27 24 < 9 ∧ bits a 23 18 < 34 then s.peek a else 0
  | 4 => if bits a 43 33 = 0 ∧ bits a 27 24 < 9 ∧ bits a 23 22 = 0 then s.readCore a else 0
  | 5 =>
    if bits a 43 33 ≠ 0 ∨ bits a 27 22 ≠ 0 then 0
    else if bits a 21 20 = 0 then (if bits a 19 0 < 0x10000 then s.peek a else 0)
    else if bits a 21 20 = 1 then s.readSilt cl (bits a 19 0) else 0
  | 6 => if bits a 43 18 = 0 then s.peek a else 0
  | _ => 0

/-! The HDM window (R417 to R419). -/

/-- The shutdown self-test runs (R404). -/
def State.selfTesting (s : State) : Bool := s.rd Pg.selfTest Reg.SelfTest.STSTATE == 1

/-- The host's accesses reach the readout window. -/
def State.readingOut (s : State) : Bool := s.frozen && s.rd Pg.slack Reg.Slack.RO_EN == 1

/-- Module address of a line of the HDM range, and whether its segment is enabled. -/
def State.hdmAddr (s : State) (off : Nat) : Nat × Bool :=
  let g := Pg.cxl
  let i := off / 2 ^ 30
  let a := s.rd g Reg.Cxl.SBASE [i] * 2 ^ 30 + off % 2 ^ 30
  (a / 64 * 64, off < s.hdm * 2 ^ 30 && s.rd g Reg.Cxl.SEG_EN [i] == 1)

/-- A line the host reaches: in an enabled segment, populated. -/
def State.hdmOk (s : State) (off : Nat) : Bool := (s.hdmAddr off).2 && (s.phys (s.hdmAddr off).1).isSome

/-- A host access waits: the link is down, a hold or a freeze is in force. -/
def State.hostWaits (s : State) : Bool := !s.cxlUp || (s.still && !s.readingOut)

/-- Answer a host read. -/
def State.answer (s : State) (bs : List Byte) (poison : Bool) : State := { s with outLine := bs, outPoison := poison }

/-- Bytes of the host to or from memory, charged to the memory's polder (R431). -/
def State.acctHost (s : State) (a n : Nat) (write : Bool) : State := s.acct (s.polderOfAddr a) (14 + bit write) n

/-- A host read of a line of the HDM window. -/
def State.hdmRead (s : State) (off : Nat) (hw : HwErr) : State :=
  let a := (s.hdmAddr off).1
  if !s.hdmOk off then (s.hostError 0 a false).answer [] true
  else
    match s.loneError a 5 15 hw with
    | some t => (t.hostError 2 a false).answer [] true
    | none =>
      let t := (s.noteHw a hw).asyncTraffic false a 64
      let line := (List.range 64).map fun i => s.hostByte (a + i)
      let k := if isModMem a then s.verify (blockOf a) else .ok
      if k != .ok then ((t.recordCheck (blockOf a) k).hostError 1 a false).answer [] true
      else (t.acctHost a 64 false).answer line false

/-- CXL_MEM_READ (R418, R419, R464): a host read of the line that holds offset `off`. -/
def execCxlMemRead (off : Nat) (hw : HwErr) (s : State) : Host.Outcome State Fault Refusal :=
  .next <|
    if s.hostWaits then s
    else if s.readingOut then
      let a := s.rd Pg.slack Reg.Slack.RO_BASE * 2 ^ 30 + off / 64 * 64
      s.answer ((List.range 64).map fun i => s.readout (a + i)) false
    else if s.selfTesting then s.answer [] true
    else s.hdmRead off hw

/-- Bytes of a host write with their enables. -/
def hostBytes (be : BitVec 64) (data : BitVec 512) : List (Option Byte) :=
  (List.range 64).map fun i => if be.getLsbD i then some (data.extractLsb' (8 * i) 8) else none

/-- CXL_MEM_WRITE (R419, R421, R487): in replay mode a write into a live region is discarded. -/
def execCxlMemWrite (off : Nat) (be : BitVec 64) (data : BitVec 512) (s : State) : Host.Outcome State Fault Refusal :=
  .next <|
    if s.hostWaits || s.readingOut || s.selfTesting then s
    else
      let a := (s.hdmAddr off).1
      if !s.hdmOk off then s.hostError 0 a true
      else if (s.livePolders a).any fun p => s.towMode p == 3 then s.count Pg.trace Reg.Trace.TP_IGNORED [] 1
      else
        let bs := hostBytes be data
        (s.acctHost a (bs.filter Option.isSome).length true).hostLine a bs

/-- GATHER_FLUSH (R421): a buffer that has seen no write for 2 µs is written to memory. -/
def execGatherFlush (buf : GatherId) (s : State) : Host.Outcome State Fault Refusal :=
  .next <|
    if s.still then s
    else
      match s.gather.find? fun b => b.buf == buf.val with
      | some b => s.flushBuf b
      | none => s

/-! Resets of the port (R414, R417, R422). -/

/-- CXL_RESET (R422): every polder's step is abandoned, RUN and QEN are cleared everywhere, every program page is idle. -/
def execCxlReset (s : State) : Host.Outcome State Fault Refusal :=
  .next <|
    if s.frozen then s
    else
      let ps := List.range 4
      let t := ps.foldl (fun t p => if t.runState p = 3 then t.abandonStep p else t) s
      let t := ((List.range 32).map WaitWho.workq ++ (List.range 8).map WaitWho.sluice).foldl State.disableQueue t
      let t := ps.foldl (fun t p => (t.wrSt (Pg.program p) Reg.Program.RUN [] 0).wr (Pg.program p) Reg.Program.STATE [] 0) t
      { t with loads := [], imaged := [] }

/-- CONVENTIONAL_RESET (R417, R422): the port is reset, HOST_EN cleared, the host's lines dropped, HDM_SEGS sampled. -/
def execConventionalReset (s : State) : Host.Outcome State Fault Refusal :=
  .next <|
    let g := Pg.cxl
    let t := ((s.wr g Reg.Cxl.RATE [] 0).wr g Reg.Cxl.FLIT256 [] 0).wr g Reg.Cxl.WIDTH [] 0
    let t := t.putLive Pg.landings (Reg.Landings.HOST_EN.off []) Reg.Landings.HOST_EN.mask 0
    let ls := t.hostLines.map fun e => (e.1, { e.2 with based := false, cached := false })
    { t with cxlUp := false, hdm := s.rd g Reg.Cxl.HDM_SEGS, hostLines := ls.filter fun e => e.2 != HostLines.reset }

/-- A mode the link trains to: 68-byte flits go no faster than 32 GT/s. -/
def linkOk (m : LinkMode) : Bool :=
  1 ≤ m.rate.toNat && m.rate.toNat ≤ 4 && (m.flit256 || m.rate.toNat ≤ 3) && [4, 8, 16].contains m.width.toNat

/-- CXL_LINK_RETURN (R414, R422): the link trains up. -/
def execCxlLinkReturn (link : LinkMode) (s : State) : Host.Outcome State Fault Refusal :=
  .next <|
    if s.cxlUp || s.recovery || !s.power.rails || !linkOk link then s
    else
      let g := Pg.cxl
      let t := ((s.wr g Reg.Cxl.RATE [] link.rate.toNat).wr g Reg.Cxl.FLIT256 [] (bit link.flit256)).wr g Reg.Cxl.WIDTH []
        link.width.toNat
      { t with cxlUp := true }

end Sys2Proof.Machine
end

