-- ==== Sys2Proof/Machine/Reliab.lean ====
section
/-! DEFINITION. Soundings, wear, shadows, draining, admission and the shutdown self-test (R386 to R413). -/

namespace Sys2Proof.Machine

/-! Where soundings run (R395). -/

/-- The die stands in a drained polder. -/
def State.dieDrained (s : State) (d : Nat) : Bool := s.rd Pg.polders Reg.Polders.PSTATE [s.polderOfDie d] == 2

/-- Physical Reedbed unit `u` of die `d` serves a logical unit (R225). -/
def State.reedbedServes (s : State) (d u : Nat) : Bool :=
  let f := s.rd (Pg.die d) Reg.Die.SPARE_FOR
  if u = 4 then f < 4 else f != u

/-- A unit that soundings may examine: it serves no program, or its polder is drained. -/
def State.mayAudition (s : State) : SoundUnit → Bool
  | .core c ph => s.dieDrained (c.val / 8) || !(List.range 8).any fun k => s.physCore (8 * c.val + k) == ph.val
  | .reedbed d u => s.dieDrained d.val || !s.reedbedServes d.val u.val
  | .sstSpare d sr sp =>
    let g := Pg.die d.val
    let f := if sp.val = 0 then (Reg.Die.SPARE_A_FOR, Reg.Die.SHADOW_A) else (Reg.Die.SPARE_B_FOR, Reg.Die.SHADOW_B)
    s.dieDrained d.val || (s.rd g f.1 [sr.val] == 0x7F && s.rd g f.2 [sr.val] == 0x7F)
  | .poolSpare c sp =>
    let f := if sp.val = 0 then Reg.Core.SPARE_A_FOR else Reg.Core.SPARE_B_FOR
    s.dieDrained (c.val / 64) || s.rd (Pg.core c.val) f == 0x3F
  | .plain d _ => s.dieDrained d.val
  | .lane p => s.rd (Pg.ferry p.val) Reg.Ferry.SPARE_FOR == 0xF

/-! Wear (R396, R397). -/

/-- The sequencer raises VTRIM on a failed cycle, up to VMAX. -/
def State.byVoltage (s : State) : Bool :=
  s.rd Pg.reliab Reg.Reliab.POLICY == 1 && s.rd Pg.reliab Reg.Reliab.REMEDY == 0

/-- A core's wear state changes, with its event. -/
def State.setWear (s : State) (cl ph st cause : Nat) : State :=
  (s.wr (Pg.clu cl) Reg.Clu.WSTATE [ph] st).wearEvent (cl / 8) (cl % 8) 0 ph st cause

/-- What a failed cycle does to a core. -/
def State.coreFailed (s : State) (cl ph cause : Nat) : State :=
  let g := Pg.clu cl
  let t := (s.wr g Reg.Clu.SFAILS [ph] (min 15 (s.rd g Reg.Clu.SFAILS [ph] + 1))).wr g Reg.Clu.SPASS [ph] 0
  match s.wstate cl ph with
  | 0 => t.suspect cl ph cause
  | 1 =>
    if t.byVoltage then
      if t.rd g Reg.Clu.VTRIM [ph] < t.rd Pg.reliab Reg.Reliab.VMAX then t.raiseTrim cl ph else t.setWear cl ph 2 cause
    else if t.rd Pg.reliab Reg.Reliab.FAIL_TH ≤ t.rd g Reg.Clu.SFAILS [ph] then t.setWear cl ph 2 cause else t
  | _ => t

/-- What a passed cycle does to a core; `adm` where it is an admission sounding, which returns a FAILED core to OK. -/
def State.corePassed (s : State) (cl ph cause : Nat) (adm : Bool) : State :=
  let g := Pg.clu cl
  let t := (s.wr g Reg.Clu.SFAILS [ph] 0).wr g Reg.Clu.SPASS [ph] (min 15 (s.rd g Reg.Clu.SPASS [ph] + 1))
  let clear := fun (t : State) => t.setWord g (0x1C0 + 4 * ph) 0
  match s.wstate cl ph with
  | 1 =>
    if t.rd Pg.reliab Reg.Reliab.PASS_CLR ≤ t.rd g Reg.Clu.SPASS [ph]
        ∧ t.rd Pg.reliab Reg.Reliab.AGE_TH ≤ t.rd g Reg.Clu.AGE [ph] then
      clear (t.setWear cl ph 0 cause)
    else t
  | 2 => if adm then t.setWear cl ph 0 cause else t
  | _ => t

/-- A Reedbed unit's wear state changes, with its event. -/
def State.setReedbedWear (s : State) (d u st cause : Nat) : State :=
  (s.wr (Pg.die d) Reg.Die.RB_WSTATE [u] st).wearEvent d 0 1 u st cause

/-- What a sounding does to a Reedbed unit: it has no VTRIM and no ageing monitor, so that FAIL_TH and PASS_CLR alone
count. -/
def State.reedbedSounded (s : State) (d u cause : Nat) (passed adm : Bool) : State :=
  let g := Pg.die d
  let k := 5 * d + u
  let st := s.rd g Reg.Die.RB_WSTATE [u]
  let n := if passed then 0 else min 15 (s.rd g Reg.Die.RB_SFAILS [u] + 1)
  let m := if passed then min 15 (sget (fun _ => 0) s.rbPass k + 1) else 0
  let t := ({ s with rbPass := sset (fun _ => 0) s.rbPass k m } : State).wr g Reg.Die.RB_SFAILS [u] n
  if passed then
    if (st = 1 ∧ s.rd Pg.reliab Reg.Reliab.PASS_CLR ≤ m) ∨ (st = 2 ∧ adm) then t.setReedbedWear d u 0 cause else t
  else if st = 0 then t.setReedbedWear d u 1 cause
  else if st = 1 ∧ s.rd Pg.reliab Reg.Reliab.FAIL_TH ≤ n then t.setReedbedWear d u 2 cause
  else t

/-- Key of a spare in `badSpares`. -/
def State.spareKey (s : State) : SoundUnit → Option (Nat × Nat × Nat)
  | .sstSpare d sr sp => some (1, 2 * d.val + sr.val, sp.val)
  | .poolSpare c sp => some (0, 9 * (c.val / 8) + s.physCore c.val, sp.val)
  | .lane p => some (2, p.val, 0)
  | _ => none

/-- A spare bank or lane is marked FAILED, or no longer; banks record an event. -/
def State.markSpare (s : State) (u : SoundUnit) (bad : Bool) (cause : Nat) : State :=
  match s.spareKey u with
  | none => s
  | some k =>
    if (bad == s.badSpares.contains k) then s
    else
      let t : State := { s with badSpares := if bad then k :: s.badSpares else s.badSpares.filter (· != k) }
      let st := if bad then 2 else 0
      match u with
      | .sstSpare d _ sp => t.wearEvent d.val 0 2 (64 + sp.val) st cause
      | .poolSpare c sp => t.wearEvent (c.val / 64) (c.val / 8 % 8) 3 (32 + sp.val) st cause
      | _ => t

/-- The outcome of a sounding of a unit. -/
def State.outcome (s : State) (u : SoundUnit) (passed adm : Bool) : State :=
  let cause := if adm then 5 else if passed then 4 else 3
  match u with
  | .core c ph => if passed then s.corePassed c.val ph.val cause adm else s.coreFailed c.val ph.val cause
  | .reedbed d x => s.reedbedSounded d.val x.val cause passed adm
  | u => if passed && !adm then s else s.markSpare u (!passed) cause

/-- Note when a core was sounded, and that it has passed since it last carried a name (R394). -/
def State.noteSounded (s : State) (u : SoundUnit) (passed : Bool) : State :=
  match u with
  | .core c ph =>
    let k := 9 * c.val + ph.val
    let free := !(List.range 8).any fun i => s.physCore (8 * c.val + i) == ph.val
    let last := s.sounded.foldl (fun m e => max m e.2) 0
    { s with
      sounded := sset (fun _ => 0) s.sounded k (last + 1)
      soundOk := if passed && free && !s.soundOk.contains k then k :: s.soundOk else s.soundOk }
  | _ => s

/-- Count a sounding. -/
def State.countSounding (s : State) (passed : Bool) : State :=
  let t := s.count Pg.reliab Reg.Reliab.SCYCLES [] 1
  if passed then t else t.count Pg.reliab Reg.Reliab.SFAILED [] 1

/-- SOUNDING_CYCLE (R395, R396): a cycle of an idle unit has run. -/
def execSoundingCycle (unit : SoundUnit) (passed : Bool) (s : State) : Host.Outcome State Fault Refusal :=
  .next <|
    if s.still || !s.mayAudition unit then s
    else ((s.countSounding passed).noteSounded unit passed).outcome unit passed false

/-- AGE_SAMPLE (R396). -/
def execAgeSample (clu : ClusterId) (phys : PhysCore) (age : Byte) (s : State) : Host.Outcome State Fault Refusal :=
  .next <|
    if s.frozen then s
    else
      let t := s.wr (Pg.clu clu.val) Reg.Clu.AGE [phys.val] age.toNat
      if s.wstate clu.val phys.val = 0 ∧ age.toNat < s.rd Pg.reliab Reg.Reliab.AGE_TH then t.suspect clu.val phys.val 2 else t

/-! Shadows (R389). -/

/-- Readout address of row `r` of a physical bank. -/
def bankRow (d sr pb r : Nat) : Nat := 2 ^ 44 + d * 2 ^ 33 + sr * 2 ^ 32 + pb * 2 ^ 25 + r * 2 ^ 6

/-- Copy the next row of a bank into spare `sp`; the last one sets SHDONE. -/
def State.copyRow (s : State) (d sr sp bank : Nat) : State :=
  let k := 4 * d + 2 * sr + sp
  let r := sget (fun _ => 0) s.shadowRow k
  let a := bankRow d sr (s.sstBank d sr bank) r
  let b := bankRow d sr (64 + sp) r
  let t := s.poke ((List.range 64).map fun i => (b + i, s.peek (a + i)))
  let t : State := { t with shadowRow := sset (fun _ => 0) t.shadowRow k (r + 1) }
  if r + 1 = 524288 then t.wr (Pg.die d) (if sp = 0 then Reg.Die.SHDONE_A else Reg.Die.SHDONE_B) [sr] 1 else t

/-- SHADOW_COPY (R389): the copier copies a row in an NCLK in which no request uses the bank. -/
def execShadowCopy (die : DieId) (sram : SramId) (spare : SpareId) (hw : HwErr) (s : State) :
    Host.Outcome State Fault Refusal :=
  let d := die.val
  let sr := sram.val
  let a := spare.val = 0
  let g := Pg.die d
  let bank := s.rd g (if a then Reg.Die.SHADOW_A else Reg.Die.SHADOW_B) [sr]
  let done := s.rd g (if a then Reg.Die.SHDONE_A else Reg.Die.SHDONE_B) [sr]
  let err := if a then Reg.Die.SHERR_A else Reg.Die.SHERR_B
  .next <|
    if s.still || 64 ≤ bank || done == 1 || s.rd g err [sr] == 1 then s
    else
      match hw with
      | .sst _ _ => s.wr g err [sr] 1
      | _ => s.copyRow d sr spare.val bank

/-! Draining and admission (R401 to R403). -/

/-- DRAIN_POLDER (R401). -/
def State.drainPolder (s : State) (p : Nat) : State :=
  if s.npolders ≤ p ∨ s.rd Pg.polders Reg.Polders.PSTATE [p] ≠ 0 then s
  else (s.wr Pg.polders Reg.Polders.PSTATE [p] 1).tryDrain p false

def execDrainPolder (pol : PolderId) (s : State) : Host.Outcome State Fault Refusal :=
  .next (s.written fun s => s.drainPolder pol.val)

/-- Physical units of a die: cores, Reedbed units, spare banks. -/
def unitsOfDie (d : DieId) : List SoundUnit :=
  let cls := (List.range 32).filterMap fun c => if c / 8 = d.val then some (Fin.ofNat 32 c) else none
  cls.flatMap (fun c => (List.range 9).map fun p => SoundUnit.core c (Fin.ofNat 9 p))
    ++ (List.range 5).map (fun u => SoundUnit.reedbed d (Fin.ofNat 5 u))
    ++ (List.range 4).map (fun i => SoundUnit.sstSpare d (Fin.ofNat 2 (i / 2)) (Fin.ofNat 2 i))
    ++ (List.range 128).map (fun i => SoundUnit.poolSpare (Fin.ofNat 256 (64 * d.val + i / 2)) (Fin.ofNat 2 i))

/-- The die of a unit. -/
def unitDie : SoundUnit → Nat
  | .core c _ => c.val / 8
  | .reedbed d _ => d.val
  | .sstSpare d _ _ => d.val
  | .poolSpare c _ => c.val / 64
  | .plain d _ => d.val
  | .lane _ => 4

/-- Every cluster of the die has eight OK cores bound. -/
def State.coresOk (s : State) (d : Nat) : Bool :=
  (List.range 64).all fun c => s.wstate (8 * d + c / 8) (s.physCore (64 * d + c)) == 0

/-- The die has four OK Reedbed units mapped. -/
def State.reedbedsOk (s : State) (d : Nat) : Bool :=
  (List.range 4).all fun u =>
    s.rd (Pg.die d) Reg.Die.RB_WSTATE [if s.rd (Pg.die d) Reg.Die.SPARE_FOR = u then 4 else u] == 0

/-- No bank that a map of the die names is FAILED. -/
def State.banksOk (s : State) (d : Nat) : Bool :=
  s.badSpares.all fun b =>
    match b.1 with
    | 0 => (List.range 8).all fun i =>
        let c := 8 * (b.2.1 / 9) + i
        c / 64 != d || s.physCore c != b.2.1 % 9
          || s.rd (Pg.core c) (if b.2.2 = 0 then Reg.Core.SPARE_A_FOR else Reg.Core.SPARE_B_FOR) == 0x3F
    | 1 => b.2.1 / 2 != d
        || s.rd (Pg.die d) (if b.2.2 = 0 then Reg.Die.SPARE_A_FOR else Reg.Die.SPARE_B_FOR) [b.2.1 % 2] == 0x7F
    | _ => true

/-- ARES of an admission whose plain units' failures are `fails` (R403, R413). -/
def State.admitResult (s : State) (ds : List Nat) (fails : List SoundUnit) : Nat :=
  if !ds.all s.coresOk then 1
  else if !ds.all s.reedbedsOk then 2
  else if fails.any (fun u => match u with
    | .plain d _ => ds.contains d.val
    | _ => false) then 3
  else if !ds.all s.banksOk then 4
  else if ds.any s.heldDies.contains then 5
  else 0

/-- BODY_DIGEST of a firmware image. -/
def imageDigest (img : List Byte) : List Byte := (img.drop 0x60).take 32

/-- SVN of a firmware image. -/
def imageSvn (img : List Byte) : Nat := leAt img 8 4

/-- Banks by number, and the one that booted. -/
def Flash.bank (f : Flash) (n : Nat) : Bank := if n = 0 then f.a else f.b
def State.bootBank (s : State) : Nat := s.rd Pg.security Reg.Security.BOOT_BANK

/-- A drained polder's dies take die firmware that an update has written to flash since the boot (R441). -/
def State.replaceFirmware (s : State) (ds : List Nat) : State :=
  let img := (s.flash.bank (1 - s.bootBank)).die
  if !s.running.fresh then s
  else
    let pick := fun (e : List Byte × Nat) => if ds.contains e.2 then imageDigest img else e.1
    let t : State := { s with
      running := { s.running with dies := s.running.dies.zipIdx.map pick }
      heldDies := s.heldDies.filter fun d => !ds.contains d }
    let ok := ds.foldl (fun m d => m ||| 2 ^ d) (s.rd Pg.security Reg.Security.DIEFW_OK)
    (t.wr Pg.security Reg.Security.DIEFW_OK [] ok).wr Pg.security Reg.Security.RUN_SVN_DIE [] (imageSvn img)

/-- Admission of a drained polder (R402): the soundings of every unit, then the conditions of R403. -/
def State.readmit (s : State) (p : Nat) (fails : List SoundUnit) : State :=
  let g := Pg.polders
  if s.npolders ≤ p then s
  else if s.rd g Reg.Polders.PSTATE [p] ≠ 2 then s.wr g Reg.Polders.ARES [p] 6
  else
    let ds := s.diesOf p
    let us := ds.flatMap fun d => unitsOfDie (Fin.ofNat 4 d)
    let t := us.foldl (fun t u => (t.noteSounded u (!fails.contains u)).outcome u (!fails.contains u) true) (s.replaceFirmware ds)
    let e := t.admitResult ds fails
    let t := t.wr g Reg.Polders.ARES [p] e
    if e = 0 then ((t.wr g Reg.Polders.PSTATE [p] 0).wr (Pg.program p) Reg.Program.STATE [] 0) else t

/-- ADMIT (R402). -/
def execAdmission (pol : PolderId) (fails : List SoundUnit) (s : State) : Host.Outcome State Fault Refusal :=
  .next (s.written fun s => s.readmit pol.val fails)

/-! The shutdown self-test (R404 to R409). -/

/-- Lifecycle state in force. -/
def State.lc (s : State) : Nat := s.rd Pg.security Reg.Security.LCSTATE

/-- Wear states and spares marked FAILED, as the repair table keeps them (R396). -/
def State.saveWear (s : State) : State :=
  let cores := (List.range 288).map fun k => (k, s.wstate (k / 9) (k % 9))
  let beds := (List.range 20).map fun k => (1000 + k, s.rd (Pg.die (k / 5)) Reg.Die.RB_WSTATE [k % 5])
  { s with flash := { s.flash with wear := ssetMany (fun _ => 0) [] (cores ++ beds), bad := s.badSpares } }

/-- The repair table marks a unit FAILED (R407). -/
def Flash.fail (f : Flash) (phys : Nat → Nat) (u : SoundUnit) : Flash :=
  match u with
  | .core c ph => { f with wear := sset (fun _ => 0) f.wear (9 * c.val + ph.val) 2 }
  | .reedbed d x => { f with wear := sset (fun _ => 0) f.wear (1000 + 5 * d.val + x.val) 2 }
  | .sstSpare d sr sp => { f with bad := (1, 2 * d.val + sr.val, sp.val) :: f.bad }
  | .poolSpare c sp => { f with bad := (0, 9 * (c.val / 8) + phys c.val, sp.val) :: f.bad }
  | .lane p => { f with bad := (2, p.val, 0) :: f.bad }
  | u => { f with failed := u :: f.failed }

/-- FF_DIE, FF_CLU, FF_KIND and FF_NUM of a failing unit. Plain units 0 to 31 are the layout engines of clusters 0 to 7,
four each, 32 to 39 their hash engines, 40 the Swing, 41 to 44 the Sluice units, others hub units (log entry 36). -/
def failWord : SoundUnit → Nat
  | .core c ph => c.val / 8 + c.val % 8 * 8 + ph.val * 2 ^ 10
  | .poolSpare c sp => c.val / 64 + c.val / 8 % 8 * 8 + 1 * 2 ^ 6 + (32 + sp.val) * 2 ^ 10
  | .sstSpare d _ sp => d.val + 2 * 2 ^ 6 + (64 + sp.val) * 2 ^ 10
  | .reedbed d u => d.val + 3 * 2 ^ 6 + u.val * 2 ^ 10
  | .plain d n =>
    if n < 32 then d.val + n / 4 * 8 + 4 * 2 ^ 6 + n % 4 * 2 ^ 10
    else if n < 40 then d.val + (n - 32) * 8 + 4 * 2 ^ 6 + 4 * 2 ^ 10
    else if n = 40 then d.val + 4 * 2 ^ 6 + 5 * 2 ^ 10
    else if n < 45 then d.val + 5 * 2 ^ 6 + (n - 41) * 2 ^ 10
    else 4 + 7 * 2 ^ 6 + (n - 45) % 128 * 2 ^ 10
  | .lane p => 4 + 7 * 2 ^ 6 + p.val * 2 ^ 10

/-- Pages of an LPDDR5X device that no page-map entry names. -/
def State.freePages (s : State) (dev : Nat) : Nat :=
  0x41EF - ((s.pmapEff.filter fun e => e.2.getLsbD 0 && bits e.2.toNat 5 1 == dev && bits e.2.toNat 20 6 ≤ 0x41EE).map
    fun e => bits e.2.toNat 20 6).eraseDups.length

/-- The self-test's log record (R407). -/
def State.testRecord (s : State) (status : Nat) (r : TestReport) (units nfailed : Nat) : List Byte :=
  let seq := s.rd Pg.selfTest Reg.SelfTest.LOGSEQ + 1
  let nosave := (List.range 4).any fun d => ((List.range 8).map fun i => s.freePages (8 * d + i)).sum < 16
  let nolp := (List.range 32).any fun d => s.freePages d == 0
  padTo 64 (natBytes 4 0x5E1F7E57 ++ natBytes 4 seq ++ natBytes 1 status ++ natBytes 1 s.lc
    ++ natBytes 2 (bit nosave + 2 * bit r.pprFull + 4 * bit nolp) ++ natBytes 4 r.duration ++ natBytes 4 units
    ++ natBytes 4 nfailed ++ natBytes 4 (((r.fails.head?.map failWord)).getD 0) ++ natBytes 2 r.rows
    ++ natBytes 2 r.marked ++ natBytes 4 ((seq - 1) % 64))

/-- The self-test ends with its record: STSTATE leaves 1, with the page's interrupt. -/
def State.endTest (s : State) (st : Nat) (rec_ : List Byte) : State :=
  let g := Pg.selfTest
  let t : State := { s with selfTest := none, flash := { s.flash with log := s.flash.log ++ [.test rec_], ons := 0 } }
  ((t.wr g Reg.SelfTest.LOGSEQ [] (t.rd g Reg.SelfTest.LOGSEQ + 1)).wr g Reg.SelfTest.STSTATE [] st).setEvent g

/-- The test has run to its end (R390, R407). -/
def State.testDone (s : State) (j : SelfTestJob) : State :=
  let r := j.rep
  let t := s.saveWear
  let t : State := { t with flash := r.fails.foldl (fun f u => f.fail s.physCore u) t.flash, cel := [] }
  t.endTest (if r.fails.isEmpty && !r.pprFull then 2 else 3)
    (s.testRecord (bit (!r.fails.isEmpty || r.pprFull)) r r.tested r.fails.length)

/-- Every polder is drained or idle (R404). -/
def State.allIdle (s : State) : Bool :=
  (List.range s.npolders).all fun p =>
    s.rd Pg.polders Reg.Polders.PSTATE [p] == 2 || s.runState p == 0 || s.runState p == 2

/-- SHUTDOWN (R404, R409): the test begins; in DECOMMISSIONED it ends at once. -/
def State.shutdown (s : State) (rep : TestReport) : State :=
  let g := Pg.selfTest
  if s.selfTesting then s
  else if !s.allIdle then s.wr g Reg.SelfTest.STSTATE [] 5
  else if s.lc = 4 then s
  else { ((s.wr g Reg.SelfTest.STSTATE [] 1).wr g Reg.SelfTest.REGION [] 0) with selfTest := some ⟨rep, 0⟩ }

def execShutdown (rep : TestReport) (s : State) : Host.Outcome State Fault Refusal :=
  .next (s.written fun s => s.shutdown rep)

/-- CANCEL (R406, R407): what the test had found by then is open. -/
def State.cancelTest (s : State) : State :=
  match s.selfTest with
  | none => s
  | some j =>
    let free := fun i => Config.freeByte (s.fresh + i)
    let t : State := { s with fresh := s.fresh + 16 }
    let r := t.testRecord 2 ⟨[], 0, 0, 0, (free 15).getLsbD 0, j.sclk / 1024⟩ 0 0
    let found := (List.range 10).map free ++ [free 10 &&& 1, 0] ++ (List.range 4).map fun i => free (11 + i)
    t.endTest 4 (r.take 0x10 ++ found ++ r.drop 0x20)

def execCancel (s : State) : Host.Outcome State Fault Refusal := .next (s.written State.cancelTest)

/-- ENG_EN (R409): the field is writable in BLANK and RETURN only. -/
def State.engEn (s : State) (v : Word) : State :=
  if s.lc = 0 ∨ s.lc = 3 then s.wr Pg.selfTest Reg.SelfTest.ENG_EN [] (bits v.toNat 0 0) else s

def execEngEn (v : Word) (s : State) : Host.Outcome State Fault Refusal := .next (s.written fun s => s.engEn v)

end Sys2Proof.Machine
end

