-- ==== Sys2Proof/Machine/Security.lean ====
section
/-! DEFINITION. Signed firmware, fuses, device identity, attestation and lifecycle (R436 to R452). -/

namespace Sys2Proof.Machine

/-! Signed images (R437, R438). -/

/-- Every byte of [a, b) is zero. -/
def zeroIn (l : List Byte) (a b : Nat) : Bool := ((l.drop a).take (b - a)).all (· == 0)

/-- Bytes of an image's body by its header. -/
def bodyLen (img : List Byte) : Nat := leAt img 0xC 4

/-- A header of a size that BODYLEN allows. -/
def headerOk (img : List Byte) (typ : Nat) : Bool :=
  leAt img 0 4 == 0xF1A7D240 && leAt img 4 2 == typ && leAt img 6 2 == 1 && zeroIn img 0x12 0x20 && zeroIn img 0xC0 0x100
    && leAt img 0x11 1 < 16 && bodyLen img % 4096 == 0 && bodyLen img ≤ 2 ^ 24 && leAt img 8 4 < 64
    && 0x100 + bodyLen img ≤ img.length

/-- The slot's revoke fuse is intact and the key is the slot's (check 2). -/
def Fuses.keyOk (f : Fuses) (slot : Nat) (pub : List Byte) : Bool :=
  slot < 4 && !f.revoked.testBit slot && sha256 pub == f.keys.getD slot []

/-- The number of the first check of R438 that an image of TYPE `typ` fails, 0 for none. -/
def State.imageErr (s : State) (typ : Nat) (img : List Byte) : Nat :=
  let slot := leAt img 0x10 1
  let pub := (img.drop 0x20).take 64
  if !headerOk img typ then 1
  else if !s.fuses.keyOk slot pub then 2
  else if !ecVerify pub (sha256 (img.take 0x80)) ((img.drop 0x80).take 64) then 3
  else if imageDigest img ≠ sha256 ((img.drop 0x100).take (bodyLen img)) then 4
  else if s.lc ≠ 0 ∧ imageSvn img < (if typ = 1 then s.fuses.svnHub else s.fuses.svnDie) then 5
  else if (leAt img 0x11 1).testBit slot then 6
  else 0

/-! Device identity (R443, R444). -/

/-- A private key: HKDF of the device secret with `info`. -/
def State.deriveKey (s : State) (info : List Byte) : Nat :=
  beNat (hkdf48 (natBytes 32 s.fuses.secret) info) % (p256n - 1) + 1

/-- ASCII bytes. -/
def ascii (t : String) : List Byte := t.toList.map fun c => BitVec.ofNat 8 c.toNat

def State.dikKey (s : State) : Nat := s.deriveKey (ascii "DZ4-DIK")
def State.dikPub (s : State) : List Byte := ecBytes (ecMul s.dikKey p256g)
/-- The alias key of the running hub firmware in the lifecycle state in force. -/
def State.akKey (s : State) : Nat := s.deriveKey (ascii "DZ4-AK" ++ s.running.hub ++ natBytes 1 s.lc)
def State.akPub (s : State) : List Byte := ecBytes (ecMul s.akKey p256g)

/-- The module has an identity: it is provisioned, not decommissioned, and runs its firmware (R449). -/
def State.hasIdentity (s : State) : Bool := 1 ≤ s.lc && s.lc ≤ 3 && !s.recovery && !s.running.hub.isEmpty

/-- DIK_PUB as the registers show it. -/
def State.showDik (s : State) (pub : List Byte) : State :=
  (List.range 16).foldl (fun t i => t.wr Pg.security Reg.Security.DIK_PUB [i] (leAt pub (4 * i) 4)) s

def State.dikShown (s : State) : List Byte :=
  (List.range 16).flatMap fun i => natBytes 4 (s.rd Pg.security Reg.Security.DIK_PUB [i])

/-- LC_NONCE is drawn afresh (R451). -/
def State.drawNonce (s : State) : State :=
  let a := s.drawWord
  let b := a.2.drawWord
  (b.2.wr Pg.security Reg.Security.LC_NONCE [0] a.1.toNat).wr Pg.security Reg.Security.LC_NONCE [1] b.1.toNat

/-- `n` words from the true random source. -/
def State.random (s : State) : Nat → Nat × State
  | 0 => (0, s)
  | n + 1 =>
    let r := s.random n
    let w := r.2.drawWord
    (r.1 * 2 ^ 32 + w.1.toNat, w.2)

/-- PROVISION (R443, R450): writable in BLANK; the new lifecycle state takes effect at the next power-on. -/
def State.provisionMe (s : State) : State :=
  if s.lc ≠ 0 ∨ s.fuses.lc ≠ 0 then s
  else
    let r := s.random 8
    let t : State := { r.2 with fuses := { r.2.fuses with secret := r.1, lc := 1 } }
    t.showDik t.dikPub

/-- PROVISION (R443, R452): the RWL bit is stored while BLANK is in force, and provisioning starts. -/
def execProvision (s : State) : Host.Outcome State Fault Refusal :=
  .next (s.written fun s =>
    (if s.lc = 0 then s.wr Pg.security Reg.Security.PROVISION [] 1 else s).provisionMe)

/-! Updates (R441, R442). -/

/-- A DER element: its tag, its content, and what follows it. -/
def derTake (l : List Byte) : Option (Nat × List Byte × List Byte) :=
  let n := leAt l 1 1
  let h := if n < 0x80 then 0 else n - 0x80
  let len := if n < 0x80 then n else beNat ((l.drop 2).take h)
  let body := l.drop (2 + h)
  if l.length < 2 + h + len ∨ 4 < h ∨ l.length < 2 then none else some (leAt l 0 1, body.take len, body.drop len)

/-- What follows `n` DER elements. -/
def derSkip : Nat → List Byte → Option (List Byte)
  | 0, l => some l
  | n + 1, l => (derTake l).bind fun e => derSkip n e.2.2

/-- The subject public key of an X.509 certificate, x‖y. -/
def certKey (l : List Byte) : Option (List Byte) :=
  (derTake l).bind fun c => (derTake c.2.1).bind fun tbs =>
    let fields := if leAt tbs.2.1 0 1 = 0xA0 then 6 else 5
    (derSkip fields tbs.2.1).bind fun r => (derTake r).bind fun spki => (derSkip 1 spki.2.1).bind fun k =>
      (derTake k).bind fun bs => if bs.1 = 3 ∧ bs.2.1.take 2 = [0, 4] then some (bs.2.1.drop 2) else none

/-- Length of a DER certificate from its first bytes. -/
def certLen (l : List Byte) : Nat :=
  let n := leAt l 1 1
  if n < 0x80 then 2 + n else 2 + (n - 0x80) + beNat ((l.drop 2).take (n - 0x80))

/-- The hub accepts an identity certificate (R443). -/
def State.certAccepted (s : State) (c : List Byte) : Bool :=
  s.lc == 1 && c.length ≤ 2048 && certKey c == some s.dikShown

/-- Store an image in the bank that did not boot. -/
def State.writeBank (s : State) (tgt : Nat) (img : List Byte) : State :=
  let f := s.flash
  let n := 1 - s.bootBank
  let old := f.bank n
  let new : Bank := if tgt = 0 then { old with hub := img, count := (f.bank (1 - n)).count + 1 } else { old with die := img }
  { s with
    flash := if n = 0 then { f with a := new } else { f with b := new }
    running := { s.running with fresh := s.running.fresh || tgt == 1 } }

/-- An update ends with a code. -/
def State.updateEnds (s : State) (err : Nat) : State :=
  (s.wr Pg.security Reg.Security.FWU_ERR [] err).setEvent Pg.security

/-- A firmware update or certificate: verified before anything is written. For a certificate that is refused the spec gives
no code, so that FWU_ERR is free. -/
def State.update (s : State) (tgt : Nat) (img : List Byte) : State :=
  if s.rd Pg.security Reg.Security.FWU_BUSY = 1 then s.updateEnds 7
  else
    match tgt with
    | 2 =>
      if s.certAccepted img then
        ({ s with flash := { s.flash with cert := img } }.wr Pg.security Reg.Security.CERT_OK [] 1).updateEnds 0
      else
        let r := s.drawWord
        r.2.updateEnds (r.1.toNat % 8)
    | 3 => s.updateEnds 1
    | _ =>
      let img := img.take (0x100 + bodyLen img)
      let e := s.imageErr (tgt + 1) img
      if e = 0 then (s.writeBank tgt img).updateEnds 0 else s.updateEnds e

/-- FWU_START (R441): the image lies at FWU_SRC. -/
def State.updateFromMemory (s : State) : State :=
  let g := Pg.security
  let a := s.rd2 g Reg.Security.FWU_SRC_LO Reg.Security.FWU_SRC_HI
  let tgt := s.rd g Reg.Security.FWU_TARGET
  let n := if tgt = 2 then min 2049 (certLen (s.bytesAt a 6)) else 0x100 + min (2 ^ 24) (s.numAt (a + 0xC) 4)
  if s.populated a 256 && s.populated a n then s.update tgt (s.bytesAt a n)
  else (s.raise ⟨g, 0x03, 15, 0, 0, noPc, a, none, true⟩).updateEnds 1

def execFwuStart (s : State) : Host.Outcome State Fault Refusal :=
  .next (s.written fun s => if s.recovery then s else s.updateFromMemory)

/-- PLDM_FIRMWARE_UPDATE (R439, R441): the board management controller sends the image; recovery accepts it too. -/
def execPldmFirmwareUpdate (tgt : FwTarget) (image : List Byte) (s : State) : Host.Outcome State Fault Refusal :=
  .next <|
    if s.frozen || !s.power.rails then s
    else s.update (match tgt with
      | .hub => 0
      | .die => 1
      | .cert => 2) image

/-- Revoke fuses a commit blows: never the last intact slot (R442). -/
def Fuses.revoking (f : Fuses) (mask : Nat) : Nat := if (f.revoked ||| mask) % 16 = 15 then 0 else mask % 16

/-- SVN_COMMIT (R442): refused while a die runs other firmware than the boot bank's. -/
def State.svnRaise (s : State) : State :=
  let g := Pg.security
  let d := imageDigest (s.flash.bank s.bootBank).die
  if s.running.hub.isEmpty ∨ s.running.dies.any (fun x => !x.isEmpty && x != d) then s
  else
    let f := s.fuses
    let f := { f with
      svnHub := max f.svnHub (s.rd g Reg.Security.RUN_SVN_HUB)
      svnDie := max f.svnDie (s.rd g Reg.Security.RUN_SVN_DIE)
      revoked := f.revoked ||| f.revoking s.running.revoke }
    let t : State := { s with fuses := f }
    ((t.wr g Reg.Security.SVN_HUB [] f.svnHub).wr g Reg.Security.SVN_DIE [] f.svnDie).wr g Reg.Security.REVOKED [] f.revoked

def execSvnCommit (s : State) : Host.Outcome State Fault Refusal := .next (s.written State.svnRaise)

/-! Lifecycle tokens (R450, R451). -/

/-- The transition is one of R450. -/
def State.stepAllowed (s : State) (target : Nat) : Bool :=
  let lc := s.fuses.lc
  lc < target && ((lc == 1 && target == 2 && s.rd Pg.security Reg.Security.CERT_OK == 1) || (lc == 2 && target == 3) || target == 4)

/-- A token is accepted. -/
def State.tokenOk (s : State) (b : List Byte) : Bool :=
  let target := leAt b 4 1
  let slot := leAt b 0x30 1
  let pub := (b.drop 0x40).take 64
  let unsigned := target == 4 && (s.lc == 0 || s.lc == 3)
  leAt b 0 4 == 0x7E1C57A7 && zeroIn b 5 8 && zeroIn b 0x31 0x40 && s.stepAllowed target
    && leAt b 8 8 == s.rd Pg.security Reg.Security.LC_NONCE [0] + s.rd Pg.security Reg.Security.LC_NONCE [1] * 2 ^ 32
    && (b.drop 0x10).take 32 == sha256 s.dikShown
    && (unsigned || (s.fuses.keyOk slot pub && ecVerify pub (sha256 (b.take 0x80)) ((b.drop 0x80).take 64)))

/-- LC advances: fuses only; it takes effect at the next power-on. -/
def State.advance (s : State) (target : Nat) : State :=
  let f := { s.fuses with lc := target, secret := if target = 4 then 2 ^ 256 - 1 else s.fuses.secret }
  { s with fuses := f, flash := if target = 3 then { s.flash with log := [] } else s.flash }

/-- LC_GO (R451). -/
def State.submitToken (s : State) : State :=
  let g := Pg.security
  let a := s.rd2 g Reg.Security.LC_SRC_LO Reg.Security.LC_SRC_HI
  let b := s.bytesAt a 192
  let ok := s.populated a 192 && s.tokenOk b
  let t := if ok then s.advance (leAt b 4 1) else s
  (((t.wr g Reg.Security.LC_RES [] (if ok then 1 else 2)).drawNonce).setEvent g)

def execLcGo (s : State) : Host.Outcome State Fault Refusal :=
  .next (s.written fun s => if s.recovery then s else s.submitToken)

/-! Attestation (R445 to R447). -/

def State.conn (s : State) : Transport → Nat
  | .doe => s.spdm.1
  | .smbus => s.spdm.2

def State.setConn (s : State) (tr : Transport) (n : Nat) : State :=
  { s with spdm := match tr with
    | .doe => (n, s.spdm.2)
    | .smbus => (s.spdm.1, n) }

/-- Answer a request. -/
def State.reply (s : State) (tr : Transport) (r : SpdmReply) : State := { s with spdmOut := s.spdmOut ++ [(tr, r)] }

/-- The responder serves the transport: in recovery SMBus only, `basic` requests only; in BLANK there is none (R439, R440,
R449). -/
def State.responds (s : State) (tr : Transport) (basic : Bool) : Bool :=
  s.power.rails && !s.frozen
    && (if s.recovery then basic && tr == .smbus else 1 ≤ s.lc && s.lc ≤ 3 && (tr == .smbus || s.cxlUp))

/-- GET_VERSION (R445): a connection begins. -/
def execGetVersion (tr : Transport) (s : State) : Host.Outcome State Fault Refusal :=
  .next (if s.responds tr true then (s.setConn tr 1).reply tr .version else s)

/-- GET_CAPABILITIES (R445). -/
def execGetCapabilities (tr : Transport) (s : State) : Host.Outcome State Fault Refusal :=
  .next <|
    if !s.responds tr true then s
    else if s.conn tr = 1 ∨ s.conn tr = 2 then (s.setConn tr 2).reply tr .capabilities
    else s.reply tr .error

/-- NEGOTIATE_ALGORITHMS (R445). -/
def execNegotiateAlgorithms (tr : Transport) (s : State) : Host.Outcome State Fault Refusal :=
  .next <|
    if !s.responds tr false then s
    else if 2 ≤ s.conn tr then (s.setConn tr 3).reply tr .algorithms
    else s.reply tr .error

/-- A request that needs a negotiated connection. -/
def State.negotiated (s : State) (tr : Transport) (f : State → State) : State :=
  if !s.responds tr false then s else if s.conn tr = 3 then f s else s.reply tr .error

/-- Certificate slot 0: vendor root, provisioning authority, DIK certificate, AK certificate (R445). -/
def State.chain (s : State) : List Byte :=
  let ak := Config.akCert s.dikKey s.akPub
  Config.chainHead s.flash.cert ak ++ s.flash.cert ++ ak

/-- GET_DIGESTS (R445). -/
def execGetDigests (tr : Transport) (s : State) : Host.Outcome State Fault Refusal :=
  .next (s.negotiated tr fun s => s.reply tr (.digests (sha256 s.chain)))

/-- GET_CERTIFICATE (R445): a portion of the chain. -/
def execGetCertificate (tr : Transport) (off len : Nat) (s : State) : Host.Outcome State Fault Refusal :=
  .next (s.negotiated tr fun s =>
    let rest := s.chain.drop off
    if rest.isEmpty then s.reply tr .error else s.reply tr (.certificate (rest.take len) (rest.drop len).length))

/-- A nonce of 32 bytes from the true random source. -/
def State.nonce32 (s : State) : List Byte × State :=
  let r := s.random 8
  (natBytes 32 r.1, r.2)

/-- A signature of the AK over an SPDM answer. -/
def State.spdmSign (s : State) (tr : Transport) (request answer : List Byte) : List Byte :=
  ecSign s.akKey (beBytes 32 (Config.spdmDigest (tr == .doe) request answer))

/-- CHALLENGE (R445). -/
def execChallenge (tr : Transport) (nonce : List Byte) (s : State) : Host.Outcome State Fault Refusal :=
  .next (s.negotiated tr fun s =>
    let n := s.nonce32
    let h := sha256 s.chain
    n.2.reply tr (.challengeAuth h n.1 (s.spdmSign tr nonce (h ++ n.1))))

/-- Measurement blocks 1 to 11 (R447). -/
def State.blocks (s : State) : List (List Byte) :=
  let g := Pg.security
  [s.running.hub] ++ s.running.dies.map (fun d => if d.isEmpty then List.replicate 32 0 else d)
    ++ [natBytes 1 s.lc ++ natBytes 1 s.fuses.svnHub ++ natBytes 1 s.fuses.svnDie ++ natBytes 1 s.fuses.revoked,
      natBytes 1 (s.rd g Reg.Security.RUN_SVN_HUB) ++ natBytes 1 (s.rd g Reg.Security.RUN_SVN_DIE)]
    ++ (List.range 4).map fun p =>
      if s.runState p = 0 then List.replicate 32 0
      else (List.range 8).flatMap fun i => natBytes 4 (s.rd (Pg.program p) Reg.Program.PROGRAM_DIGEST [i])

/-- GET_MEASUREMENTS (R447), signed or not. -/
def execGetMeasurements (tr : Transport) (sign : Bool) (nonce : List Byte) (s : State) : Host.Outcome State Fault Refusal :=
  .next (s.negotiated tr fun s =>
    if sign then
      let n := s.nonce32
      n.2.reply tr (.measurements s.blocks n.1 (s.spdmSign tr nonce (s.blocks.flatten ++ n.1)))
    else s.reply tr (.measurements s.blocks [] []))

/-! Signing manifests (R448). -/

/-- r‖s over the 48-byte message of a manifest digest. -/
def State.signManifest (s : State) (md : List Byte) : List Byte :=
  ecSign s.akKey (sha256 (ascii "DZ4MNFST" ++ natBytes 2 s.modId ++ List.replicate 6 0 ++ md))

end Sys2Proof.Machine
end

