-- ==== Sys2Proof/Machine/Observe.lean ====
section
/-! DEFINITION. Counter snapshots, the drain of the trace buffer, replay of host inputs, manifests (R478 to R494). -/

namespace Sys2Proof.Machine

/-! Counter snapshots (R480). -/

/-- Trigger a snapshot; a trigger during a freeze is ignored. Bit 0 is SNAPNOW, 1 a sync edge, 2 + p a step of polder p. -/
def State.triggerSnap (s : State) (b : Nat) : State := if s.frozen then s else { s with snapTrig := s.snapTrig ||| 2 ^ b }

/-- SNAPNOW (R480). -/
def execSnapnow (s : State) : Host.Outcome State Fault Refusal := .next (s.written fun s => s.triggerSnap 0)

/-- A 48-bit value in 8 bytes. -/
def State.value48 (s : State) (p : Nat) (lo hi : FieldSpec) (ix : List Nat) : List Byte :=
  natBytes 8 (s.rd p lo ix + s.rd p hi ix % 2 ^ 16 * 2 ^ 32)

/-- EVCNTs of a page with SNAP set, as a mask. -/
def State.snapMask (s : State) (p : Nat) : Nat :=
  (List.range 8).foldl (fun m i => if s.rd p Reg.Common.EVSEL_SNAP [i] = 1 then m + 2 ^ i else m) 0

/-- The 36 stall counters of a core or cluster page (R477), by engine and cause; other pages have none. -/
def State.stallValues (s : State) (p : Nat) : List Byte :=
  let causes := fun (lo hi : FieldSpec) (e : Nat) => (List.range 9).flatMap fun c => s.value48 p lo hi [e, c]
  match pageKind p with
  | some .core =>
    (List.range 2).flatMap (causes Reg.Core.STALL_LO_500 Reg.Core.STALL_HI_504)
      ++ (List.range 2).flatMap (causes Reg.Core.STALL_LO_460 Reg.Core.STALL_HI_464)
  | some .cluster => (List.range 4).flatMap (causes Reg.Clu.STALL_LO Reg.Clu.STALL_HI)
  | _ => []

/-- A page's entry in a snapshot, empty for a page that has nothing to latch. -/
def State.snapEntry (s : State) (p : Nat) : List Byte :=
  let m := s.snapMask p
  let st := if s.rd Pg.trace Reg.Trace.SNAP_STALL = 1 then s.stallValues p else []
  if m = 0 ∧ st.isEmpty then []
  else
    let vs := ((List.range 8).filter m.testBit).flatMap fun i =>
      natBytes 8 (s.rd p Reg.Common.EVCNT [2 * i] + s.rd p Reg.Common.EVCNT [2 * i + 1] % 2 ^ 16 * 2 ^ 32)
    let e := natBytes 8 (p + m * 2 ^ 16 + bit (!st.isEmpty) * 2 ^ 24) ++ vs ++ st
    padTo ((e.length + 31) / 32 * 32) e

/-- Every register page, ascending (R497). -/
def allPages : List Nat := (List.range 768).filter fun n => (pageKind n).isSome

/-- SNAPSHOT_LATCH (R480): four SCLK after its first trigger. -/
def execSnapshotLatch (s : State) : Host.Outcome State Fault Refusal :=
  .next <|
    if s.frozen || s.snapTrig == 0 then s
    else { s with snapTrig := 0 }.snapAdmit s.snapTrig (allPages.flatMap s.snapEntry)

/-! The drain (R478, R479). -/

def State.ringBase (s : State) : Nat :=
  (s.rd Pg.trace Reg.Trace.RING_LO / 2 ^ 16 * 2 ^ 16) + s.rd Pg.trace Reg.Trace.RING_HI * 2 ^ 32
def State.ringSize (s : State) : Nat := 2 ^ s.rd Pg.trace Reg.Trace.RING_LOG2

/-- The record is no longer in the buffer. -/
def State.recordOut (s : State) : State :=
  let t : State := { s with trace := s.trace.drop 1 }
  t.wr Pg.trace Reg.Trace.OCC [] t.traceUsed

/-- A record that is dropped on its way out counts as one lost of its kind. -/
def State.recordLost (s : State) (r : TraceRec) : State :=
  if r.towpath then s.recordOut.towLost r.polder else s.recordOut.count Pg.trace Reg.Trace.SNAP_LOST [] 1

/-- `n` bytes have been written to the ring: RING_HEAD and RING_OLDEST. -/
def State.ringMoved (s : State) (n : Nat) (recs : List Nat) : State :=
  let size := s.ringSize
  let head := (s.ringHead + n) % size
  let t : State := { s with ringHead := head, ringRecs := recs }
  (t.wr Pg.trace Reg.Trace.RING_HEAD [] head).wr Pg.trace Reg.Trace.RING_OLDEST [] ((head + size - recs.sum) % size)

/-- Oldest records leave until the rest fits into `room`. -/
def dropOldest (room : Nat) : List Nat → List Nat
  | [] => []
  | r :: l => if (r :: l).sum ≤ room then r :: l else dropOldest room l

/-- Put a record into the LPDDR5X ring, 32 bytes at a time, past its end to its start. -/
def State.traceRing (s : State) (bs : List Byte) : State :=
  ((chunks 32 bs.length bs).zipIdx.foldl (fun t e =>
    (t.store (hubWrite (t.ringBase % 2 ^ 48 + (s.ringHead + 32 * e.2) % t.ringSize) e.1 false)).1) s)

/-- Requests of a record of `n` bytes that goes to the ring (R257). -/
def State.ringTraffic (s : State) (n : Nat) : State :=
  let base := s.ringBase % 2 ^ 48
  let k := min n (s.ringSize - s.ringHead)
  let t := s.asyncTraffic true (base + s.ringHead) k
  if k < n then t.asyncTraffic true base (n - k) else t

/-- Drain record `r` to the LPDDR5X ring. With WRAP clear it waits for space. -/
def State.drainLpddr (s : State) (r : TraceRec) : State :=
  let n := r.bytes.length
  let size := s.ringSize
  let wrap := s.rd Pg.trace Reg.Trace.WRAP = 1
  if !wrap ∧ size < s.ringRecs.sum + n then s
  else
    let lines := (List.range (n / 32)).map fun i => s.ringBase % 2 ^ 48 + (s.ringHead + 32 * i) % size
    match lines.find? fun a => (s.phys a).isNone with
    | some a => (s.recordLost r).raise ⟨Pg.trace, 0x03, 15, 0, 0, noPc, a, none, true⟩
    | none =>
      let kept := dropOldest (size - n) s.ringRecs
      ((s.ringTraffic n).recordOut.traceRing r.bytes).ringMoved n (if n ≤ size then kept ++ [n] else [])

/-- Drain record `r` to the host ring, never past RING_TAIL. While the link is down it waits. -/
def State.drainHost (s : State) (r : TraceRec) : State :=
  let n := r.bytes.length
  let size := s.ringSize
  let w := min size (2 ^ 32)
  let room := (s.rd Pg.trace Reg.Trace.RING_TAIL + 2 * w - s.ringHead % w - 1) % w
  if room < n ∨ !s.cxlUp then s
  else
    let t := s.recordOut
    let first := r.bytes.take (size - s.ringHead)
    let rest := r.bytes.drop (size - s.ringHead)
    let t := t.toHost (.write (s.ringBase + s.ringHead) first)
    let t := if rest.isEmpty then t else t.toHost (.write s.ringBase rest)
    t.ringMoved n []

/-- TRACE_DRAIN (R478): the oldest record leaves the trace buffer. -/
def execTraceDrain (hw : HwErr) (s : State) : Host.Outcome State Fault Refusal :=
  .next <|
    if s.still then s
    else
      match s.trace with
      | [] => s
      | r :: _ =>
        match s.rd Pg.trace Reg.Trace.DEST with
        | 1 => if hw = .unit then s.recordLost r else s.drainLpddr r
        | 2 => if hw = .unit then s.recordLost r else s.drainHost r
        | _ => s

/-! Replay of host inputs (R487). -/

/-- Little-endian word at byte `o` of a record's payload. -/
def Record.num (r : Record) (o n : Nat) : Nat := leAt r.payload o n

/-- Apply a recorded host write: its lines in address order, on the path of R421. -/
def State.replayWrite (s : State) (r : Record) : State :=
  let ls := (List.range 64).filter (r.num 8 8).testBit
  ls.zipIdx.foldl (fun t e =>
    let a := r.num 0 8 + 64 * e.1
    if (t.phys a).isNone then t.hostError 0 a true
    else t.hostLine a (((r.payload.drop (16 + 64 * e.2)).take 64).map some)) s

/-- Apply a recorded host signal, on the path of R277, once what the host wrote before it is in memory. -/
def State.replaySignal (s : State) (r : Record) : State :=
  let t := s.drainGather
  t.queueOp 0 rankHost (.signal (r.num 0 4 % 8192) (r.num 4 4) (r.num 8 4 % 2 = 1) (BitVec.ofNat 32 (t.hubLast 8 0)))

/-- The polder has reached the step of a record. -/
def State.reached (s : State) (p : Nat) (r : Record) : Bool := (s.stepNo p + 2 ^ 32 - r.step) % 2 ^ 32 < 2 ^ 31

/-- The next host record of polder `p` is used. -/
def State.replayNext (s : State) (p : Nat) (r : Record) : State :=
  let t := s.useRecord p r
  if !r.good then t.diverge p 4 r.type r.seq r.key
  else if r.type = 0x05 then t.replaySignal r
  else if r.payload.length = 48 then t.diverge p 2 r.type r.seq r.key
  else t.replayWrite r

/-- REPLAY_INJECT (R487). -/
def execReplayInject (pol : PolderId) (s : State) : Host.Outcome State Fault Refusal :=
  let p := pol.val
  .next <|
    if s.still || s.towMode p != 3 then s
    else
      match s.nextRecord p [0x04, 0x05] with
      | some r => if s.reached p r then s.replayNext p r else s
      | none => s

/-! Manifests (R489 to R494). -/

/-- Bytes of a leaf. -/
def leafSize : Nat := 1048576

/-- A Merkle level from the one below: pairs from left to right, an odd last node carried up. -/
def merkleLevel : List (List Byte) → List (List Byte)
  | a :: b :: r => sha256 (1 :: a ++ b) :: merkleLevel r
  | l => l

/-- The root of a list of leaf digests (R490); at most `fuel` levels. -/
def merkleRoot : Nat → List (List Byte) → List Byte
  | _, [] => sha256 [0]
  | _, [a] => a
  | 0, a :: _ => a
  | f + 1, l => merkleRoot f (merkleLevel l)

/-- A region-list entry of 16 bytes: address, length, CVM. -/
def mfRegion (b : List Byte) : Nat × Nat × Bool := (leAt b 0 6, leAt b 8 5, bits (leAt b 15 1) 7 7 = 1)

/-- The entry uses no reserved encoding. -/
def mfRegionOk (b : List Byte) : Bool := leAt b 6 2 == 0 && leAt b 13 2 == 0 && leAt b 15 1 % 128 == 0

/-- Fields of a manifest job descriptor (R491). -/
def mfSign (d : List Byte) : Bool := bits (leAt d 0 4) 0 0 = 1
def mfIdsrc (d : List Byte) : Nat := bits (leAt d 0 4) 2 1
def mfLden (d : List Byte) : Bool := bits (leAt d 0 4) 3 3 = 1
def mfNw (d : List Byte) : Nat := bits (leAt d 0 4) 8 4
def mfNi (d : List Byte) : Nat := bits (leAt d 0 4) 13 9
def mfLdone (d : List Byte) : Nat := bits (leAt d 0 4) 26 14
def mfDst (d : List Byte) : Nat := leAt d 0x18 6

/-- The descriptor uses no reserved encoding (MF_ERR 1). -/
def mfOk (d : List Byte) : Bool :=
  mfIdsrc d != 3 && mfNw d + mfNi d ≤ 16 && (mfIdsrc d == 0 || mfNi d == 0) && bits (leAt d 0 4) 31 27 == 0
    && zeroIn d 4 8 && zeroIn d 0xE 0x10 && zeroIn d 0x16 0x18 && zeroIn d 0x1E 0x40 && mfDst d % 256 == 0

/-- `n` bytes at `a` lie in memory of polder `p`'s dies and are mapped (MF_ERR 4). -/
def State.ownMemory (s : State) (p a n : Nat) : Bool :=
  n == 0 || (a + n ≤ 2 ^ 48 && (linesOf a n).all fun l => (s.phys l).isSome && s.polderOfAddr l == p && p < s.npolders)

/-- The part of a region list's string from byte `o`, `n` bytes, as pieces. -/
def mfSlice : List (Nat × Nat × Bool) → Nat → Nat → List (Nat × Nat × Bool)
  | [], _, _ => []
  | (a, len, cvm) :: r, o, n =>
    if len ≤ o then mfSlice r (o - len) n
    else
      let k := min n (len - o)
      if k = 0 then [] else (a + o, k, cvm) :: mfSlice r 0 (n - k)

/-- Length of a region list's string, and its leaves. -/
def mfBytes (rs : List (Nat × Nat × Bool)) : Nat := (rs.map fun r => r.2.1).sum
def mfLeaves (rs : List (Nat × Nat × Bool)) : Nat := ceilDiv (mfBytes rs) leafSize

/-- A region list in memory. -/
def State.mfList (s : State) (a n : Nat) : List (List Byte) := (List.range n).map fun i => s.bytesAt (a + 16 * i) 16

/-- Arm the slot's comparators over the listed regions. -/
def State.mfWatch (s : State) (p : Nat) (rs : List (Nat × Nat × Bool)) : State :=
  let cs := (rs.zipIdx.filter fun e => e.1.2.1 != 0).map fun e => (cmpManifest p e.2, e.1.1, e.1.1 + e.1.2.1 - 1)
  { s with hubCmp := s.hubCmp ++ cs }

/-- The job starts, or ends at once with its error. -/
def State.startManifest (s : State) (p : Nat) (hw : HwErr) : State :=
  let g := Pg.manifest
  let a := s.rd2 g Reg.Manifest.JOB_LO Reg.Manifest.JOB_HI [p] / 64 * 64
  let t := ((s.wr g Reg.Manifest.HASHED [p] 0).wr g Reg.Manifest.MF_ERR [p] 0).wr g Reg.Manifest.BUSY [p] 1
  if !t.ownMemory p a 64 then t.endManifest p 4
  else
    let d := t.bytesAt a 64
    let wa := leAt d 8 6
    let ia := leAt d 0x10 6
    if !mfOk d then t.endManifest p 1
    else if !(t.ownMemory p wa (16 * mfNw d) && t.ownMemory p ia (16 * mfNi d)) then t.endManifest p 4
    else
      let wl := t.mfList wa (mfNw d)
      let il := t.mfList ia (mfNi d)
      let ws := wl.map mfRegion
      let is := il.map mfRegion
      if !((wl ++ il).all mfRegionOk) then t.endManifest p 1
      else if !((ws ++ is).all (fun r => t.ownMemory p r.1 r.2.1) && t.ownMemory p (mfDst d) 256
          && (mfIdsrc d != 1 || t.ownMemory p ia 32)) then t.endManifest p 4
      else
        let pd := (List.range 8).flatMap fun i => natBytes 4 (t.rd (Pg.program p) Reg.Program.PROGRAM_DIGEST [i])
        let e := t.loneError a 5 15 hw
        let u := (e.getD (t.noteHw a hw)).mfWatch p (ws ++ is)
        { u with mfJobs := u.mfJobs ++ [MfJob.mk p d ws is pd (t.stepNo p) [] [] e.isSome] }

/-- GO (R492, R493): while the slot is busy the running job goes on. -/
def execGo (pol : PolderId) (hw : HwErr) (s : State) : Host.Outcome State Fault Refusal :=
  let p := pol.val
  .next (s.written fun s =>
    if s.rd Pg.manifest Reg.Manifest.BUSY [p] = 1 then s.wr Pg.manifest Reg.Manifest.MF_ERR [p] 5
    else s.startManifest p hw)

/-- The job as it stands. -/
def State.setMf (s : State) (j : MfJob) : State := { s with mfJobs := s.mfJobs.map fun x => if x.pol = j.pol then j else x }

/-- Requests of the hash engine that takes leaf `i` of polder `p`: those of its clusters take the leaves in
turn, in OWN 13 slots while RUN is 1 and in any slot otherwise (R492). -/
def State.hashTraffic (s : State) (p i a n : Nat) : State :=
  let cls := (List.range 32).filter fun c => s.polderOfDie (c / 8) == p
  let c := cls.getD (i % cls.length) 0
  if s.rd (Pg.program p) Reg.Program.RUN = 1 then s.traffic (Req.madeBy ⟨c / 8, c % 8, 13⟩ (8 * c) 4 15 noPc 0 0 false) [(a, n)]
  else s

/-- Hash leaf `i` of a list of job `j`: its digest, or the error that ends the job. -/
def State.hashLeaf (s : State) (j : MfJob) (rs : List (Nat × Nat × Bool)) (i : Nat) : State × Option (List Byte) :=
  let ps := mfSlice rs (i * leafSize) leafSize
  if !(ps.all fun x => s.ownMemory j.pol x.1 x.2.1) then (s.endManifest j.pol 4, none)
  else
    match (ps.filter fun x => x.2.2 && isModMem x.1).findSome? fun x =>
        (linesOf x.1 x.2.1).find? fun l => s.verify (blockOf l) != .ok with
    | some l => ((s.recordCheck (blockOf l) (s.verify (blockOf l))).endManifest j.pol 2, none)
    | none =>
      (ps.foldl (fun t x => (t.acctMem j.pol x.1 x.2.1 false).hashTraffic j.pol i x.1 x.2.1) s,
        some (sha256 (0 :: ps.flatMap fun x => s.bytesAt x.1 x.2.1)))

/-- ID of a job whose leaves are hashed (R489). -/
def State.mfId (s : State) (j : MfJob) : List Byte :=
  match mfIdsrc j.desc with
  | 0 => merkleRoot 64 j.il
  | 1 => s.bytesAt (leAt j.desc 0x10 6) 32
  | _ => s.bytes32 Reg.Trace.CHAIN_STEP [j.pol]

/-- Sixty-four free bytes, for the signature of a module without an identity. -/
def State.freeSig (s : State) : List Byte × State :=
  ((List.range 64).map fun i => Config.freeByte (s.fresh + i), { s with fresh := s.fresh + 64 })

/-- SIG of a job's record (R448). -/
def State.mfSig (s : State) (j : MfJob) (md : List Byte) : List Byte × State :=
  if !mfSign j.desc then (List.replicate 64 0, s)
  else if s.hasIdentity then (s.signManifest md, s)
  else s.freeSig

/-- The manifest record (R494). -/
def State.mfRecord (s : State) (j : MfJob) : List Byte × State :=
  let wr := merkleRoot 64 j.wl
  let id := s.mfId j
  let md := sha256 (j.pd ++ wr ++ id)
  let g := s.mfSig j md
  (natBytes 4 0x3A4EF15D ++ natBytes 2 1 ++ natBytes 2 s.modId ++ natBytes 1 j.pol ++ natBytes 1 (bit (mfSign j.desc))
    ++ natBytes 2 0 ++ natBytes 4 j.step ++ natBytes 8 (mfBytes j.ws) ++ natBytes 8 (mfBytes j.is) ++ j.pd ++ wr ++ id ++ md
    ++ g.1 ++ List.replicate 32 0, g.2)

/-- The last leaf is hashed: the record is written and LDONE signalled. A record that meets an uncopied granule is stored
once more after its copy. -/
def State.finishManifest (s : State) (j : MfJob) : State :=
  let p := j.pol
  let dst := mfDst j.desc
  if !s.ownMemory p dst 256 then s.endManifest p 4
  else if (j.ws ++ j.is).any fun r => r.1 < dst + 256 && dst < r.1 + r.2.1 then s.endManifest p 3
  else if s.stalled.any fun w => w.addr == dst then s
  else
    let r := s.mfRecord j
    let w := hubWrite dst r.1 (isModMem dst)
    if s.meetsUncopied w then (s.store w).1
    else
      let u := (r.2.acctMem p dst 256 true).store w
      match u.2 with
      | some _ => u.1.endManifest p 2
      | none =>
        let t := if mfLden j.desc then u.1.hubSignal (mfLdone j.desc) 16 13 p else u.1
        t.endManifest p 0

/-- One leaf of a job, or its end. -/
def State.manifestStep (s : State) (j : MfJob) : State :=
  let note := fun (t : State) (j : MfJob) => (t.setMf j).wr Pg.manifest Reg.Manifest.HASHED [j.pol] (j.wl.length + j.il.length)
  if j.bad then s.endManifest j.pol 2
  else if j.wl.length < mfLeaves j.ws then
    let r := s.hashLeaf j j.ws j.wl.length
    match r.2 with
    | some d => note r.1 { j with wl := j.wl ++ [d] }
    | none => r.1
  else if j.il.length < mfLeaves j.is then
    let r := s.hashLeaf j j.is j.il.length
    match r.2 with
    | some d => note r.1 { j with il := j.il ++ [d] }
    | none => r.1
  else s.finishManifest j

end Sys2Proof.Machine
end

