-- ==== Sys2Proof/Machine/Power.lean ====
section
/-! DEFINITION. Power, resets, boot, the root PLL, throttling and energy (R432, R436 to R440, R453 to R461). -/

namespace Sys2Proof.Machine

/-! Resets (R457, R460). -/

/-- The state after a module reset of a cause: fuses, flash, the levels of pins and what was sent outside remain. `pw` is
the state of the power supply. -/
def State.afterReset (s : State) (pw : Power) (cause : Nat) : State :=
  let t : State := { State.reset with
    pending := s.pending
    fuses := s.fuses
    flash := s.flash
    power := pw
    throttle := { Throttle.none with pin := s.throttle.pin }
    freeze := { FreezeSt.none with pinUsed := s.freeze.pinUsed }
    hostOut := s.hostOut
    netOut := s.netOut
    spdmOut := s.spdmOut
    fresh := s.fresh }
  let t := (t.wr Pg.clocks Reg.Clocks.RESET_CAUSE [] cause).wr Pg.clocks Reg.Clocks.TRIPPED [] (bit pw.trip)
  t.wr Pg.security Reg.Security.LCSTATE [] (pw.lc.getD 0)

/-- A module reset with the rails kept. -/
def State.moduleReset (s : State) (cause : Nat) : State := s.afterReset s.power cause

/-- The rails come up and reset is released: a power-on. -/
def State.powerUp (s : State) : State :=
  let t : State := { s with flash := { s.flash with ons := s.flash.ons + 1 } }
  t.afterReset { s.power with en := true, rails := true, ref := false, under := false, cycle := false, lc := none } 0

/-- The rails go down; nothing survives but fuses and flash. -/
def State.powerDown (s : State) (under cycle trip : Bool) : State :=
  if !s.power.rails then s
  else s.afterReset
    { s.power with rails := false, ref := false, under := under, cycle := cycle, trip := trip, lc := none } 0

/-- PWR_EN_ASSERT (R457, R458). -/
def execPwrEnAssert (s : State) : Host.Outcome State Fault Refusal :=
  .next (if s.power.en then s else s.powerUp)

/-- PWR_EN_DEASSERT (R457). -/
def execPwrEnDeassert (s : State) : Host.Outcome State Fault Refusal :=
  let t := s.powerDown false false false
  .next { t with power := { t.power with en := false, under := false, cycle := false } }

/-- UNDERVOLTAGE (R458). -/
def execUndervoltage (s : State) : Host.Outcome State Fault Refusal := .next (s.powerDown true false false)

/-- OVERVOLTAGE (R458): the spec names no restart but PWR_EN's. -/
def execOvervoltage (s : State) : Host.Outcome State Fault Refusal := .next (s.powerDown false true false)

/-- THERMAL_TRIP (R458): a trip entry is appended to the flash log first. -/
def execThermalTrip (s : State) : Host.Outcome State Fault Refusal :=
  .next <|
    if !s.power.rails then s
    else
      let t : State := { s with flash := { s.flash with log := s.flash.log ++ [.trip] } }
      t.powerDown false true true

/-! Output pins (R515, R517). -/

/-- PG_OUT: high while all rails are good. -/
def State.pgOut (s : State) : Bool := s.power.rails

/-- THERMTRIP_N: low from a thermal trip until PWR_EN is deasserted. -/
def State.thermtripN (s : State) : Bool := !(s.power.trip && s.power.en && !s.power.rails)

/-- VIN_RISE (R458): power-up restarts after an undervoltage shutdown with PWR_EN still asserted. -/
def execVinRise (s : State) : Host.Outcome State Fault Refusal :=
  .next (if s.power.en && !s.power.rails && s.power.under then s.powerUp else s)

/-- REFCLK_PRESENT (R457): the module reset that its absence held is released. -/
def execRefclkPresent (s : State) : Host.Outcome State Fault Refusal :=
  .next (if s.power.rails then { s with power := { s.power with ref := true } } else s)

/-- MRST_N (R460). -/
def execMrstN (s : State) : Host.Outcome State Fault Refusal :=
  .next (if s.power.rails then s.moduleReset 1 else s)

/-- MODULE_RESET (R460). -/
def execModuleReset (s : State) : Host.Outcome State Fault Refusal := .next (s.written fun s => s.moduleReset 2)

/-- WDOG_KICK (R471). -/
def State.kick (s : State) : State := { s with wdog := 0 }
def execWdogKick (s : State) : Host.Outcome State Fault Refusal := .next (s.written State.kick)

/-- The root PLL is locked. -/
def State.locked (s : State) : Bool := s.rd Pg.clocks Reg.Clocks.LOCKED == 1

/-- WATCHDOG_EXPIRY (R460): the watchdog counts SCLK, so that it stands in a freeze. -/
def execWatchdogExpiry (s : State) : Host.Outcome State Fault Refusal :=
  .next (if s.power.rails && s.locked && !s.frozen then s.moduleReset 3 else s)

/-! The root PLL (R453, R456). -/

/-- PLL_LOCK (R453): the dividers start from a common phase, the wheels turn, TIMESTAMP counts from 0. -/
def execPllLock (s : State) : Host.Outcome State Fault Refusal :=
  .next <|
    if !s.power.rails || s.locked then s
    else
      let t : State := { s with wheel := ⟨0, true⟩, power := { s.power with ref := true } }
      (t.wr Pg.clocks Reg.Clocks.LOCKED [] 1).wr2 Pg.clocks Reg.Clocks.TIMESTAMP_LO Reg.Clocks.TIMESTAMP_HI [] 0

/-- LOSS_OF_LOCK (R453, R460). -/
def execLossOfLock (s : State) : Host.Outcome State Fault Refusal :=
  .next (if s.locked then s.moduleReset 4 else s)

/-- GLIDE (R456): the root passes one code towards its target. -/
def execGlide (s : State) : Host.Outcome State Fault Refusal :=
  let g := Pg.clocks
  .next <|
    if s.rd g Reg.Clocks.GLIDING = 0 then s
    else
      let now := s.rd g Reg.Clocks.ROOT_NOW
      let to_ := s.rootTarget.1
      (s.wr g Reg.Clocks.ROOT_NOW [] (if now < to_ then now + 1 else if to_ < now then now - 1 else now)).retarget

/-! Throttling (R459). -/

/-- A request after one more millisecond: its code and how many milliseconds it has been allowed to rise. -/
def throttleCode (root code ms : Nat) (above cool : Bool) : Nat × Nat :=
  if above then (min 30 (max code root + 1), 0)
  else if cool ∧ root < code then (if ms + 1 = 10 then (code - 1, 0) else (code, ms + 1))
  else (code, 0)

/-- The limit that the power throttle acts on (R521), in units of 10 mW: the lower of POWER_LIMIT and 72 A × VIN. -/
def State.powerLimit (s : State) (rep : PowerReport) : Nat :=
  min (100 * s.rd Pg.clocks Reg.Clocks.POWER_LIMIT) (72 * rep.vin)

/-- THROTTLE_EVAL (R459, R521): the readings of a millisecond. -/
def execThrottleEval (rep : PowerReport) (s : State) : Host.Outcome State Fault Refusal :=
  let g := Pg.clocks
  .next <|
    if s.frozen || !s.power.rails then s
    else
      let root := s.rd g Reg.Clocks.ROOT_TARGET
      let lim := s.powerLimit rep
      let w := 100 * rep.power
      let tj := s.rd g Reg.Clocks.TJ_THROTTLE
      let x := s.throttle
      let p := throttleCode root x.pwr x.pwrMs (lim < w) (100 * w < 95 * lim)
      let q := throttleCode root x.tmp x.tmpMs (tj ≤ rep.tj) (rep.tj + 5 ≤ tj)
      let t : State := { s with throttle := { x with pwr := p.1, pwrMs := p.2, tmp := q.1, tmpMs := q.2 } }
      let t := (t.wr g Reg.Clocks.PIN [] rep.power).wr g Reg.Clocks.VIN [] rep.vin
      ((t.wr g Reg.Clocks.IIN [] rep.iin).wr g Reg.Clocks.TJ_MAX [] rep.tj).retarget

/-- THROTTLE_N (R459). -/
def execThrottleN (low : Bool) (s : State) : Host.Outcome State Fault Refusal :=
  let t : State := { s with throttle := { s.throttle with pin := low } }
  .next (if s.power.rails then t.retarget else t)

/-! Energy (R432). -/

/-- Microjoules of polder `p`, or of the hub for 4, of which whole millijoules are counted by `f`. -/
def State.addEnergy (s : State) (p uj : Nat) (f : State → Nat → State) : State :=
  let n := sget (fun _ => 0) s.energy p + uj
  f { s with energy := sset (fun _ => 0) s.energy p (n % 1000) } (n / 1000)

/-- Energy of a die in a report. -/
def energyOf (r : EnergyReport) : Nat → Nat
  | 0 => r.die0 | 1 => r.die1 | 2 => r.die2 | _ => r.die3

/-- ENERGY_REPORT (R432, R435). -/
def execEnergyReport (rep : EnergyReport) (s : State) : Host.Outcome State Fault Refusal :=
  .next <|
    if s.frozen || !s.power.rails then s
    else
      let t := (List.range s.npolders).foldl (fun t p =>
        t.addEnergy p ((s.diesOf p).map (energyOf rep)).sum fun t n => t.acct p 50 n) s
      t.addEnergy 4 rep.hub fun t n => t.add2 Pg.hubAcct Reg.HubAcct.HUB_ENERGY_LO Reg.HubAcct.HUB_ENERGY_HI [] n

/-! Boot (R408, R439, R440, R461). -/

/-- A hub image that the ROM may run. -/
def State.bankOk (s : State) (n : Nat) : Bool := s.imageErr 1 (s.flash.bank n).hub == 0

/-- The bank whose image the ROM runs (R439). -/
def State.pickBank (s : State) : Option Nat :=
  if s.bankOk 0 && s.bankOk 1 then
    let a := (imageSvn (s.flash.bank 0).hub, (s.flash.bank 0).count)
    let b := (imageSvn (s.flash.bank 1).hub, (s.flash.bank 1).count)
    some (if a.1 < b.1 ∨ (a.1 = b.1 ∧ a.2 < b.2) then 1 else 0)
  else if s.bankOk 0 then some 0
  else if s.bankOk 1 then some 1
  else none

/-- The newest self-test record of the flash log. -/
def Flash.lastTest (f : Flash) : Option (List Byte) :=
  f.log.reverse.findSome? fun e => match e with
    | .test b => some b
    | .trip => none

/-- The boot skips its built-in test (R408). -/
def State.skipsTest (s : State) : Bool :=
  match s.flash.lastTest with
  | some b => leAt b 8 1 ≤ 1 && s.flash.ons ≤ 1
  | none => false

/-- The flash repair table takes effect: wear states, spares marked FAILED (R396, R408). -/
def State.applyRepairs (s : State) : State :=
  let t : State := { s with badSpares := s.flash.bad }
  s.flash.wear.foldl (fun t e =>
    if e.1 < 1000 then t.wr (Pg.clu (e.1 / 9)) Reg.Clu.WSTATE [e.1 % 9] e.2
    else t.wr (Pg.die ((e.1 - 1000) / 5)) Reg.Die.RB_WSTATE [(e.1 - 1000) % 5] e.2) t

/-- The dies are released if the die firmware of the booted bank is verified (R440). -/
def State.releaseDies (s : State) (b : Nat) : State :=
  let img := (s.flash.bank b).die
  if s.imageErr 2 img = 0 then
    let t : State := { s with heldDies := [], running := { s.running with dies := List.replicate 4 (imageDigest img) } }
    (t.wr Pg.security Reg.Security.DIEFW_OK [] 15).wr Pg.security Reg.Security.RUN_SVN_DIE [] (imageSvn img)
  else { s with heldDies := [0, 1, 2, 3] }

/-- Hub firmware of bank `b` runs, from step 3 of the sequence on. -/
def State.bootBankRuns (s : State) (b : Nat) (fails : List SoundUnit) : State :=
  let g := Pg.security
  let img := (s.flash.bank b).hub
  let t := (s.wr g Reg.Security.BOOT_BANK [] b).wr g Reg.Security.BOOT_ERR [] (s.imageErr 1 (s.flash.bank (1 - b)).hub)
  let t := (t.wr g Reg.Security.ACTIVE_SLOT [] (leAt img 0x10 1)).wr g Reg.Security.RUN_SVN_HUB [] (imageSvn img)
  let t : State := { t with running := { t.running with hub := imageDigest img, revoke := leAt img 0x11 1 } }
  let t : State := if t.skipsTest then t else { t with flash := fails.foldl (fun f u => f.fail t.physCore u) t.flash }
  let t := t.applyRepairs.releaseDies b
  let t := t.wr g Reg.Security.CERT_OK [] (bit !t.flash.cert.isEmpty)
  let t := t.wr Pg.selfTest Reg.SelfTest.LOGSEQ [] ((t.flash.lastTest.map fun b => leAt b 4 4).getD 0)
  if 1 ≤ t.lc then t.showDik t.dikPub else t

/-- The boot sequence from step 2: the ROM reads fuses and flash, the rest follows. -/
def State.bootUp (s : State) (fails : List SoundUnit) : State :=
  let g := Pg.security
  let f := s.fuses
  let lc := s.power.lc.getD f.lc
  let t : State := { s with power := { s.power with lc := some lc } }
  let t := ((t.wr g Reg.Security.LCSTATE [] lc).wr g Reg.Security.REVOKED [] f.revoked).wr g Reg.Security.SVN_HUB [] f.svnHub
  let t := (t.wr g Reg.Security.SVN_DIE [] f.svnDie).drawNonce
  match if lc = 4 then none else t.pickBank with
  | some b => t.bootBankRuns b fails
  | none => { t with recovery := true, heldDies := [0, 1, 2, 3] }

/-- BOOT (R461), once after each reset. -/
def execBoot (fails : List SoundUnit) (s : State) : Host.Outcome State Fault Refusal :=
  .next (if !s.power.rails || !s.locked || s.recovery || !s.running.hub.isEmpty then s else s.bootUp fails)

end Sys2Proof.Machine
end

