-- ==== Sys2Proof/Machine/Freeze.lean ====
section
/-! DEFINITION. Slack freeze, thaw and the sync input (R462 to R470). -/

namespace Sys2Proof.Machine

/-- FREEZE_N (R462): after a freeze that the pin requested, the pin must be high before it requests another. -/
def execFreezeN (low : Bool) (s : State) : Host.Outcome State Fault Refusal :=
  .next <|
    if !s.power.rails then { s with freeze := { s.freeze with pinUsed := false } }
    else if !low then { s with freeze := { s.freeze with pinUsed := false } }
    else if s.rd Pg.slack Reg.Slack.PIN_FN ≠ 0 ∨ s.freeze.pinUsed then s
    else ({ s with freeze := { s.freeze with pinUsed := true } } : State).requestFreeze 0

/-- SYNC_EDGE (R470, R480). -/
def execSyncEdge (s : State) : Host.Outcome State Fault Refusal :=
  let g := Pg.slack
  .next <|
    if s.frozen || !s.power.rails || s.rd g Reg.Slack.PIN_FN != 1 then s
    else
      let t := s.wr2 g Reg.Slack.SYNC_STAMP_LO Reg.Slack.SYNC_STAMP_HI [] s.timestamp
      if t.rd Pg.trace Reg.Trace.SNAP_SYNC = 1 then t.triggerSnap 1 else t

/-- A write of FREEZE requests a freeze; one made during a freeze is ignored and counted. -/
def State.freezeWritten (s : State) : State :=
  if !s.power.rails ∨ s.recovery then s
  else (if s.frozen then s else s.drainGather).requestFreeze 1

/-- FREEZE (R462). -/
def execFreeze (s : State) : Host.Outcome State Fault Refusal := .next s.freezeWritten

/-! The freeze edge (R463). -/

/-- LPDDR5X bursts between command and data: device, byte within the device, data. -/
def State.bursts (s : State) : List (Nat × Nat × List Byte) :=
  (s.reqs.filter fun r => r.sent && !r.write && regionOf r.addr == .lpddr && s.slotTime < r.ready).flatMap fun r =>
    (linesOf r.addr r.len).filterMap fun l =>
      (s.phys l).map fun p => (p / 2 ^ 36, p % 2 ^ 36, s.bytesAt l 64)

/-- Readout address of a slot of a device's capture buffer: data, or its tag (R464). -/
def captureAddr (dev tag slot : Nat) : Nat := 6 * 2 ^ 44 + dev * 2 ^ 13 + tag * 2 ^ 12 + slot * 2 ^ 6

/-- Capture the bursts of one device, in order. -/
def State.captureDev (s : State) (bs : List (Nat × Nat × List Byte)) (dev : Nat) : State :=
  (((bs.filter fun b => b.1 == dev).take 64).zipIdx).foldl (fun t e =>
    let a := captureAddr dev 0 e.2
    let tag := captureAddr dev 1 e.2
    let put := fun (b : Nat) (l : List Byte) => l.zipIdx.map fun x => (b + x.2, x.1)
    t.poke (put a e.1.2.2 ++ put tag (natBytes 5 e.1.2.1 ++ [1]))) s

/-- The keepers' capture buffers hold exactly the bursts of this freeze. -/
def State.capture (s : State) : State :=
  let t : State := { s with mem := s.mem.filter fun e => e.1 / 2 ^ 44 != 6 }
  (List.range 32).foldl (fun t d => t.captureDev s.bursts d) t

/-- FROZEN of every page. -/
def State.showFrozen (s : State) (b : Bool) : State := allPages.foldl (fun t n => t.wr n Reg.Common.FROZEN [] (bit b)) s

/-- An isolated freeze takes the module's own ports down (R466). -/
def State.isolate (s : State) : State :=
  if s.rd Pg.slack Reg.Slack.FRZ_MODE = 1 then s
  else (List.range 16).foldl (fun t p =>
    if t.portUp p then (t.setPort p (t.port p).cleared).wr (Pg.ferry p) Reg.Ferry.PSTATE [] 0 else t) s

/-- The freeze edge has come: an even edge, 40 SCLK or more after the request (R462). -/
def State.freezeDue (s : State) : Bool :=
  s.timestamp % 2 == 0 && s.freeze.asked.any fun a => a + 40 ≤ s.timestamp

/-- FREEZE_EDGE (R462, R463). -/
def execFreezeEdge (s : State) : Host.Outcome State Fault Refusal :=
  let g := Pg.slack
  .next <|
    if s.rd g Reg.Slack.FSTATE != 1 || s.frozen || !s.wheel.turns || !s.freezeDue then s
    else
      let t := (s.wr g Reg.Slack.FSTATE [] 2).wr2 g Reg.Slack.FRZ_STAMP_LO Reg.Slack.FRZ_STAMP_HI [] s.timestamp
      let t : State := { t with frozen := true }
      (t.capture.isolate.showFrozen true).setEvent g

/-! Thaw (R469). -/

/-- A write of THAW: without effect on an isolated freeze (R466). -/
def State.thawWritten (s : State) : State :=
  let g := Pg.slack
  if !s.frozen ∨ s.rd g Reg.Slack.FSTATE ≠ 2 ∨ s.rd g Reg.Slack.FRZ_MODE ≠ 1 then s
  else
    let gen := s.rd g Reg.Slack.FGEN
    let t : State := { s with freeze := { s.freeze with thawed := s.freeze.thawed ++ [gen] } }
    (t.wr g Reg.Slack.FSTATE [] 3).flood (freezeCross 2 gen (s.rd g Reg.Slack.FINIT) s.modId) none

/-- THAW (R469). -/
def execThaw (s : State) : Host.Outcome State Fault Refusal := .next s.thawWritten

/-- THAW_RESTART (R469): the dividers restart on the edge where they stopped; `qclk` is the length of the freeze. What the
links and the ingest ports have kept is delivered. -/
def execThawRestart (qclk : Nat) (s : State) : Host.Outcome State Fault Refusal :=
  let g := Pg.slack
  .next <|
    if !s.frozen || s.rd g Reg.Slack.FSTATE != 3 then s
    else
      let t : State := { s with frozen := false, freeze := { s.freeze with asked := none } }
      let t := (t.wr g Reg.Slack.FSTATE [] 0).wr g Reg.Slack.FROZEN_QCLK [] (min qclk 0xFFFFFFFF)
      let t := (t.showFrozen false).setEvent g
      if t.hold.now.isSome then t else t.drainRxAll.drainIngest

/-- SLACK_SCAN (R465): the chain recirculates, so that every flop is back at its frozen value; what the port shifts out is
no state of the module, and the chain directory that would name its bits lies in the die firmware. -/
def execSlackScan (_chain : BitVec 16) (s : State) : Host.Outcome State Fault Refusal := .next s

end Sys2Proof.Machine
end

