-- ==== Sys2Proof/Machine/RegCmd.lean ====
section
/-! DEFINITION. Reads and writes of registers: the BAR0 space, read-clear fields, latched counters, the common area, the page
map (R17, R179, R180, R267, R416, R463, R473, R497 to R505). -/

namespace Sys2Proof.Machine

/-! Words that show other state. -/

/-- A waiter as the wait list shows it (R292): die, cluster, core, gate or slot, kind, claimer, time left. -/
def waiterWord (slot : Nat) (w : Waiter) : Nat :=
  let who := match w.who with
    | .gate c g => c / 64 + c / 8 % 8 * 2 ^ 3 + c % 8 * 2 ^ 6 + g * 2 ^ 9
    | .host _ _ => 4 + 2 * 2 ^ 14
    | _ => 4 + slot * 2 ^ 9 + 2 ^ 14
  let left := match w.left with
    | some n => min 0x7FFF (n / 32768)
    | none => 0x7FFF
  who + bit w.claim * 2 ^ 16 + left * 2 ^ 17

/-- Word `o` of the wait list that WL_SEL selects. -/
def State.waitListWord (s : State) (o : Nat) : Word :=
  let slot := (o - 0x140) / 8
  match (s.landing (s.rd Pg.landings Reg.Landings.WL_SEL)).waiters.find? fun e => e.1 == slot with
  | some e => if o % 8 = 0 then BitVec.ofNat 32 (waiterWord slot e.2) else e.2.v
  | none => 0

/-- The entry of a corrected-error log that CEL_DEV and CEL_ENT select (R411). -/
def State.celWord (s : State) (d : Nat) : Word :=
  let g := Pg.die d
  match (sget (fun _ => []) s.cel (8 * d + s.rd g Reg.Die.CEL_DEV))[s.rd g Reg.Die.CEL_ENT]? with
  | some (ppn, n, ue) => BitVec.ofNat 32 (ppn % 2 ^ 15 + min 255 n * 2 ^ 15 + bit ue * 2 ^ 23 + 2 ^ 24)
  | none => 0

/-- Word `o` of the zero-map record that ZMAP_INDEX selects (R106). -/
def State.zmapWord (s : State) (c o : Nat) : Word :=
  let r := sget (fun _ => (0 : BitVec 128)) s.zmap (s.zmapKey c (s.rd (Pg.core c) Reg.Core.ZMAP_INDEX))
  r.extractLsb' (8 * (o - 0x310)) 32

/-- Word of class `l` of a core page (R77): HIGH is not below OUT. -/
def State.classWord (s : State) (n l : Nat) : Word :=
  putField (s.word n (0x180 + 4 * l)) Reg.Core.HIGH (max (s.rd n Reg.Core.HIGH [l]) (s.rd n Reg.Core.OUT [l]))

/-- Core of a core page. -/
def pageCore (n : Nat) : Nat := 64 * pageDie n + ((n - 0x100) % 0x80 - 0x10)

/-- The value of a word as a read sees it. -/
def State.seen (s : State) (n o : Nat) : Word :=
  match pageKind n with
  | some .landings => if 0x140 ≤ o ∧ o < 0x1C0 then s.waitListWord o else s.word n o
  | some .core =>
    if 0x310 ≤ o ∧ o < 0x320 then s.zmapWord (pageCore n) o
    else if 0x180 ≤ o ∧ o < 0x190 then s.classWord n ((o - 0x180) / 4) else s.word n o
  | some .die => if o = 0x1C4 then s.celWord (pageDie n) else s.word n o
  | some _ => s.word n o
  | none => 0

/-! Reads (R17, R267, R499). -/

/-- Offset of the HI word that a read of the LO word at `o` latches. -/
def hiOf (n o : Nat) : Option Nat :=
  let lo := if 0x040 ≤ o ∧ o < 0x080 then o % 8 == 0
    else match pageKind n with
      | some .holds => Reg.Holds.COUNT_LO.at o || Reg.Holds.SCLK_LO.at o
      | some .clocks => Reg.Clocks.TIMESTAMP_LO.at o
      | some .hubAcct => Reg.HubAcct.FWD_LO.at o || Reg.HubAcct.HUB_ENERGY_LO.at o
      | some .acct => Reg.Acct.CNT_LO.at o || Reg.Acct.FIN_LO.at o
      | some .core => Reg.Core.STALL_LO_500.at o || Reg.Core.STALL_LO_460.at o
      | some .cluster => Reg.Clu.STALL_LO.at o
      | _ => false
  if lo && (pageKind n).isSome then some (o + 4) else none

/-- Pages that are served on QCLK during a freeze (R463). -/
def servedFrozen (n : Nat) : Bool := n == Pg.clocks || n == Pg.slack

/-- The page is served: no other than the clock and Slack pages change by a read during a freeze. -/
def State.serves (s : State) (n : Nat) : Bool := !s.frozen || servedFrozen n

/-- A read of a LO word latches its HI word. -/
def State.latchHi (s : State) (n o : Nat) : State :=
  match hiOf n o with
  | some h => { s with hiLatch := (regKey n h, s.seen n h) :: s.hiLatch.filter fun e => e.1 != regKey n h }
  | none => s

/-- A read of a word clears its RC fields. -/
def State.clearRc (s : State) (n o : Nat) : State :=
  let m := maskOf n o (·.acc == .rc)
  if m = 0 then s else s.setWord n o (s.word n o &&& ~~~m)

/-- The value that a read answers: a latched HI word, else the word. -/
def State.readValue (s : State) (n o : Nat) : Word × State :=
  match s.hiLatch.find? fun e => e.1 == regKey n o with
  | some e => (e.2, { s with hiLatch := s.hiLatch.filter fun x => x.1 != regKey n o })
  | none => (s.seen n o, s)

/-- A read of the word at offset `o` of page `n`. -/
def State.readReg (s : State) (n o : Nat) : State :=
  if !s.power.rails || s.recovery then s
  else if !s.serves n then { s with outWord := s.seen n o }
  else
    let r := s.readValue n o
    { (r.2.latchHi n o).clearRc n o with outWord := r.1 }

/-- A word of BAR0 beyond the register pages (R416): a page-map entry, which reads as last written (R180); a word of a landing
object (R272); zero elsewhere. -/
def State.barWord (s : State) (off : Nat) : Word :=
  if off < 0xA00000 then sget (fun _ => 0) s.pmap ((off - 0x800000) / 4)
  else if 0x1000000 ≤ off ∧ off < 0x1080000 then
    BitVec.ofNat 32 (dword (s.landing ((off - 0x1000000) / 64)).bytes (off % 64))
  else 0

/-- A read of an aligned word of BAR0. -/
def State.readBar (s : State) (off : Nat) : State :=
  if off < 0x800000 then s.readReg (off / 4096) (off % 4096)
  else if !s.power.rails || s.recovery then s
  else { s with outWord := s.barWord off }

/-- READ_CLEAR (R416, R499): the word at an offset of BAR0 is returned and its RC fields are cleared. A read of less than a whole
word is an unsupported request. -/
def execReadClear (page : BarPage) (o : PageByte) (s : State) : Host.Outcome State Fault Refusal :=
  .next (if o.val % 4 = 0 then s.readBar (4096 * page.val + o.val) else s)

/-- COUNTER_LO_READ (R267): the word is returned and its HI word latched. A word that is no counter's LO word has no such
read. -/
def execCounterLoRead (page : PageId) (word : WordId) (s : State) : Host.Outcome State Fault Refusal :=
  .next (if (hiOf page.val (4 * word.val)).isSome then s.readReg page.val (4 * word.val) else s)

/-! Event counters (R473, R500). -/

/-- EVCNTi is set to zero. -/
def State.clearCounter (s : State) (n i : Nat) : State :=
  (s.wr n Reg.Common.EVCNT [2 * i] 0).wr n Reg.Common.EVCNT [2 * i + 1] 0

def State.clearCounters (s : State) (n : Nat) : State := (List.range 8).foldl (fun t i => t.clearCounter n i) s

/-- CLR_ALL (R500). -/
def execClrAll (page : PageId) (s : State) : Host.Outcome State Fault Refusal :=
  .next (s.written fun s => if (pageKind page.val).isNone then s else s.clearCounters page.val)

/-- EVSEL_CLR (R473). -/
def execEvselClr (page : PageId) (n : EvId) (s : State) : Host.Outcome State Fault Refusal :=
  .next (s.written fun s => if (pageKind page.val).isNone then s else s.clearCounter page.val n.val)

/-! The page map (R179, R180). -/

/-- A write to entry `e`: it reads back at once and translates 64 SCLK later. -/
def State.writeEntry (s : State) (e : Nat) (v : Word) : State :=
  let w := v &&& 0x1FFFFF
  { s with pmap := sset (fun _ => 0) s.pmap e w, pmapPend := s.pmapPend ++ [(e, w, 64)] }

/-- The oldest pending write takes effect once its 64 SCLK edges have passed. -/
def State.entryEffect (s : State) : State :=
  match s.pmapPend with
  | (_, _, _ + 1) :: _ => s
  | (e, w, 0) :: r => { s with pmapEff := sset (fun _ => 0) s.pmapEff e w, pmapPend := r }
  | [] => s

/-- PAGE_MAP_EFFECT (R180). -/
def execPageMapEffect (s : State) : Host.Outcome State Fault Refusal := .next (if s.frozen then s else s.entryEffect)

/-! Writes (R17, R504). -/

/-- Bit `i` of a written word does `f`. -/
def onBit (v : Word) (i : Nat) (f : State → State) (s : State) : State := if v.getLsbD i then f s else s

/-- The zero-map store of a core is cleared (R106). -/
def State.clearZmap (s : State) (c : Nat) : State :=
  { s with zmap := s.zmap.filter fun e => e.1 / 4096 != s.zmapKey c 0 / 4096 }

/-- What writing 1 to the WO bits of a word does, ascending bit by bit. ADMIT and SHUTDOWN take findings from outside, and
act through their own commands only. -/
def State.trigger (s : State) (n o : Nat) (v : Word) : State :=
  let p := (n - 0x040) / 4
  let r := (o - 0x100) / 32
  match pageKind n with
  | some .commit =>
    if o = 0x100 then
      onBit v 3 State.discardEvery (onBit v 2 State.abortCommit (onBit v 1 (·.startCheck true) (onBit v 0 (·.startCheck false) s)))
    else s
  | some .clocks => if o = 0x120 then onBit v 0 (·.moduleReset 2) (onBit v 1 State.kick s) else s
  | some .slack => if o = 0x10C then onBit v 1 State.thawWritten (onBit v 0 (·.requestFreeze 1) s) else s
  | some .security =>
    if o = 0x108 then
      onBit v 3 State.updateFromMemory (onBit v 2 State.submitToken (onBit v 1 State.provisionMe (onBit v 0 State.svnRaise s)))
    else s
  | some .polders => if Reg.Polders.DRAIN.at o then onBit v 0 (·.drainPolder ((o - 0x114) / 16)) s else s
  | some .selfTest => if o = 0x100 then onBit v 1 State.cancelTest s else if o = 0x108 then s.engEn v else s
  | some .trace => if o = 0x11C then onBit v 0 (·.triggerSnap 0) s else s
  | some .manifest =>
    if Reg.Manifest.GO.at o then
      onBit v 0 (fun s =>
        if s.rd Pg.manifest Reg.Manifest.BUSY [r] = 1 then s.wr Pg.manifest Reg.Manifest.MF_ERR [r] 5
        else s.startManifest r .none) s
    else s
  | some .wharf => if o = 0x148 then s.probe v.toNat else s
  | some .program => if o = 0x110 then onBit v 0 (·.load p) s else s
  | some .staithe =>
    if o = 0x170 then onBit v 2 (·.abandonWritten p) (onBit v 1 (·.sendShard p .none) (onBit v 0 (·.restoreGo p .none) s)) else s
  | some .core => if o = 0x30C then onBit v 31 (·.clearZmap (pageCore n)) s else s
  | _ => s

/-- The lifecycle permits writes of a page's RWL fields: the self-test page in BLANK and RETURN (R409), PROVISION in BLANK
(R452). -/
def State.rwlOpen (s : State) (n : Nat) : Bool :=
  (n == Pg.selfTest && (s.lc == 0 || s.lc == 3)) || (n == Pg.security && s.lc == 0)

/-- Bits a write changes at once: RW fields, and RWL fields while the lifecycle permits. -/
def State.writable (s : State) (n o : Nat) : Word := maskOf n o fun f => f.acc == .rw || (f.acc == .rwl && s.rwlOpen n)

/-- A write at a word's live offset, from 0x100 on. -/
def State.writeLive (s : State) (n o : Nat) (v : Word) : State :=
  let t := s.hostStage n o v
  let w := maskedPut (t.word n o) (t.writable n o) v
  let w := w &&& ~~~(maskOf n o (·.acc == .w1c) &&& v)
  (t.setWord n o w).trigger n o v

/-- OVF of INTR_STATUS follows the OVF bits of EVSEL0 to EVSEL7. -/
def State.noteOvf (s : State) (n : Nat) : State :=
  s.wr n Reg.Common.OVF [] (bit ((List.range 8).any fun i => s.rd n Reg.Common.EVSEL_OVF [i] == 1))

/-- The fault record of a page is cleared (R502). -/
def State.clearFault (s : State) (n : Nat) : State :=
  let t := (((s.setWord n 0x010 0).setWord n 0x014 0).setWord n 0x018 0).setWord n 0x01C 0
  (t.wr n Reg.Common.FAULT_008 [] 0).wr n Reg.Common.FAULT_080 [] 0

/-- A write to the common area. -/
def State.writeCommon (s : State) (n o : Nat) (v : Word) : State :=
  if o = 0x00C then
    onBit v 1 (·.clearCounters n) (onBit v 0 (·.discardOne n) (s.wr n Reg.Common.EVSTOP [] (bits v.toNat 2 2)))
  else if o = 0x010 then
    if v.getLsbD 31 then s.clearFault n else onBit v 30 (fun s => s.wr n Reg.Common.FC_MULTI [] 0) s
  else if 0x020 ≤ o ∧ o < 0x040 then
    let i := (o - 0x020) / 4
    let t := s.setWord n o (maskedPut (s.word n o) 0x00070FFF v)
    (onBit v 20 (fun s => s.wr n Reg.Common.EVSEL_OVF [i] 0) (onBit v 19 (·.clearCounter n i) t)).noteOvf n
  else if o = 0x080 then onBit v 2 (fun s => s.wr n Reg.Common.EVENT [] 0) s
  else if o = 0x084 then
    let t := s.wr n Reg.Common.ENABLE [] (bits v.toNat 2 0)
    if t.irq n then t.toHost (.msix (t.vecOf n)) else t
  else s

/-- A write to a word of a register page. -/
def State.writePage (s : State) (n o : Nat) (v : Word) : State :=
  if (pageKind n).isNone then s
  else if o < 0x100 then s.writeCommon n o v
  else if o < 0x800 then s.writeLive n o v
  else if o < 0xF00 then s.hostStage n (o - 0x700) v
  else s

/-- A write at an offset of BAR0: the pages, the page map; every other range ignores it. -/
def State.writeBar (s : State) (off : Nat) (v : Word) : State :=
  if off % 4 ≠ 0 then s
  else if off < 0x800000 then s.writePage (off / 4096) (off % 4096) v
  else if off < 0xA00000 then s.writeEntry ((off - 0x800000) / 4) v
  else s

/-- During a freeze only THAW, RO_EN and RO_BASE are written; FREEZE is counted as ignored (R462, R463). -/
def State.writeFrozen (s : State) (off : Nat) (v : Word) : State :=
  let g := Pg.slack
  if off = 4096 * g + 0x10C then
    onBit v 1 State.thawWritten (onBit v 0 (·.requestFreeze 1) (s.wr g Reg.Slack.RO_EN [] (bits v.toNat 2 2)))
  else if off = 4096 * g + 0x128 then s.wr g Reg.Slack.RO_BASE [] v.toNat
  else s

/-- REGISTER_WRITE (R504): a write of a word at an offset of BAR0. -/
def execRegisterWrite (off : BitVec 25) (v : Word) (s : State) : Host.Outcome State Fault Refusal :=
  .next (if s.frozen then s.writeFrozen off.toNat v else s.written fun s => s.writeBar off.toNat v)

end Sys2Proof.Machine
end

