-- ==== Sys2Proof/Machine/Sluice.lean ====
section
/-! DEFINITION. Sluice queues and update units: job descriptors, the updates of AdamW, Lion and SGD, completions (R336 to
R350, R363, R364). -/

namespace Sys2Proof.Machine

/-! Job descriptors (R338, R339). -/

structure SluiceDesc where
  opt   : Nat
  nest  : Bool
  gbf   : Bool
  mfmt  : Nat
  mmx   : Bool
  vfmt  : Nat
  vmx   : Bool
  mrnd  : Bool
  vrnd  : Bool
  sat   : Bool
  gsrc  : Bool
  cvm   : Bool
  lden  : Bool
  /-- Elements. -/
  n     : Nat
  p     : Nat
  g     : Nat
  m     : Nat
  ms    : Nat
  v     : Nat
  vs    : Nat
  gsa   : Nat
  tidP  : Word
  tidM  : Word
  tidV  : Word
  idx   : Nat
  lr    : Word
  b1    : Word
  b2    : Word
  eps   : Word
  wd    : Word
  bc1   : Word
  bc2   : Word
  gs    : Word
  ldone : Nat
  xm    : Nat
  xv    : Nat
  deriving DecidableEq, Repr

def sluiceDesc (d : List Byte) : SluiceDesc :=
  let w := fun o => dword d o
  let f := fun o => BitVec.ofNat 32 (dword d o)
  let a := fun o => w o + bits (w (o + 4)) 15 0 * 2 ^ 32
  let c := fun i => bits (w 0) i i = 1
  { opt := bits (w 0) 3 0, nest := c 4, gbf := c 5, mfmt := bits (w 0) 9 6, mmx := c 10, vfmt := bits (w 0) 14 11
    vmx := c 15, mrnd := c 16, vrnd := c 17, sat := c 18, gsrc := c 19, cvm := c 20, lden := c 21, n := w 4 + 1
    p := a 8, g := a 0x10, m := a 0x18, ms := a 0x20, v := a 0x28, vs := a 0x30, gsa := a 0x38, tidP := f 0x40
    tidM := f 0x44, tidV := f 0x48, idx := w 0x4C + bits (w 0x50) 7 0 * 2 ^ 32, lr := f 0x54, b1 := f 0x58, b2 := f 0x5C
    eps := f 0x60, wd := f 0x64, bc1 := f 0x68, bc2 := f 0x6C, gs := f 0x70, ldone := bits (w 0x74) 12 0
    xm := bits (w 0x78) 7 0, xv := bits (w 0x78) 15 8 }

/-- Bits of the word at byte `o` that a job uses. -/
def sluiceMask (x : SluiceDesc) (o : Nat) : Nat :=
  let adam := x.opt == 1
  let word := fun (b : Bool) => if b then 0xFFFFFFFF else 0
  let high := fun (b : Bool) => if b then 0xFFFF else 0
  match o with
  | 0x00 => 0x3D07EF + (if x.opt = 3 then 0x10 else 0) + (if adam then 0x2F800 else 0)
  | 0x04 | 0x08 | 0x10 | 0x18 | 0x40 | 0x44 | 0x4C | 0x54 | 0x58 | 0x64 => 0xFFFFFFFF
  | 0x0C | 0x14 | 0x1C => 0xFFFF
  | 0x20 => word x.mmx
  | 0x24 => high x.mmx
  | 0x28 | 0x48 | 0x60 | 0x68 | 0x6C => word adam
  | 0x2C => high adam
  | 0x30 => word x.vmx
  | 0x34 => high x.vmx
  | 0x38 => word x.gsrc
  | 0x3C => high x.gsrc
  | 0x50 => 0xFF
  | 0x5C => word (x.opt != 3)
  | 0x70 => word !x.gsrc
  | 0x74 => 0x1FFF
  | 0x78 => 0xFFFF
  | _ => 0

/-- A moment format of R338 with its MX setting and tensor scale. -/
def momentOk (code : Nat) (mx : Bool) (x : Nat) : Bool :=
  (code == 0x0 || code == 0x2 || code == 0x3 || code == 0x7) && mxFits (fmtD code) mx
    && (x == 0x7F || (!mx && (code == 0x2 || code == 0x3)))

/-- A descriptor that is not malformed in itself. -/
def sluiceOk (d : List Byte) : Bool :=
  let x := sluiceDesc d
  1 ≤ x.opt && x.opt ≤ 3
    && (List.range 32).all (fun i => dword d (4 * i) &&& (0xFFFFFFFF - sluiceMask x (4 * i)) == 0)
    && momentOk x.mfmt x.mmx x.xm
    && (if x.opt = 1 then momentOk x.vfmt x.vmx x.xv else x.xv == 0x7F)
    && x.p % 4096 == 0

/-! Parameter blocks and their units (R336, R340). -/

/-- Parameter blocks of a job. -/
def SluiceDesc.blocks (x : SluiceDesc) : Nat := (x.n + 2047) / 2048

/-- The unit that owns the 4 KiB block at `a`: die and number; none where nothing is mapped. -/
def State.sluiceUnit (s : State) (a : Nat) : Option (Nat × Nat) :=
  match regionOf a with
  | .sst => some (bits (a - sstBase) 33 32, bits (a - sstBase) 12 12)
  | .lpddr => (s.lpPage a).map fun e => (e.1 / 8, 2 + e.1 / 4 % 2)
  | _ => none

/-- No parameter block is owned by a unit outside polder `p`. -/
def State.sluiceInside (s : State) (x : SluiceDesc) (p : Nat) : Bool :=
  (List.range x.blocks).all fun k =>
    match s.sluiceUnit ((x.p + 4096 * k) % 2 ^ 48) with
    | some u => s.polderOfDie u.1 == p
    | none => true

/-- An array of a job: its code of R363, base address, and bytes of its first `n` elements. -/
structure SluiceArr where
  code : Nat
  base : Nat
  size : Nat → Nat

/-- The arrays that a job uses. -/
def SluiceDesc.arrays (x : SluiceDesc) : List SluiceArr :=
  [⟨0, x.p, (2 * ·)⟩, ⟨1, x.g, fun n => (if x.gbf then 2 else 4) * n⟩, ⟨2, x.m, fun n => n * (fmtD x.mfmt).bits / 8⟩]
    ++ (if x.opt = 1 then [⟨3, x.v, fun n => n * (fmtD x.vfmt).bits / 8⟩] else [])
    ++ (if x.mmx then [⟨4, x.ms, fun n => ceilDiv n 32⟩] else [])
    ++ (if x.vmx then [⟨5, x.vs, fun n => ceilDiv n 32⟩] else [])

/-- Watched ranges: array code, first and last byte (R347). -/
def SluiceDesc.ranges (x : SluiceDesc) : List (Nat × Nat × Nat) :=
  (x.arrays.map fun a => (a.code, bounding a.base (a.size x.n) 0 0 0 0))
    ++ (if x.gsrc then [(6, bounding x.gsa 4 0 0 0 0)] else [])

/-- The bytes of array `a` that belong to elements lo to hi − 1. -/
def SluiceArr.span (a : SluiceArr) (lo hi : Nat) : Nat × Nat := ((a.base + a.size lo) % 2 ^ 48, a.size hi - a.size lo)

/-! The update (R341 to R346). -/

/-- One rounding to binary32 of a result none of whose inputs, or one (`nan`), is NaN, with the events of R127. -/
def vf (nan : Bool) (v : FVal) : FVal × FpEvents := let r := roundVe nan v; (f32 r.1, r.2)
def fMul (a b : FVal) : FVal × FpEvents := vf (a.isNan || b.isNan) (a.mul b)
def fFma (a b c : FVal) : FVal × FpEvents := vf (a.isNan || b.isNan || c.isNan) ((a.mul b).add c)
def fSqrt (a : FVal) : FVal × FpEvents := vf a.isNan (sqrtVal a)
def fRcp (a : FVal) : FVal × FpEvents := vf a.isNan (rcpVal a)

/-- SIGN of R343. -/
def fSign : FVal → FVal
  | .nan => .nan
  | .inf n => .fin n 1 0
  | .fin n m _ => if m = 0 then .zero else .fin n 1 0

/-- New parameter and moments of one element, from its exact operands, and the events of its operations. -/
structure Updated where
  p  : FVal
  m  : FVal
  v  : FVal
  ev : FpEvents

/-- Events of several operations. -/
def eventsOf (l : List FpEvents) : FpEvents := l.foldl FpEvents.add FpEvents.none

/-- 1 − B, and −LR × WD, which a job forms once (R341). -/
def oneLess (b : Word) : FVal := (vf false (FVal.one.add (f32 b).neg)).1
def SluiceDesc.nlr (x : SluiceDesc) : FVal := (f32 x.lr).neg
def SluiceDesc.nlrwd (x : SluiceDesc) : FVal := (vf false (x.nlr.mul (f32 x.wd))).1

def SluiceDesc.adamw (x : SluiceDesc) (gs p grad m v : FVal) : Updated :=
  let g := fMul grad gs
  let a := fMul (oneLess x.b1) g.1
  let m1 := fFma (f32 x.b1) m a.1
  let gg := fMul g.1 g.1
  let b := fMul (oneLess x.b2) gg.1
  let v1 := fFma (f32 x.b2) v b.1
  let r := fSqrt v1.1
  let den := fFma r.1 (f32 x.bc2) (f32 x.eps)
  let c := fMul m1.1 (f32 x.bc1)
  let i := fRcp den.1
  let u := fMul c.1 i.1
  let p1 := fFma p x.nlrwd p
  let p2 := fFma x.nlr u.1 p1.1
  ⟨p2.1, m1.1, v1.1, eventsOf [g.2, a.2, m1.2, gg.2, b.2, v1.2, r.2, den.2, c.2, i.2, u.2, p1.2, p2.2]⟩

def SluiceDesc.lion (x : SluiceDesc) (gs p grad m : FVal) : Updated :=
  let g := fMul grad gs
  let a := fMul (oneLess x.b1) g.1
  let c := fFma (f32 x.b1) m a.1
  let p1 := fFma p x.nlrwd p
  let p2 := fFma x.nlr (fSign c.1) p1.1
  let b := fMul (oneLess x.b2) g.1
  let m1 := fFma (f32 x.b2) m b.1
  ⟨p2.1, m1.1, .zero, eventsOf [g.2, a.2, c.2, p1.2, p2.2, b.2, m1.2]⟩

def SluiceDesc.sgd (x : SluiceDesc) (gs p grad m : FVal) : Updated :=
  let g := fMul grad gs
  let g1 := fFma (f32 x.wd) p g.1
  let m1 := fFma (f32 x.b1) m g1.1
  let u := if x.nest then fFma (f32 x.b1) m1.1 g1.1 else (m1.1, FpEvents.none)
  let p2 := fFma x.nlr u.1 p
  ⟨p2.1, m1.1, .zero, eventsOf [g.2, g1.2, m1.2, u.2, p2.2]⟩

def SluiceDesc.update (x : SluiceDesc) (gs p grad m v : FVal) : Updated :=
  match x.opt with
  | 1 => x.adamw gs p grad m v
  | 2 => x.lion gs p grad m
  | _ => x.sgd gs p grad m

/-- The value of element `i` of a moment array, `sc` giving its scale byte. -/
def State.moment (s : State) (code : Nat) (mx : Bool) (base sbase x i : Nat) : FVal :=
  let f := fmtD code
  let v := f.decode (s.numAt (base + i * f.bits / 8) (f.bits / 8))
  if mx then scaled (s.byteAt ((sbase + i / 32) % 2 ^ 48)).toNat v
  else if code = 0 then v else scaled x v

/-- Encode a plain moment (R30, R345). SAT governs BF16 (R338); whether a plain FP8 moment saturates is one property of the
module (log entry 42). -/
def plainMoment (code x : Nat) (sat : Bool) (r : Rnd) (v : FVal) : Nat × FpEvents :=
  let f := fmtD code
  if code = 0 then f.encode r sat v
  else f.encode r Config.plainMomentSat (if x = 0xFF then FVal.nan else v.scale (127 - (x : Int)))

/-- The bytes of elements lo to lo + len − 1 of a moment array, their scale bytes, and the events of the conversions. -/
def momentBytes (code : Nat) (mx : Bool) (x : Nat) (sat sr : Bool) (key : BitVec 64) (step tid : Word) (idx : Nat)
    (vs : List FVal) : List Byte × List Byte × FpEvents :=
  let rnd := fun i => if sr then Rnd.sr (srHash key step tid ((idx + i) % 2 ^ 40)) else Rnd.rne
  if mx then
    let f := fmtD code
    let bs := (chunks 32 vs.length vs).zipIdx.map fun (b, j) =>
      let e := mxScale f b
      (b.zipIdx.map fun (v, i) => mxElem f e (rnd (32 * j + i)) v, BitVec.ofNat 8 e)
    (bs.flatMap fun b => b.1.map fun v => BitVec.ofNat 8 v.1, bs.map (·.2), eventsOf (bs.flatMap fun b => b.1.map (·.2)))
  else
    let es := vs.zipIdx.map fun (v, i) => plainMoment code x sat (rnd i) v
    (es.flatMap fun e => natBytes ((fmtD code).bits / 8) e.1, [], eventsOf (es.map (·.2)))

/-! Claims and faults. -/

/-- A fault of a queue in array `arr` at `a` (R363): KIND for an unmapped line, a failed check and parity. -/
def State.sluiceFault (s : State) (q arr code a : Nat) : State :=
  let put := fun (kind : Nat) => s.errReg Pg.sluiceQ Reg.SluiceQ.ERR Reg.SluiceQ.MULTI
    [(Reg.SluiceQ.KIND, kind), (Reg.SluiceQ.QUEUE, q), (Reg.SluiceQ.ARRAY, arr), (Reg.SluiceQ.ADDR_LO, a),
     (Reg.SluiceQ.ADDR_HI, a / 2 ^ 32)]
  let t := match code with
    | 0x03 => put 3
    | 0x46 => put 2
    | 0x49 => put 1
    | _ => s.noteStale code a
  t.queueFault Pg.sluiceQ 11 q (s.sluiceHome q) code a

def State.sluiceNext (s : State) (q i : Nat) : Nat := (i + 1) % 2 ^ s.rd Pg.sluiceQ Reg.SluiceQ.LOG2 [q]

/-- The queue claims again unless two of its jobs are not complete (R198, R337). -/
def State.sluiceReclaim (s : State) (q : Nat) : State :=
  if s.haltedQ.contains (.sluice q) ∨ s.rd Pg.sluiceQ Reg.SluiceQ.QEN [q] = 0
      ∨ 2 ≤ (s.sluice.filter fun j => j.q == q).length then s
  else s.hubRegister (s.rd Pg.sluiceQ Reg.SluiceQ.QLANDING [q]) 10 (.sluice q) true 0 none

/-- The granted job is taken from the ring. -/
def State.takeSluice (s : State) (q : Nat) : State :=
  let i := s.rd Pg.sluiceQ Reg.SluiceQ.HEAD [q]
  ({ s with granted := s.granted.filter fun w => w != .sluice q } : State).wr Pg.sluiceQ Reg.SluiceQ.HEAD [q] (s.sluiceNext q i)

/-- The job enters the queue with its comparators. -/
def State.startSluice (s : State) (q i : Nat) (d : List Byte) (gs : Word) : State :=
  let x := sluiceDesc d
  let p := s.polderOfCore (s.sluiceHome q)
  let slot := if s.sluice.any fun j => j.q == q && !j.ended && j.slot == 0 then 1 else 0
  let t := s.takeSluice q
  let t : State := { t with
    sluice := t.sluice ++ [⟨q, i, slot, d, s.runKey p, s.stepNo p, gs, 0, false, none⟩]
    hubCmp := t.hubCmp ++ x.ranges.map fun r => (cmpSluice q slot r.1, r.2.1, r.2.2) }
  t.sluiceReclaim q

/-- Requests of a job (R7, R254): of the unit `u` of a die at the die's port 10, or of the queue itself at port 8. -/
def State.sluiceTraffic (s : State) (q : Nat) (u : Option (Nat × Nat)) (write : Bool) (a n : Nat) : State :=
  let o : Owner := match u with
    | some (d, k) => ⟨d, 10, k⟩
    | none => ⟨0, 8, 8⟩
  s.traffic (Req.madeBy o (s.sluiceHome q % 256) 4 11 q 0 0 write) [(a, n)]

/-- Claim the granted job if its OPT is `opt` (R337, R339, R341). -/
def State.sluiceClaim (s : State) (q opt : Nat) : State :=
  if !s.granted.contains (.sluice q) then s
  else
    let who := s.sluiceHome q
    let i := s.rd Pg.sluiceQ Reg.SluiceQ.HEAD [q]
    let a := s.rd2 Pg.sluiceQ Reg.SluiceQ.RING_LO Reg.SluiceQ.RING_HI [q] + 128 * i
    match s.hubReadStop who a 128 false with
    | some none => s
    | some (some (c, b)) => (((s.takeSluice q).sluiceReclaim q).noteStale c b).queueFault Pg.sluiceQ 11 q who c b
    | none =>
      let s := s.sluiceTraffic q none false a 128
      let d := s.bytesAt a 128
      let x := sluiceDesc d
      if !sluiceOk d || !s.sluiceInside x (s.polderOfCore who) then
        ((s.takeSluice q).sluiceReclaim q).queueFault Pg.sluiceQ 11 q who 0x01 a
      else if x.opt ≠ opt then s
      else if !x.gsrc then s.startSluice q i d x.gs
      else
        match s.hubReadStop who x.gsa 4 x.cvm with
        | some none => s
        | some (some (c, b)) =>
          (((s.takeSluice q).sluiceReclaim q).partCheck c b x.gsa 4).sluiceFault q 6 (if c = 0x02 then 0x03 else c) b
        | none => (s.sluiceTraffic q none false x.gsa 4).startSluice q i d (BitVec.ofNat 32 (s.numAt x.gsa 4))

/-! Parameter blocks. -/

def SluiceJob.same (j k : SluiceJob) : Bool := j.q == k.q && j.idx == k.idx && j.slot == k.slot
def State.setSluice (s : State) (j : SluiceJob) : State :=
  { s with sluice := s.sluice.map fun k => if k.same j then j else k }

/-- The job's comparators are freed. -/
def State.freeSluiceCmp (s : State) (j : SluiceJob) : State := { s with hubCmp := s.hubCmp.filter fun c => !j.tags c.1 }

/-- A fault stops the job (R349). -/
def State.stopSluice (s : State) (j : SluiceJob) : State :=
  ({ s with sluice := s.sluice.filter fun k => !k.same j } : State).freeSluiceCmp j

/-- First access of elements lo to hi − 1 that does not go ahead: array, and the fault or a wait. A read of a void line is
UNMAPPED (R347). -/
def State.sluiceStop (s : State) (who : Nat) (x : SluiceDesc) (lo hi : Nat) : Option (Nat × Option (Nat × Nat)) :=
  match x.arrays.findSome? fun a =>
      (s.hubReadStop who (a.span lo hi).1 (a.span lo hi).2 x.cvm).map fun e =>
        (a.code, e.map fun f => (if f.1 = 0x02 then 0x03 else f.1, f.2)) with
  | some e => some e
  | none => (x.arrays.filter fun a => a.code != 1).findSome? fun a =>
      (s.hubWriteStop who (a.span lo hi).1 (a.span lo hi).2).map fun e => (a.code, some e)

/-- A write-back of the job by unit `u` of a die (unit 13 of R201). -/
def State.sluiceWrite (s : State) (j : SluiceJob) (die u arr a : Nat) (cvm : Bool) (bs : List Byte) : State :=
  if bs.isEmpty then s
  else
    let p := s.polderOfCore (s.sluiceHome j.q)
    let t := (s.acctMem p a bs.length true).sluiceTraffic j.q (some (die, u)) true a bs.length
    let r := t.store ⟨a, bs.map some, cvm, die, 0, 13, some (cmpSluice j.q j.slot 0), 0⟩
    match r.2 with
    | some b => ((r.1.stopSluice j).partCheck 0x46 b a bs.length).sluiceFault j.q arr 0x46 b
    | none => r.1

/-- INVALID and OVERFLOW of a unit are counted; no code of R475 selects them (log entry 57). -/
def State.sluiceEvents (s : State) (die u : Nat) (e : FpEvents) : State :=
  let k := 4 * die + u
  let n := sget (fun _ => (0, 0)) s.sluiceEv k
  { s with sluiceEv := sset (fun _ => (0, 0)) s.sluiceEv k (n.1 + e.invalid, n.2 + e.overflow) }

/-- Compute elements lo to hi − 1 and write them back; `die` and `u` are the owning unit. The block is in flight until its writes
are accepted (R364). -/
def State.sluiceBlock (s : State) (j : SluiceJob) (x : SluiceDesc) (lo hi die u : Nat) : State :=
  let step := BitVec.ofNat 32 j.step
  let ix := (List.range (hi - lo)).map (lo + ·)
  let gb := if x.gbf then 2 else 4
  let grads := ix.map fun i => (if x.gbf then Fmt.bf16 else Fmt.fp32).decode (s.numAt (x.g + gb * i) gb)
  let out := (ix.zip grads).map fun (i, g) =>
    x.update (f32 j.gs) (Fmt.bf16.decode (s.numAt (x.p + 2 * i) 2)) g (s.moment x.mfmt x.mmx x.m x.ms x.xm i)
      (if x.opt = 1 then s.moment x.vfmt x.vmx x.v x.vs x.xv i else .zero)
  let ps := (out.zip ix).map fun (o, i) =>
    Fmt.bf16.encode (.sr (srHash j.key step x.tidP ((x.idx + i) % 2 ^ 40))) x.sat o.p
  let pb := ps.flatMap fun e => natBytes 2 e.1
  let mb := momentBytes x.mfmt x.mmx x.xm x.sat x.mrnd j.key step x.tidM (x.idx + lo) (out.map (·.m))
  let vb := if x.opt = 1 then momentBytes x.vfmt x.vmx x.xv x.sat x.vrnd j.key step x.tidV (x.idx + lo) (out.map (·.v))
    else ([], [], FpEvents.none)
  let t := x.arrays.foldl (fun t a =>
    (t.acctMem (t.polderOfCore (t.sluiceHome j.q)) (a.span lo hi).1 (a.span lo hi).2 false).sluiceTraffic j.q (some (die, u)) false
      (a.span lo hi).1 (a.span lo hi).2) s
  let t := x.arrays.foldl (fun t a =>
    let b := match a.code with
      | 0 => pb
      | 2 => mb.1
      | 3 => vb.1
      | 4 => mb.2.1
      | 5 => vb.2.1
      | _ => []
    t.sluiceWrite j die u a.code (a.span lo hi).1 x.cvm b) t
  let bad := (grads.filter fun v => v.isNan || v.isInf).length
  let ev := (eventsOf ((out.map (·.ev)) ++ ps.map (·.2))).add (mb.2.2.add vb.2.2)
  let t := (t.sluiceEvents die u ev).count (Pg.die die) Reg.Die.NONFINITE [u] bad
  (t.setSluice { j with flight := some (die, u, hi - lo) }).sluiceAccepted

/-- Completions are signalled in ring order (R349). -/
def State.sluiceSignals (s : State) (q : Nat) : Nat → State
  | 0 => s
  | f + 1 =>
    let i := s.rd Pg.sluiceQ Reg.SluiceQ.DONE [q]
    match s.sluice.find? fun j => j.q == q && j.idx == i && j.ended with
    | none => s
    | some j =>
      let x := sluiceDesc j.desc
      let full := 2 ≤ (s.sluice.filter fun k => k.q == q).length
      let t : State := { s with sluice := s.sluice.filter fun k => !(k.same j && k.ended) }
      let t := if x.lden then t.hubSignal x.ldone 10 12 q else t
      let t := t.wr Pg.sluiceQ Reg.SluiceQ.DONE [q] (t.sluiceNext q i)
      State.sluiceSignals (if full then t.sluiceReclaim q else t) q f

/-- Every write of the job has been acknowledged: it completes. -/
def State.sluiceEnds (s : State) (j : SluiceJob) : State :=
  let x := sluiceDesc j.desc
  if j.next < x.blocks ∨ s.sluiceHeld j then s
  else
    let t := (s.setSluice { j with ended := true }).freeSluiceCmp j
    (t.count Pg.sluiceQ Reg.SluiceQ.JOBS [j.q] 1).sluiceSignals j.q 2

/-- A hardware error that strikes a job at its block at `a`: the state where it stops the job. -/
def State.sluiceHw (s : State) (j : SluiceJob) (a : Nat) (hw : HwErr) : Option State :=
  match hw with
  | .unit => some ((s.stopSluice j).sluiceFault j.q 0 0x49 a)
  | _ => (s.memError a noPc hw).map (·.stopSluice j)

/-- A failed check of a read that takes part of a block is recorded in the die page too (R185, R202). -/
def State.sluicePart (s : State) (x : SluiceDesc) (arr code b lo hi : Nat) : State :=
  match x.arrays.find? fun a => a.code == arr with
  | some a => s.partCheck code b (a.span lo hi).1 (a.span lo hi).2
  | none => s

/-- The job's next parameter block. -/
def State.sluiceRun (s : State) (j : SluiceJob) (hw : HwErr) : State :=
  let x := sluiceDesc j.desc
  let lo := 2048 * j.next
  let hi := min x.n (lo + 2048)
  let a := (x.p + 2 * lo) % 2 ^ 48
  if x.blocks ≤ j.next then s.sluiceEnds j
  else if s.sluiceHeld j then s
  else
    match s.sluiceHw j a hw with
    | some t => t
    | none =>
      match s.sluiceStop (s.sluiceHome j.q) x lo hi with
      | some (_, none) => s
      | some (arr, some (c, b)) => ((s.stopSluice j).sluicePart x arr c b lo hi).sluiceFault j.q arr c b
      | none =>
        match s.sluiceUnit a with
        | none => s
        | some u =>
          let k := { j with next := j.next + 1 }
          let t := ((s.noteHw a hw).setSluice k).sluiceBlock k x lo hi u.1 u.2
          if t.sluice.any k.same then t.sluiceEnds k else t

/-- A job of queue `q` with this OPT: claimed where the queue holds one, and taken one parameter block further. -/
def State.sluiceStep (s : State) (q opt : Nat) (hw : HwErr) : State :=
  if s.still then s
  else
    let t := s.sluiceClaim q opt
    match t.sluice.find? fun j => j.q == q && !j.ended && (sluiceDesc j.desc).opt == opt with
    | some j => t.sluiceRun j hw
    | none => t

/-- ADAMW (R342). -/
def execAdamw (q : SluiceId) (hw : HwErr) (s : State) : Host.Outcome State Fault Refusal := .next (s.sluiceStep q.val 1 hw)

/-- LION (R343). -/
def execLion (q : SluiceId) (hw : HwErr) (s : State) : Host.Outcome State Fault Refusal := .next (s.sluiceStep q.val 2 hw)

/-- SGD (R344). -/
def execSgd (q : SluiceId) (hw : HwErr) (s : State) : Host.Outcome State Fault Refusal := .next (s.sluiceStep q.val 3 hw)

end Sys2Proof.Machine
end

