-- ==== Sys2Proof/Machine/Dispatch.lean ====
section
/-! DEFINITION. One arm for each command, each a call of its meaning. -/

namespace Sys2Proof.Machine

/-- The effect of a command on everything but the queue. -/
def exec (i : Instr) (s : State) : Host.Outcome State Fault Refusal :=
  match i with
  -- Me
  | .mma core hw => Sys2Proof.Machine.execMma core hw s
  | .drain core hw => Sys2Proof.Machine.execDrain core hw s
  -- Mvp
  | .vload core hw => Sys2Proof.Machine.execVload core hw s
  | .pass core hw => Sys2Proof.Machine.execPass core hw s
  -- Ve
  | .veLd core hw => Sys2Proof.Machine.execVeLd core hw s
  | .veSt core hw => Sys2Proof.Machine.execVeSt core hw s
  | .ewAdd core hw => Sys2Proof.Machine.execEwAdd core hw s
  | .ewSub core hw => Sys2Proof.Machine.execEwSub core hw s
  | .ewMul core hw => Sys2Proof.Machine.execEwMul core hw s
  | .ewFma core hw => Sys2Proof.Machine.execEwFma core hw s
  | .ewMax core hw => Sys2Proof.Machine.execEwMax core hw s
  | .ewMin core hw => Sys2Proof.Machine.execEwMin core hw s
  | .ewAbs core hw => Sys2Proof.Machine.execEwAbs core hw s
  | .ewNeg core hw => Sys2Proof.Machine.execEwNeg core hw s
  | .ewMov core hw => Sys2Proof.Machine.execEwMov core hw s
  | .vExp2 core hw => Sys2Proof.Machine.execVExp2 core hw s
  | .vLog2 core hw => Sys2Proof.Machine.execVLog2 core hw s
  | .vRcp core hw => Sys2Proof.Machine.execVRcp core hw s
  | .vRsqrt core hw => Sys2Proof.Machine.execVRsqrt core hw s
  | .vSqrt core hw => Sys2Proof.Machine.execVSqrt core hw s
  | .redSum core hw => Sys2Proof.Machine.execRedSum core hw s
  | .redMax core hw => Sys2Proof.Machine.execRedMax core hw s
  | .redMin core hw => Sys2Proof.Machine.execRedMin core hw s
  | .cmpLt core hw => Sys2Proof.Machine.execCmpLt core hw s
  | .cmpLe core hw => Sys2Proof.Machine.execCmpLe core hw s
  | .cmpEq core hw => Sys2Proof.Machine.execCmpEq core hw s
  | .cmpNe core hw => Sys2Proof.Machine.execCmpNe core hw s
  | .sel core hw => Sys2Proof.Machine.execSel core hw s
  -- Stream
  | .arm core hw => Sys2Proof.Machine.execArm core hw s
  | .disarm core => Sys2Proof.Machine.execDisarm core s
  -- Layout
  | .permute clu hw => Sys2Proof.Machine.execPermute clu hw s
  | .stepstoneTile clu hw => Sys2Proof.Machine.execStepstoneTile clu hw s
  | .narrow clu hw => Sys2Proof.Machine.execNarrow clu hw s
  | .gather clu eng hw => Sys2Proof.Machine.execGather clu eng hw s
  | .scatter clu eng hw => Sys2Proof.Machine.execScatter clu eng hw s
  -- Silt
  | .siltOpen clu hw => Sys2Proof.Machine.execSiltOpen clu hw s
  | .siltAnchorOp clu hw => Sys2Proof.Machine.execSiltAnchorOp clu hw s
  | .siltAdd clu hw => Sys2Proof.Machine.execSiltAdd clu hw s
  | .siltClose clu hw => Sys2Proof.Machine.execSiltClose clu hw s
  -- Sched
  | .instructionFetch die hw => Sys2Proof.Machine.execInstructionFetch die s hw
  | .fence eng => Sys2Proof.Machine.execFence eng s
  -- Stream
  | .prefetchRequest core => Sys2Proof.Machine.execPrefetchRequest core s
  -- Sched
  | .slot => Sys2Proof.Machine.execSlot s
  | .requestComplete core cls hw => Sys2Proof.Machine.execRequestComplete core cls hw s
  -- Step
  | .stepAbandoned pol => Sys2Proof.Machine.execStepAbandoned pol s
  | .stepBoundary pol => Sys2Proof.Machine.execStepBoundary pol s
  | .stepStart pol => Sys2Proof.Machine.execStepStart pol s
  -- Hold
  | .refreshRequest => Sys2Proof.Machine.execRefreshRequest s
  | .holdStart => Sys2Proof.Machine.execHoldStart s
  | .refreshComplete => Sys2Proof.Machine.execRefreshComplete s
  | .holdEnd => Sys2Proof.Machine.execHoldEnd s
  -- Reliab
  | .moveComplete core errs => Sys2Proof.Machine.execMoveComplete core errs s
  -- Staithe
  | .cowCopyDone hw => Sys2Proof.Machine.execCowCopyDone s hw
  -- Landing
  | .signalGateFire core => Sys2Proof.Machine.execSignalGateFire core s
  | .waitGateFire core => Sys2Proof.Machine.execWaitGateFire core s
  | .signal => Sys2Proof.Machine.execSignal s
  | .registration => Sys2Proof.Machine.execRegistration s
  | .releasePost => Sys2Proof.Machine.execReleasePost s
  | .landingTimeout n slot => Sys2Proof.Machine.execLandingTimeout n slot s
  -- Host
  | .hostSnoop n => Sys2Proof.Machine.execHostSnoop n s
  | .hostSignalLineRead n line => Sys2Proof.Machine.execHostSignalLineRead n line s
  -- Ferry
  | .crossingTime port => Sys2Proof.Machine.execCrossingTime port s
  | .control port x => Sys2Proof.Machine.execControl port x s
  | .head port x => Sys2Proof.Machine.execHead port x s
  | .data port x => Sys2Proof.Machine.execData port x s
  | .remoteSignal port x => Sys2Proof.Machine.execRemoteSignal port x s
  | .endack port x => Sys2Proof.Machine.execEndack port x s
  | .refuse port x => Sys2Proof.Machine.execRefuse port x s
  -- Causeway
  | .cwExp port x => Sys2Proof.Machine.execCwExp port x s
  | .cwData port x => Sys2Proof.Machine.execCwData port x s
  | .barrierCrossing port x => Sys2Proof.Machine.execBarrierCrossing port x s
  -- Freeze
  | .freezeCrossing port x => Sys2Proof.Machine.execFreezeCrossing port x s
  | .thawCrossing port x => Sys2Proof.Machine.execThawCrossing port x s
  -- Ferry
  | .ackTimer port => Sys2Proof.Machine.execAckTimer port s
  | .laneSwap port lane => Sys2Proof.Machine.execLaneSwap port lane s
  | .linkSilence port => Sys2Proof.Machine.execLinkSilence port s
  | .put q => Sys2Proof.Machine.execPut q s
  -- Causeway
  | .allreduce q => Sys2Proof.Machine.execAllreduce q s
  | .reduceScatter q => Sys2Proof.Machine.execReduceScatter q s
  | .allgather q => Sys2Proof.Machine.execAllgather q s
  | .reshard q => Sys2Proof.Machine.execReshard q s
  | .barrier q => Sys2Proof.Machine.execBarrier q s
  -- Ferry
  | .ferryTimeout q slot => Sys2Proof.Machine.execFerryTimeout q slot s
  -- Sluice
  | .adamw q hw => Sys2Proof.Machine.execAdamw q hw s
  | .lion q hw => Sys2Proof.Machine.execLion q hw s
  | .sgd q hw => Sys2Proof.Machine.execSgd q hw s
  -- Ingest
  | .batchDescriptor hw => Sys2Proof.Machine.execBatchDescriptor s hw
  | .wharfData port frame => Sys2Proof.Machine.execWharfData port frame s
  | .wharfFail port frame => Sys2Proof.Machine.execWharfFail port frame s
  | .rtoExpiry ch tag => Sys2Proof.Machine.execRtoExpiry ch tag s
  | .entropyTimeSlice unit hw => Sys2Proof.Machine.execEntropyTimeSlice unit hw s
  | .pictureComplete ch hw => Sys2Proof.Machine.execPictureComplete ch hw s
  | .pqPos p hw => Sys2Proof.Machine.execPqPos p s hw
  -- Observe
  | .replayInject pol => Sys2Proof.Machine.execReplayInject pol s
  | .traceDrain hw => Sys2Proof.Machine.execTraceDrain hw s
  | .snapnow => Sys2Proof.Machine.execSnapnow s
  | .snapshotLatch => Sys2Proof.Machine.execSnapshotLatch s
  | .go pol hw => Sys2Proof.Machine.execGo pol hw s
  -- Staithe
  | .granuleCopy pol hw => Sys2Proof.Machine.execGranuleCopy pol hw s
  | .restore pol hw => Sys2Proof.Machine.execRestore pol hw s
  | .send pol hw => Sys2Proof.Machine.execSend pol hw s
  | .abandon pol => Sys2Proof.Machine.execAbandon pol s
  -- Loader
  | .load pol => Sys2Proof.Machine.execLoad pol s
  -- Reliab
  | .soundingCycle unit passed => Sys2Proof.Machine.execSoundingCycle unit passed s
  | .ageSample clu phys age => Sys2Proof.Machine.execAgeSample clu phys age s
  | .shadowCopy die sram spare hw => Sys2Proof.Machine.execShadowCopy die sram spare hw s
  | .drainPolder pol => Sys2Proof.Machine.execDrainPolder pol s
  | .admission pol fails => Sys2Proof.Machine.execAdmission pol fails s
  | .shutdown rep => Sys2Proof.Machine.execShutdown rep s
  | .cancel => Sys2Proof.Machine.execCancel s
  | .engEn v => Sys2Proof.Machine.execEngEn v s
  -- Host
  | .cxlMemRead off hw => Sys2Proof.Machine.execCxlMemRead off hw s
  | .cxlMemWrite off be data => Sys2Proof.Machine.execCxlMemWrite off be data s
  | .gatherFlush buf => Sys2Proof.Machine.execGatherFlush buf s
  | .cxlReset => Sys2Proof.Machine.execCxlReset s
  | .conventionalReset => Sys2Proof.Machine.execConventionalReset s
  -- Security
  | .fwuStart => Sys2Proof.Machine.execFwuStart s
  | .pldmFirmwareUpdate tgt image => Sys2Proof.Machine.execPldmFirmwareUpdate tgt image s
  | .svnCommit => Sys2Proof.Machine.execSvnCommit s
  | .provision => Sys2Proof.Machine.execProvision s
  | .lcGo => Sys2Proof.Machine.execLcGo s
  | .getVersion tr => Sys2Proof.Machine.execGetVersion tr s
  | .getCapabilities tr => Sys2Proof.Machine.execGetCapabilities tr s
  | .negotiateAlgorithms tr => Sys2Proof.Machine.execNegotiateAlgorithms tr s
  | .getDigests tr => Sys2Proof.Machine.execGetDigests tr s
  | .getCertificate tr off len => Sys2Proof.Machine.execGetCertificate tr off len s
  | .challenge tr nonce => Sys2Proof.Machine.execChallenge tr nonce s
  | .getMeasurements tr sign nonce => Sys2Proof.Machine.execGetMeasurements tr sign nonce s
  -- Power
  | .pwrEnAssert => Sys2Proof.Machine.execPwrEnAssert s
  | .pwrEnDeassert => Sys2Proof.Machine.execPwrEnDeassert s
  | .undervoltage => Sys2Proof.Machine.execUndervoltage s
  | .overvoltage => Sys2Proof.Machine.execOvervoltage s
  | .thermalTrip => Sys2Proof.Machine.execThermalTrip s
  | .pllLock => Sys2Proof.Machine.execPllLock s
  | .lossOfLock => Sys2Proof.Machine.execLossOfLock s
  | .boot fails => Sys2Proof.Machine.execBoot fails s
  | .mrstN => Sys2Proof.Machine.execMrstN s
  | .moduleReset => Sys2Proof.Machine.execModuleReset s
  | .wdogKick => Sys2Proof.Machine.execWdogKick s
  | .watchdogExpiry => Sys2Proof.Machine.execWatchdogExpiry s
  | .throttleEval rep => Sys2Proof.Machine.execThrottleEval rep s
  | .throttleN low => Sys2Proof.Machine.execThrottleN low s
  | .glide => Sys2Proof.Machine.execGlide s
  | .energyReport rep => Sys2Proof.Machine.execEnergyReport rep s
  -- Freeze
  | .freezeN low => Sys2Proof.Machine.execFreezeN low s
  | .syncEdge => Sys2Proof.Machine.execSyncEdge s
  | .freeze => Sys2Proof.Machine.execFreeze s
  | .freezeEdge => Sys2Proof.Machine.execFreezeEdge s
  | .thaw => Sys2Proof.Machine.execThaw s
  | .thawRestart qclk => Sys2Proof.Machine.execThawRestart qclk s
  | .slackScan chain => Sys2Proof.Machine.execSlackScan chain s
  -- Commit
  | .check => Sys2Proof.Machine.execCheck s
  | .checkDone => Sys2Proof.Machine.execCheckDone s
  | .apply => Sys2Proof.Machine.execApply s
  | .applyEdge => Sys2Proof.Machine.execApplyEdge s
  | .abort => Sys2Proof.Machine.execAbort s
  | .atimeoutExpiry => Sys2Proof.Machine.execAtimeoutExpiry s
  | .discardAll => Sys2Proof.Machine.execDiscardAll s
  | .discard page => Sys2Proof.Machine.execDiscard page s
  -- RegCmd
  | .clrAll page => Sys2Proof.Machine.execClrAll page s
  | .evselClr page n => Sys2Proof.Machine.execEvselClr page n s
  | .pageMapEffect => Sys2Proof.Machine.execPageMapEffect s
  | .readClear page o => Sys2Proof.Machine.execReadClear page o s
  | .counterLoRead page word => Sys2Proof.Machine.execCounterLoRead page word s
  | .registerWrite off v => Sys2Proof.Machine.execRegisterWrite off v s
  -- Power
  | .vinRise => Sys2Proof.Machine.execVinRise s
  | .refclkPresent => Sys2Proof.Machine.execRefclkPresent s
  -- Hold
  | .temperatureModeChange dev hot => Sys2Proof.Machine.execTemperatureModeChange dev hot s
  -- Ferry
  | .portUp port => Sys2Proof.Machine.execPortUp port s
  -- Host
  | .cxlLinkReturn link => Sys2Proof.Machine.execCxlLinkReturn link s
  -- Ferry
  | .discardedCrossing port why => Sys2Proof.Machine.execDiscardedCrossing port why s
  -- Ingest
  | .frameDropped port frame => Sys2Proof.Machine.execFrameDropped port frame s

end Sys2Proof.Machine
end

