-- ==== Sys2Proof/Machine/Tick.lean ====
section
/-! DEFINITION. One SCLK in which no command comes: the counters and timers of the module advance (R180, R264, R284, R359,
R360, R373, R404, R431, R454, R460, R475, R492). -/

namespace Sys2Proof.Machine

/-! The page map (R180). -/

/-- Page-map writes one SCLK nearer to their effect; those whose 64 SCLK are over have taken it. -/
def State.tickPages (s : State) : State :=
  s.pmapPend.foldl (fun t e =>
    if e.2.2 = 0 then { t with pmapEff := sset (fun _ => 0) t.pmapEff e.1 e.2.1 }
    else { t with pmapPend := t.pmapPend ++ [(e.1, e.2.1, e.2.2 - 1)] }) { s with pmapPend := [] }

/-! Phase counts (R359, R360). -/

/-- Add an SCLK to LIVE word `i`; a count that saturates sets SATURATED. -/
def State.live (s : State) (p i : Nat) : State :=
  let g := Pg.phase p
  let v := s.rd g Reg.Phase.LIVE [i]
  if v = 0xFFFFFFFF then s.wr g Reg.Phase.LIVE [12] 1 else s.wr g Reg.Phase.LIVE [i] (v + 1)

/-- Add an SCLK where `b` holds. -/
def State.liveIf (s : State) (p i : Nat) (b : Bool) : State := if b then s.live p i else s

/-- Sluice jobs of a polder that are claimed and not complete. -/
def State.optBusy (s : State) (p : Nat) : Bool := s.sluice.any fun j => s.polderOfCore (s.sluiceHome j.q) == p

/-- A collective of a queue homed in the polder is in flight. -/
def State.collBusy (s : State) (p : Nat) : Bool :=
  s.workqs.any fun e => e.2.coll.isSome && s.polderOfCore (s.workHome e.1) == p

/-- Channels with a sample of the polder in progress. -/
def State.samplesOf (s : State) (p : Nat) : List Nat :=
  s.chans.filterMap fun e => match e.2 with
    | some x => if x.isOver then none else (s.batchOf x).bind fun b => if b.pol = p then some e.1 else none
    | none => none

/-- Registrations of the polder's gates that are outstanding: gate key and landing. -/
def State.gateWaits (s : State) (p : Nat) : List (Nat × Nat) :=
  let own := fun (n : Nat) (w : Waiter) => match w.who with
    | .gate c g => if s.polderOfCore c = p then some (32 * c + g, n) else none
    | _ => none
  (s.landings.flatMap fun e => e.2.waiters.filterMap fun w => own e.1 w.2)
    ++ s.landingQ.filterMap fun q => match q.op with
      | .register n _ w => own n w
      | .signal _ _ _ _ => none

/-- IDLE word of a landing: the class of the first enabled range that holds it. -/
def State.idleWord (s : State) (p n : Nat) : Nat :=
  let g := Pg.phase p
  match (List.range 16).find? fun r =>
      s.rd g Reg.Phase.LC_EN [r] == 1 && s.rd g Reg.Phase.LFIRST [r] ≤ n && n ≤ s.rd g Reg.Phase.LLAST [r] with
  | some r => 7 + s.rd g Reg.Phase.CLASS [r]
  | none => 11

/-- The LIVE word that the idle polder counts, none where it is not idle. -/
def State.idleCount (s : State) (p : Nat) : Option Nat :=
  if s.inflight.any fun x => s.polderOfDie (engDie x.eng) == p then none
  else
    let ws := s.gateWaits p
    (ws.find? fun w => ws.all fun x => w.1 ≤ x.1).map fun w => s.idleWord p w.2

/-- The phase counts of a polder whose step runs. -/
def State.tickPhase (s : State) (p : Nat) : State :=
  let t := s.live p 0
  if s.hold.now.isSome then t.live p 6
  else
    let t := t.live p (1 + s.rd (Pg.phase p) Reg.Phase.CPHASE)
    let t := ((t.liveIf p 3 (s.optBusy p)).liveIf p 4 (s.collBusy p)).liveIf p 5 (!(s.samplesOf p).isEmpty)
    match s.idleCount p with
    | some i => t.live p i
    | none => t

/-! Accounting (R431). -/

/-- Accounting class of an engine. -/
def engClass (k : Nat) : Nat := if k < 1024 then k % 4 else match k % 4 with
  | 0 => 4 | 3 => 6 | _ => 5

/-- Classes of the engines that have an instruction fired and not retired, by polder. -/
def State.busyEngines (s : State) : List (Nat × Nat) :=
  ((s.inflight.map fun x => x.eng).eraseDups).map fun k => (s.polderOfDie (engDie k), engClass k)

/-- A queue has a descriptor claimed and not complete. -/
def WorkQ.busy (q : WorkQ) : Bool := !q.puts.isEmpty || q.coll.isSome || q.bar.isSome

/-- Engine time: three ACLK in each SCLK outside holds, for each engine, Reedbed unit, Sluice job and Ferry queue. -/
def State.tickEngines (s : State) : State :=
  let units := (List.range s.npolders).flatMap fun p => ((s.samplesOf p).map (· / 32)).eraseDups.map fun _ => (p, 7)
  let jobs := (s.sluice.filter fun j => !j.ended).map fun j => (s.polderOfCore (s.sluiceHome j.q), 8)
  let qs := (s.workqs.filter fun e => e.2.busy).map fun e => (s.polderOfCore (s.workHome e.1), 9)
  (s.busyEngines ++ units ++ jobs ++ qs).foldl (fun t e => t.acct e.1 e.2 3) s

/-- ELAPSED of every polder. -/
def State.tickElapsed (s : State) : State := (List.range 4).foldl (fun t p => t.acct p 51 1) s

/-! Timers. -/

/-- Timeouts of waiters (R284), hold time excluded. -/
def State.tickWaits (s : State) : State :=
  { s with landings := s.landings.map fun e =>
      (e.1, { e.2 with waiters := e.2.waiters.map fun w => (w.1, { w.2 with left := w.2.left.map (· - 1) }) }) }

/-- SCLK of the hold in force. -/
def State.tickHold (s : State) : State :=
  match s.hold.now with
  | some c =>
    ({ s with hold := { s.hold with sclk := s.hold.sclk + 1 } } : State).add2 Pg.holds Reg.Holds.SCLK_LO Reg.Holds.SCLK_HI
      [c.code] 1
  | none => s

/-- Polders whose boundary waits for a snapshot. -/
def State.tickBoundary (s : State) (p : Nat) : State :=
  if (s.polder p).live && s.snapWaits p && s.stepDone p then
    s.setPolder p { s.polder p with bwait := (s.polder p).bwait + 1 }
  else s

/-- The self-test advances, but not in a hold; how far its sequence has come is open. -/
def State.tickTest (s : State) : State :=
  match s.selfTest with
  | some j =>
    let j := { j with sclk := j.sclk + 1 }
    if 1024 * j.rep.duration ≤ j.sclk then s.testDone j else
      let r := s.drawWord
      { r.2.wr Pg.selfTest Reg.SelfTest.REGION [] (r.1.toNat % 2 ^ 16) with selfTest := some j }
  | none => s

/-- Codes 0x001 to 0x003 (R475) in the pages that select an event. -/
def State.tickEvents (s : State) : State :=
  let ps := ((s.regs.filter fun e => 8 ≤ e.1 % 1024 && e.1 % 1024 < 16).map fun e => e.1 / 1024).eraseDups
  ps.foldl (fun t p => ((t.event p 1 1).event p 2 (bit s.hold.now.isSome)).event p 3 3) s

/-- What goes on outside holds. -/
def State.tickWork (s : State) : State :=
  if s.hold.now.isSome then s
  else
    let t := (s.tickWaits.tickEngines).tickTest
    let t := t.mfJobs.foldl State.manifestStep t
    if t.loads.isEmpty then t else t.loadsRun

/-- One SCLK. Nothing moves without power or lock, nor in a freeze (R463). -/
def State.tick (s : State) : State :=
  if s.frozen || !s.wheel.turns || !s.power.rails then s
  else
    let t := (s.add2 Pg.clocks Reg.Clocks.TIMESTAMP_LO Reg.Clocks.TIMESTAMP_HI [] 1).tickPages
    let t : State := { t with wdog := t.wdog + 1, landingDone := false }
    let t := (List.range 4).foldl (fun t p => (if (t.polder p).live then t.tickPhase p else t).tickBoundary p) t
    (t.tickHold.tickElapsed.tickEvents).tickWork

end Sys2Proof.Machine
end

