-- ==== Sys2Proof/WellFormed.lean ====
section
/-! DEFINITION. Well-formed commands: the ranges of operands that their types leave wider than the spec. The machine gives every
command a meaning, well-formed or not; statements that need a range say so by `Instr.wf`. -/

namespace Sys2Proof

/-- Fields of an injected error fit the registers that record it (R77, R106, R139, R170). -/
def HwErr.wf : HwErr → Bool
  | .none => true
  | .poolParity _ b r y => b < 34 && r < 0xC00 && y < 64
  | .me k g l => k < 4 && g ≤ 4096 && !l.isEmpty && l.all fun c => c.1 < 64 && c.2 < 64
  | .ve k l => k < 2 && !l.isEmpty && l.all fun e => e.1 < 16 && e.2.1 < 64 && e.2.2 < 256
  | .layout p => p < 2 ^ 24
  | .sst _ _ | .lpUncorrectable _ | .lpCorrected _ | .unit => true

/-- A crossing's payload is 256 bytes, of which its FILL names the last used quarter (R295); a port has nine lanes (R293). -/
def Crossing.wf (x : Crossing) : Bool := x.payload.length == 256 && x.sym.length ≤ 9

/-- A crossing is received as 268 bytes over nine lanes (R293, R295). -/
def DiscardWhy.wf : DiscardWhy → Bool
  | .fec l => l.length ≤ 9
  | .bytes b l => b.length == 268 && l.length ≤ 9

/-- The units without a spare are numbered 0 to 44, and the hub's from 45 on (R407). -/
def SoundUnit.wf : SoundUnit → Bool
  | .plain _ n => n < 173
  | _ => true

/-- A test report names units, and its numbers fit the record of R407. -/
def TestReport.wf (r : TestReport) : Bool :=
  r.fails.all SoundUnit.wf && r.tested < 2 ^ 32 && r.rows < 2 ^ 16 && r.marked < 2 ^ 16 && r.duration < 2 ^ 32

/-- Readings fit the registers that show them (R471). -/
def PowerReport.wf (r : PowerReport) : Bool := r.power < 2 ^ 16 && r.vin < 2 ^ 16 && r.iin < 2 ^ 16 && r.tj < 2 ^ 8

/-- A register read or write is one of an aligned word (R499). -/
def wordAligned (off : BitVec 25) : Bool := off.toNat % 4 == 0

/-- A CXL.mem access is one of a 64-byte line of the 64 GiB window (R416, R417). -/
def lineOff (off : Nat) : Bool := off % 64 == 0 && off < 2 ^ 36

/-- A command whose operands are in the spec's ranges. -/
def Instr.wf : Instr → Bool
  | .mma _ h | .drain _ h | .vload _ h | .pass _ h | .veLd _ h | .veSt _ h => h.wf
  | .ewAdd _ h | .ewSub _ h | .ewMul _ h | .ewFma _ h | .ewMax _ h | .ewMin _ h | .ewAbs _ h | .ewNeg _ h | .ewMov _ h => h.wf
  | .vExp2 _ h | .vLog2 _ h | .vRcp _ h | .vRsqrt _ h | .vSqrt _ h => h.wf
  | .redSum _ h | .redMax _ h | .redMin _ h => h.wf
  | .cmpLt _ h | .cmpLe _ h | .cmpEq _ h | .cmpNe _ h | .sel _ h => h.wf
  | .arm _ h | .permute _ h | .stepstoneTile _ h | .narrow _ h | .gather _ _ h | .scatter _ _ h => h.wf
  | .siltOpen _ h | .siltAnchorOp _ h | .siltAdd _ h | .siltClose _ h => h.wf
  | .instructionFetch _ h | .cowCopyDone h | .batchDescriptor h | .pqPos _ h => h.wf
  | .requestComplete _ _ h | .adamw _ h | .lion _ h | .sgd _ h => h.wf
  | .entropyTimeSlice _ h | .pictureComplete _ h | .traceDrain h | .go _ h => h.wf
  | .granuleCopy _ h | .restore _ h | .send _ h | .shadowCopy _ _ _ h => h.wf
  | .control _ x | .head _ x | .data _ x | .remoteSignal _ x | .endack _ x | .refuse _ x => x.wf
  | .cwExp _ x | .cwData _ x | .barrierCrossing _ x | .freezeCrossing _ x | .thawCrossing _ x => x.wf
  | .discardedCrossing _ w => w.wf
  | .moveComplete _ es => es.all (· < 1536)
  | .rtoExpiry _ t => t < 2 ^ 32
  | .soundingCycle u _ => u.wf
  | .admission _ us | .boot us => us.all SoundUnit.wf
  | .shutdown r => r.wf
  | .cxlMemRead o h => lineOff o && h.wf
  | .cxlMemWrite o _ _ => lineOff o
  | .pldmFirmwareUpdate _ b => b.length < 2 ^ 27
  | .getCertificate _ o l => o < 2 ^ 16 && l < 2 ^ 16
  | .challenge _ n => n.length == 32
  | .getMeasurements _ sign n => !sign || n.length == 32
  | .throttleEval r => r.wf
  | .registerWrite o _ => wordAligned o
  | .readClear _ o => o.val % 4 == 0
  | _ => true

end Sys2Proof
end

