-- ==== Sys2Proof/Safety.lean ====
section
/-! DEFINITION. What claims are stated in: the machine's invariants, the conditions under which commands act, and the lane
functions of the vector engine as R124 to R126 give them. -/

namespace Sys2Proof.Machine

/-- Memory and registers are in canonical form. -/
def State.canonical (s : State) : Bool := Memory.wf s.mem && swf resetReg s.regs

/-- The token counters that engine `k` finds once the engines before it in the order of R63, R146 and R187 have fired, those
that fire now. -/
def State.firedBefore (s : State) (k : Nat) : State :=
  if k < 1024 then
    match k % 4 with
    | 0 => s
    | 1 => s.meFires (k / 4)
    | 2 => s.mvFires (k / 4)
    | _ => s.cluFires (k / 32)
  else
    match k % 4 with
    | 0 => s.coreFires ((k - 1024) / 4)
    | 1 => s.puFires ((k - 1024) / 4) 1
    | 2 => s.puFires ((k - 1024) / 4) 2
    | _ => s.punFires ((k - 1024) / 4)

/-- The head of engine `k`'s queue is `i`, before `r`, and may fire: the polder's step runs, its tokens are there and no
engine before it takes them. -/
structure Fires (s : State) (k : Nat) (i : BitVec 256) (r : List (BitVec 256)) : Prop where
  queue  : (s.engine k).queue = i :: r
  runs   : s.canRun k = true
  tokens : s.tokensReady (waitsOf k i) = true
  first  : (s.firedBefore k).tokensReady (waitsOf k i) = true
  alone  : s.job k = none

/-- A fired instruction has left the queue of engine `k`. -/
def LeftQueue (s t : State) (k : Nat) (r : List (BitVec 256)) : Prop :=
  (t.engine k).queue = r ∧ (t.engine k).head = (s.engine k).head + 1

/-- Every register outside the page of core `c` and the CXL page, which counts host messages dropped while the link is down,
is unchanged. -/
def OtherPagesKept (s t : State) (c : Nat) : Prop :=
  ∀ n o, n ≠ Pg.core c → n ≠ Pg.cxl → o < 4096 → t.word n o = s.word n o

/-- Address `a` lies in no pool, or in a pool whose physical core is not that of core `c`, or in the pool of `c`: two
logical cores on one physical core, which CORE_MAP does not allow, would share bytes. -/
def OtherPool (s : State) (c a : Nat) : Prop :=
  regionOf a = .pool → s.coreArea 3 (poolCore a) = s.coreArea 3 c → poolCore a = c

/-- A lane operation of the VE: its command, class, FUNC, and its function of the three operands. -/
structure VeLane where
  cmd  : CoreId → HwErr → Instr
  opc  : Nat
  func : Nat
  fn   : Word → Word → Word → Word

/-- MAX (`big`) or MIN of R124: the canonical NaN where an operand is a NaN, +0 above −0. -/
def veMax (big : Bool) (a b : Word) : Word :=
  if (f32 a).isNan || (f32 b).isNan then 0x7FC00000
  else if (f32 a).lt (f32 b) then (if big then b else a)
  else if (f32 b).lt (f32 a) then (if big then a else b)
  else if a.getLsbD 31 then (if big then b else a) else (if big then a else b)

/-- A truth value of class CMP: 1.0 or +0. -/
def veTruth (b : Bool) : Word := if b then 0x3F800000 else 0

/-- A word, or the canonical NaN for a NaN. -/
def veQuiet (a w : Word) : Word := if (f32 a).isNan then 0x7FC00000 else w

/-- The lane operations of R124 (EW), R126 (FN) and R125 (CMP, SEL). -/
def veLanes : List VeLane :=
  [⟨.ewAdd, 3, 0, fun a b _ => rne32 ((f32 a).add (f32 b))⟩,
   ⟨.ewSub, 3, 1, fun a b _ => rne32 ((f32 a).add (f32 b).neg)⟩,
   ⟨.ewMul, 3, 2, fun a b _ => rne32 ((f32 a).mul (f32 b))⟩,
   ⟨.ewFma, 3, 3, fun a b c => rne32 (((f32 a).mul (f32 b)).add (f32 c))⟩,
   ⟨.ewMax, 3, 4, fun a b _ => veMax true a b⟩,
   ⟨.ewMin, 3, 5, fun a b _ => veMax false a b⟩,
   ⟨.ewAbs, 3, 6, fun a _ _ => veQuiet a (a &&& 0x7FFFFFFF)⟩,
   ⟨.ewNeg, 3, 7, fun a _ _ => veQuiet a (a ^^^ 0x80000000)⟩,
   ⟨.ewMov, 3, 8, fun a _ _ => veQuiet a a⟩,
   ⟨.vExp2, 4, 0, fun a _ _ => rne32 (exp2Val (f32 a))⟩,
   ⟨.vLog2, 4, 1, fun a _ _ => rne32 (log2Val (f32 a))⟩,
   ⟨.vRcp, 4, 2, fun a _ _ => rne32 (rcpVal (f32 a))⟩,
   ⟨.vRsqrt, 4, 3, fun a _ _ => rne32 (rsqrtVal (f32 a))⟩,
   ⟨.vSqrt, 4, 4, fun a _ _ => rne32 (sqrtVal (f32 a))⟩,
   ⟨.cmpLt, 6, 0, fun a b _ => veTruth ((f32 a).lt (f32 b))⟩,
   ⟨.cmpLe, 6, 1, fun a b _ => veTruth ((f32 a).lt (f32 b) || (f32 a).same (f32 b))⟩,
   ⟨.cmpEq, 6, 2, fun a b _ => veTruth ((f32 a).same (f32 b))⟩,
   ⟨.cmpNe, 6, 3, fun a b _ => veTruth !((f32 a).same (f32 b))⟩,
   ⟨.sel, 7, 0, fun a b c => if (f32 a).isZero then veQuiet c c else veQuiet b b⟩]

/-- No error of this kind stops an access to module memory. -/
def spares (hw : HwErr) : Bool :=
  match hw with
  | .sst _ _ | .lpUncorrectable _ => false
  | _ => true

/-- The state of an MMA before group `g`: the earlier groups accumulated and released. -/
def State.meBefore (s : State) (c : Nat) (j : Job) : Nat → State
  | 0 => s
  | g + 1 =>
    let i := j.instr
    let a := meA i j.aPos
    let b := meB i j.bPos
    let zen := if meZen i then some (meZslot i + g) else none
    let t := (s.meBefore c j g).meGroup c (meAset i) (g == 0 && meAcc i == 0) a b g zen
    (t.meRelease c a g).meRelease c b g

/-- The tile of a PERMUTE that job `j` has reached, read whole into the stage buffer and then written: the state after its
writes with the first fault among them. -/
def State.tileWritten (s : State) (cl : Nat) (j : Job) : State × Option (Nat × Nat) :=
  let x := j.mover (cluKey cl 0) (cluKey cl 0)
  let a := tensorDesc (j.desc.take 128)
  let d := tensorDesc (j.desc.drop 128)
  let s := s.wr (Pg.clu cl) Reg.Clu.TILENO [] j.next
  let t := (s.readLines x j.next (moveLines a.f.bits j.tileMoves)).stageTile cl a.f.bits j.tileMoves
  (t.setValids (moveGranules d.f.bits j.tileMoves) false).putBitWrites x j.next d.cvm (s.moveWrites a.f.bits j.tileMoves)

/-- Every line that the tile reads can be read, and every line that it writes be written. -/
def State.tileClear (s : State) (cl : Nat) (j : Job) : Prop :=
  let x := j.mover (cluKey cl 0) (cluKey cl 0)
  let a := tensorDesc (j.desc.take 128)
  (s.wr (Pg.clu cl) Reg.Clu.TILENO [] j.next).scanLines x.core a.cvm (moveLines a.f.bits j.tileMoves) = none ∧
    (s.tileWritten cl j).2 = none

/-- The tile is moved and its write phase ended as far as it can be. -/
def State.tileDone (s : State) (cl : Nat) (j : Job) : State := (s.tileWritten cl j).1.tileEnd cl j

/-- Element `n` of the NARROW of job `j` is moved: the state after its write with a fault of it. -/
def State.narrowMove (s : State) (cl : Nat) (j : Job) (a d : TensorDesc) (n : Nat) : State × Option (Nat × Nat) :=
  let m := narrowMoveOf j.instr a d n
  let x := j.mover (cluKey cl 0) (narrowKey cl)
  ((s.readLines x n (narrowReads j.instr a d n)).setValids (moveGranules d.f.bits [m]) false).putBitWrites x n d.cvm
    (s.moveWrites a.f.bits [m])

/-- Element `n` can be read and written. -/
def State.narrowClear (s : State) (cl : Nat) (j : Job) (a d : TensorDesc) (n : Nat) : Prop :=
  s.scanLines (j.mover (cluKey cl 0) (narrowKey cl)).core a.cvm (narrowReads j.instr a d n) = none ∧
    (s.narrowMove cl j a d n).2 = none

/-- The state of a NARROW after `n` elements from number `from_` on, each of them valid once its write is complete. -/
def State.narrowAfter (s : State) (cl : Nat) (j : Job) (a d : TensorDesc) (from_ : Nat) : Nat → State
  | 0 => s
  | n + 1 =>
    ((s.narrowAfter cl j a d from_ n).narrowMove cl j a d (from_ + n)).1.setValids
      (moveGranules d.f.bits [narrowMoveOf j.instr a d (from_ + n)]) true

/-- What the slice of position `n` of a Punt instruction reads beside its index: nothing where it is skipped. -/
def State.sliceMoves (s : State) (i : BitVec 256) (a d x : TensorDesc) (n : Nat) : List Shift :=
  let gather := puOpc i == 1
  match sliceOf (puPol i) (if gather then a.n (puGdim i) else d.n (puGdim i)) (s.indexAt x n) with
  | .at p => if gather then puMoves i a d d.ext p n else puMoves i a d a.ext n p
  | _ => []

/-- The state in which position `n` is shown and its index line requested. -/
def State.sliceShown (s : State) (cl e : Nat) (j : Job) (x : TensorDesc) (n : Nat) : State :=
  (s.showJ cl e n).cluTraffic (j.mover (cluKey cl e) (cluKey cl e)) n false (x.indexLine n)

/-- The slice of position `n` of the Punt instruction of job `j` is moved, zero-filled or skipped: the state after it with a
fault of it. -/
def State.sliceMove (s : State) (cl e : Nat) (j : Job) (a d x : TensorDesc) (n : Nat) : State × Option (Nat × Nat) :=
  let y := j.mover (cluKey cl e) (cluKey cl e)
  let i := j.instr
  let gather := puOpc i == 1
  let t := s.sliceShown cl e j x n
  match sliceOf (puPol i) (if gather then a.n (puGdim i) else d.n (puGdim i)) (s.indexAt x n) with
  | .fault => (t, some (0x0A, n))
  | .skip => if gather then t.putBitWrites y n d.cvm (zeroFill d.f.bits (puMoves i a d d.ext 0 n)) else (t, none)
  | .at _ =>
    let ms := s.sliceMoves i a d x n
    (t.readLines y n (moveLines a.f.bits ms)).putBitWrites y n d.cvm (t.moveWrites a.f.bits ms)

/-- Position `n` does not wait, its index and slice can be read, and its slice be written. -/
def State.sliceClear (s : State) (cl e : Nat) (j : Job) (a d x : TensorDesc) (n : Nat) : Prop :=
  let y := j.mover (cluKey cl e) (cluKey cl e)
  s.puHeld cl e y = none ∧ s.scanLines y.core x.cvm (addElem [] (x.indexBit n) 32) = none ∧
    (s.sliceShown cl e j x n).scanLines y.core a.cvm (moveLines a.f.bits (s.sliceMoves j.instr a d x n)) = none ∧
    (s.sliceMove cl e j a d x n).2 = none

/-- The state of a Punt instruction after `n` positions from number `from_` on. -/
def State.sliceAfter (s : State) (cl e : Nat) (j : Job) (a d x : TensorDesc) (from_ : Nat) : Nat → State
  | 0 => s
  | n + 1 => ((s.sliceAfter cl e j a d x from_ n).sliceMove cl e j a d x (from_ + n)).1

/-- The contributions of position `n` of an ANCHOR or ADD: none where it is skipped. -/
def State.siltContribs (s : State) (cl : Nat) (i : BitVec 256) (a x : TensorDesc) (n : Nat) : List Contrib :=
  let d := tensorDesc (s.siltOf cl).dst
  match sliceOf (slPol i) (d.n (slSdim i)) (s.indexAt x n) with
  | .at q => slContribs i a d n q
  | _ => []

/-- Position `n` of the ANCHOR or ADD of job `j`: the state with its slice's contributions taken into the session, and their
fault. -/
def State.siltMove (s : State) (cl : Nat) (j : Job) (a x : TensorDesc) (n : Nat) : State × Option (Nat × Nat) :=
  let i := j.instr
  let y := j.mover (cluKey cl 3) (cluKey cl 3)
  let cs := s.siltContribs cl i a x n
  match sliceOf (slPol i) ((tensorDesc (s.siltOf cl).dst).n (slSdim i)) (s.indexAt x n) with
  | .fault => (s, some (0x0A, n))
  | .skip => (s, none)
  | .at _ =>
    let r := slTake (slOpc i == 3) (fun z => a.value (fun b => s.byteAt (b % 2 ^ 48)) z.src) cs (s.siltOf cl)
    ((s.readLines y n (moveLines a.f.bits (cs.map (·.move)))).setSilt cl r.1, r.2)

/-- Class S3 of the home core takes the requests of position `n`, its index and slice can be read, and none of its
contributions faults. -/
def State.siltClear (s : State) (cl : Nat) (j : Job) (a x : TensorDesc) (n : Nat) : Prop :=
  let y := j.mover (cluKey cl 3) (cluKey cl 3)
  s.classFull y.core 3 = false ∧ s.scanLines y.core x.cvm (addElem [] (x.indexBit n) 32) = none ∧
    s.scanLines y.core a.cvm (moveLines a.f.bits ((s.siltContribs cl j.instr a x n).map (·.move))) = none ∧
    (s.siltMove cl j a x n).2 = none

/-- The state of an ANCHOR or ADD after `n` positions from number `from_` on. -/
def State.siltAfter (s : State) (cl : Nat) (j : Job) (a x : TensorDesc) (from_ : Nat) : Nat → State
  | 0 => s
  | n + 1 => ((s.siltAfter cl j a x from_ n).siltMove cl j a x (from_ + n)).1

/-- The commands that bring a data crossing, with the crossings that each is for (R296). -/
def crossings : List ((PortId → Crossing → Instr) × (Crossing → Bool)) :=
  [(.head, fun x => x.kind == Kind.head), (.data, fun x => x.kind == Kind.data),
   (.remoteSignal, fun x => x.kind == Kind.signal), (.endack, fun x => x.kind == Kind.endack),
   (.refuse, fun x => x.kind == Kind.refuse), (.cwExp, fun x => x.kind == Kind.cwExp),
   (.cwData, fun x => x.kind == Kind.cwData), (.barrierCrossing, fun x => x.kind == Kind.barrier),
   (.freezeCrossing, fun x => x.kind == Kind.freeze && crossNum x 0 1 == 1),
   (.thawCrossing, fun x => x.kind == Kind.freeze && crossNum x 0 1 == 2)]

/-- A port that has taken a crossing in sequence: the next SEQ is expected, an acknowledgement is due. -/
def Port.took (o : Port) : Port :=
  { o with rxSeq := (o.rxSeq + 1) % 4096, ackDue := true, nakSent := false }

/-- Port `p` has gone down (R305): its retry buffer and output queues are discarded, its page records FERRY_PORT_DOWN if
it held no fault, and the step of every polder is to be abandoned. -/
def PortIsDown (s t : State) (p : Nat) : Prop :=
  t.rd (Pg.ferry p) Reg.Ferry.PSTATE = 0 ∧ t.port p = (s.port p).cleared ∧ (∀ q, q ≠ p → t.port q = s.port q) ∧
    (s.rd (Pg.ferry p) Reg.Common.FC_VALID = 0 →
      t.rd (Pg.ferry p) Reg.Common.FC_VALID = 1 ∧ (t.word (Pg.ferry p) 0x010).toNat % 256 = 0x50) ∧
    (∀ n, n < s.npolders → n < s.polders.length → (t.polder n).fault = true) ∧ t.mem = s.mem ∧ t.words32 = s.words32

/-- The queue `q` has been granted the descriptor `d` at its HEAD, which can be read and is well formed, and nothing stands
still; HOME is one of the module's cores. -/
structure Granted (s : State) (q : Nat) (d : List Byte) : Prop where
  home     : s.workHome q < 256
  runs     : s.still = false
  idle     : s.workBusy q = false
  granted  : .workq q ∈ s.granted
  readable : s.workReadStop q (s.workAddr q (s.rd Pg.workQ Reg.WorkQ.HEAD [q])) 128 false = none
  bytes    : d = s.bytesAt (s.workAddr q (s.rd Pg.workQ Reg.WorkQ.HEAD [q])) 128
  ok       : workOk d = true

/-- The record of the collective or RESHARD that queue `q` starts with the descriptor `d` (R324, R332). -/
def State.newColl (s : State) (q : Nat) (d : List Byte) : Coll :=
  let x := workDesc d
  { desc := d, idx := s.rd Pg.workQ Reg.WorkQ.HEAD [q], cseq := s.rd Pg.workQ Reg.WorkQ.CSEQ [q]
    key := s.runKey (s.workPolder q), step := s.stepNo (s.workPolder q), mant := false, anchors := [], expGot := 0, expBuf := []
    streams := List.replicate (if x.kind = 5 then x.r else x.streams) ⟨false, 0, []⟩, begun := [], written := 0, members := s.memberList x }

/-- The state in which that collective has been counted in CSEQ and its descriptor taken. -/
def State.collTaken (s : State) (q : Nat) : State :=
  (s.takeWork q).wr Pg.workQ Reg.WorkQ.CSEQ [q] (s.rd Pg.workQ Reg.WorkQ.CSEQ [q] + 1)

/-- The collective of `q` can start: no other runs on the queue, its ranges can be accessed, and this module is the
member of its rank. -/
def State.collReady (s : State) (q : Nat) (d : List Byte) : Prop :=
  let x := workDesc d
  (s.workq q).coll = none ∧ (s.workq q).bar = none ∧ s.collStop q x = none ∧ x.rank < x.r ∧
    (s.memberList x).getD x.rank 0 = s.modId ∧ ∀ m ∈ s.memberList x, m < 4096

/-- The physical byte `b` is one that a write of `n` bytes at module address `a` can change: a copy of a byte written,
or part of the side word of its block. -/
def State.reaches (s : State) (a n b : Nat) : Prop :=
  ∃ i, i < n ∧ (b ∈ s.physAll ((a + i) % 2 ^ 48) ∨
    ∃ c p k, s.sideAddr (blockOf ((a + i) % 2 ^ 48)) = some (c, p, k) ∧ (b = p ∨ (c ≤ b ∧ b < c + 4)))

/-- The owner tags of the hub's comparators and the cores of the streams are those of the module: no hazard is recorded
outside its pages. -/
def State.tagsInRange (s : State) : Prop := (∀ e ∈ s.hubCmp, e.1 < 1088) ∧ ∀ e ∈ s.streams, e.1 < 2048

/-- The commands of the Sluice with their OPT (R338). -/
def sluiceOps : List ((SluiceId → HwErr → Instr) × Nat) := [(.adamw, 1), (.lion, 2), (.sgd, 3)]

/-- `t` is the machine after a module reset of cause `cause` in state `s` (R460): registers and memories as after reset
but for the cause, the trip and the lifecycle state shown; fuses, what was sent outside and the queue kept. -/
structure FreshFrom (s t : State) (cause : Nat) : Prop where
  regs    : ∀ n o, n < 0x1000 → o < 4096 → o % 4 = 0 → ¬ (n = Pg.clocks ∧ o = 0x124) → ¬ (n = Pg.security ∧ o = 0x100) →
    t.word n o = State.reset.word n o
  cause   : t.rd Pg.clocks Reg.Clocks.RESET_CAUSE = cause
  trip    : t.rd Pg.clocks Reg.Clocks.TRIPPED = bit t.power.trip
  cleared : { t with
    regs := [], pending := [], fuses := Fuses.blank, flash := Flash.blank, power := State.reset.power
    throttle := Throttle.none, freeze := FreezeSt.none, hostOut := [], netOut := [], spdmOut := [], fresh := 0 } = State.reset
  kept    : t.fuses = s.fuses ∧ t.pending = s.pending ∧ t.hostOut = s.hostOut ∧ t.netOut = s.netOut ∧ t.spdmOut = s.spdmOut ∧
    t.fresh = s.fresh
  pins    : t.throttle.pin = s.throttle.pin ∧ t.freeze.pinUsed = s.freeze.pinUsed

/-- Command `c` in state `s` asks for a freeze from source `src`, as far as none is requested and nothing forbids it
(R462); `used` is what it leaves of the pin's request. -/
def FreezeAsked (s : State) (c : Instr) (src : Nat) (used : Bool) : Prop :=
  s.rd Pg.selfTest Reg.SelfTest.STSTATE ≠ 1 → s.rd Pg.security Reg.Security.FWU_BUSY = 0 → s.ports.length = 16 →
  let g := Pg.slack
  let gen := (s.rd g Reg.Slack.FGEN + 1) % 2 ^ 16
  (s.rd g Reg.Slack.FSTATE = 0 →
    ∃ t, exec c s = .next t ∧ t.rd g Reg.Slack.FSTATE = 1 ∧ t.rd g Reg.Slack.FSRC = src ∧ t.freeze.pinUsed = used ∧
      t.freeze.asked = some s.timestamp ∧ t.mem = s.mem ∧ t.engines = s.engines ∧ t.frozen = false ∧
      (s.rd g Reg.Slack.FRZ_MODE ≠ 1 → t.ports = s.ports) ∧
      (s.rd g Reg.Slack.FRZ_MODE = 1 → t.rd g Reg.Slack.FGEN = gen ∧ t.rd g Reg.Slack.FINIT = s.modId ∧
        ∀ p, p < 16 → (t.port p).out =
          if s.portUp p then freezeCross 1 gen s.modId s.modId :: (s.port p).out else (s.port p).out)) ∧
  (s.rd g Reg.Slack.FSTATE = 1 → exec c s = .next { s with freeze := { s.freeze with pinUsed := used } }) ∧
  (2 ≤ s.rd g Reg.Slack.FSTATE → ∃ t, exec c s = .next t ∧ t.ports = s.ports ∧ t.mem = s.mem ∧
    t.rd g Reg.Slack.FSTATE = s.rd g Reg.Slack.FSTATE ∧
    t.rd g Reg.Slack.FRZ_IGNORED = min (s.rd g Reg.Slack.FRZ_IGNORED + 1) (2 ^ 32 - 1))

/-- Address of the job descriptor of polder `p`'s manifest slot. -/
def State.mfDesc (s : State) (p : Nat) : Nat := s.rd2 Pg.manifest Reg.Manifest.JOB_LO Reg.Manifest.JOB_HI [p] / 64 * 64

/-- The manifest job of polder `p` can start: its descriptor and lists use no reserved encoding, and they, the regions they
name, the destination and the identity lie in the polder's memory (R491, R493). -/
def State.mfClear (s : State) (p : Nat) : Prop :=
  let d := s.bytesAt (s.mfDesc p) 64
  let l := s.mfList (leAt d 8 6) (mfNw d) ++ s.mfList (leAt d 0x10 6) (mfNi d)
  s.ownMemory p (s.mfDesc p) 64 = true ∧ mfOk d = true ∧ s.ownMemory p (leAt d 8 6) (16 * mfNw d) = true ∧
    s.ownMemory p (leAt d 0x10 6) (16 * mfNi d) = true ∧ l.all mfRegionOk = true ∧
    (∀ b ∈ l, s.ownMemory p (mfRegion b).1 (mfRegion b).2.1 = true) ∧ s.ownMemory p (mfDst d) 256 = true ∧
    (mfIdsrc d = 1 → s.ownMemory p (leAt d 0x10 6) 32 = true)

/-- The commands that are a write of a register, which first writes the gather buffers out (R423). -/
def writesRegister (c : Instr) : Bool :=
  match c with
  | .check | .apply | .abort | .discardAll | .discard _ | .load _ | .pqPos _ _ | .snapnow | .go _ _ | .moduleReset | .wdogKick
  | .clrAll _ | .evselClr _ _ | .registerWrite _ _ | .drainPolder _ | .admission _ _ | .shutdown _ | .cancel | .engEn _
  | .provision | .fwuStart | .svnCommit | .lcGo | .send _ _ | .restore _ _ | .abandon _ => true
  | _ => false

/-- The page-wide conditions under which the module serves a command of the host: rails up, no recovery, no freeze. -/
structure Serving (s : State) : Prop where
  rails  : s.power.rails = true
  booted : s.recovery = false
  thawed : s.frozen = false

end Sys2Proof.Machine
end

