-- ==== Sys2Proof/Certificates/Slice0/Obligations.lean ====
section
/-! DEFINITION. The statements for the provers: one `def Obligations.<Name> : Prop` each. Each docstring names the rules that
its statement formalises or the sections that it rests on. -/

open Sys2Proof Sys2Proof.Machine

/-! The queue, reset, and what every step keeps. -/

/-- A step takes the command at the front of the queue, is `exec` of it on the state with the queue's rest, and answers a
next state: no command faults and none is refused. On an empty queue one SCLK passes. The model's choices in it: log entry
2. -/
def Obligations.StepRunsFrontCommand : Prop :=
  (∀ (s : State) (c : Instr) (r : List Instr), s.pending = c :: r →
    step s = exec c { s with pending := r } ∧ ∃ t, step s = .next t) ∧
  (∀ s : State, s.pending = [] → step s = .next s.tick)

/-! Numbers. -/

/-- R22, R26: scales and MXINT8 elements. An E8M0 encoding X below 0xFF multiplies a number by 2^(X−127), and 0xFF makes
NaN of it. An MXINT8 element with encoding n is n × 2^−6 in two's complement, 0x80 reading as −2.0, and no conversion,
in any rounding mode and with any saturation, writes 0x80: it saturates to the range −127 to +127. -/
def Obligations.ScalesAndMxint8 : Prop :=
  (∀ (x : Nat) (n : Bool) (m : Nat) (e : Int), x < 0xFF → scaled x (.fin n m e) = .fin n m (e + (x - 127))) ∧
  (∀ v : FVal, scaled 0xFF v = .nan) ∧
  (∀ b : Nat, b < 256 → Fmt.decode .int8 b = FVal.ofInt (if b < 128 then (b : Int) else (b : Int) - 256) (-6)) ∧
  (Fmt.decode .int8 0x80).same (.fin true 2 0) = true ∧
  (∀ (r : Rnd) (sat : Bool) (v : FVal), (Fmt.encode .int8 r sat v).1 ≠ 0x80 ∧ (Fmt.encode .int8 r sat v).1 < 256) ∧
  (∀ (r : Rnd) (sat n : Bool) (m : Nat) (e : Int), 127 ≤ roundGrid r m e (-6) →
    sint 8 (Fmt.encode .int8 r sat (.fin n m e)).1 = if n then -127 else 127)

/-! The vector engine. -/

/-- R120, R121, R124 to R126: an operation of class EW, FN, CMP or SEL at the head of the VE's queue writes, in rows 0
to NR of its destination tile, its function of the operands' elements as they were before it, and changes no other
element of any tile, no byte of memory, no stream, and no register outside its core's page and the CXL page (dropped
host messages). Commands that complete in it: EW_ADD, EW_SUB, EW_MUL, EW_FMA, EW_MAX, EW_MIN, EW_ABS, EW_NEG, EW_MOV,
EXP2, LOG2, RCP, RSQRT, SQRT, CMP_LT, CMP_LE, CMP_EQ, CMP_NE, SEL. The model's choices in it: log entry 9. -/
def Obligations.VeLaneResults : Prop :=
  ∀ (s : State) (c : CoreId) (hw : HwErr) (i : BitVec 256) (r : List (BitVec 256)) (l : VeLane), l ∈ veLanes →
    Fires s (veKey c) i r → veFieldsOk i = true → veOpc i = l.opc → veFunc i = l.func → veStruck hw false = false →
    ∃ t, exec (l.cmd c hw) s = .next t ∧ LeftQueue s t (veKey c) r ∧
      (∀ m n, m ≤ veNr i → n < 64 →
        t.word32 (s.tileKey c (veDst i) m n) =
          l.fn (s.veElem c (veImm i 0) (veImm i 1) (veA i) m n) (s.veElem c (veImm i 0) (veImm i 1) (veB i) m n)
            (s.veElem c (veImm i 0) (veImm i 1) (veC i) m n)) ∧
      (∀ k, (∀ m n, m ≤ veNr i → n < 64 → k ≠ s.tileKey c (veDst i) m n) → t.word32 k = s.word32 k) ∧
      t.mem = s.mem ∧ t.streams = s.streams ∧ OtherPagesKept s t c

/-- R128: a reduction at the head of the VE's queue combines, for each of the 64 rows (AXIS 0) or columns (AXIS 1) of
its source tile, the first NR + 1 elements in the fixed tree, folds in the destination's old element where RACC is 1,
and writes column (or row) DIDX of its destination tile; it changes no other element of any tile and no byte of memory.
Commands that complete in it: RED_SUM, RED_MAX, RED_MIN. -/
def Obligations.VeReductionResults : Prop :=
  ∀ (s : State) (c : CoreId) (hw : HwErr) (i : BitVec 256) (r : List (BitVec 256)) (o : RedOp),
    Fires s (veKey c) i r → veFieldsOk i = true → veOpc i = 5 →
    veFunc i = (match o with | .sum => 0 | .max => 1 | .min => 2) → veStruck hw false = false →
    ∃ t, exec (match o with | .sum => .redSum c hw | .max => .redMax c hw | .min => .redMin c hw) s = .next t ∧
      LeftQueue s t (veKey c) r ∧
      (∀ x, x < 64 →
        let src := fun y => s.word32 (if veAxis i = 0 then s.tileKey c (veA i).tile x y else s.tileKey c (veA i).tile y x)
        let key := if veAxis i = 0 then s.tileKey c (veDst i) x (veDidx i) else s.tileKey c (veDst i) (veDidx i) x
        let v := (redLine o (veNr i + 1) src).1
        t.word32 key = if veRacc i then (o.op (s.word32 key) v).1 else v) ∧
      (∀ k, (∀ x, x < 64 →
          k ≠ (if veAxis i = 0 then s.tileKey c (veDst i) x (veDidx i) else s.tileKey c (veDst i) (veDidx i) x)) →
        t.word32 k = s.word32 k) ∧
      t.mem = s.mem ∧ OtherPagesKept s t c

/-- R130: a VE load whose source lies in the pool, every line of it readable, decodes each element inside ROWS and COLS
into its tile register and clears the others, and writes no memory; the tile's other registers are unchanged. Commands
that complete in it: VE_LD. -/
def Obligations.VeLoadFromPool : Prop :=
  ∀ (s : State) (c : CoreId) (hw : HwErr) (i : BitVec 256) (r : List (BitVec 256)),
    Fires s (veKey c) i r → veFieldsOk i = true → veOpc i = 1 → veStruck hw true = false →
    s.checkDesc c (veDesc i) true = none →
    let d := storeDesc (s.bytesAt (poolAddr c (veDesc i)) 64)
    d.dstk = false →
    (∀ a ∈ d.touched.lines.map (·.1), s.readStop c a = none) →
    ∃ t, exec (.veLd c hw) s = .next t ∧ LeftQueue s t (veKey c) r ∧
      (∀ m n, m < 64 → n < 64 →
        t.word32 (s.tileKey c (veDst i) m n) =
          if m ≤ d.rows ∧ n ≤ d.cols then
            (d.decode (s.runKey (s.polderOfCore c)) (s.stepNo (s.polderOfCore c)) s.byteAt m n).1
          else 0) ∧
      (∀ k, (∀ m n, m < 64 → n < 64 → k ≠ s.tileKey c (veDst i) m n) → t.word32 k = s.word32 k) ∧
      t.mem = s.mem ∧ OtherPagesKept s t c

/-! Stores through a descriptor, and the matrix engine. -/

/-- R20, R33, R35, R36, R86: one group of an MMA adds to each of the 64 × 64 elements of its accumulator set the exact sum of
the group's products, rounded once, starting from +0 where the group opens the set with ACC 0; a group whose sum is exactly
zero leaves the element as it was, a NaN in its canonical form. No other accumulator or tile element and no byte of memory
changes. -/
def Obligations.MmaGroupAccumulates : Prop :=
  ∀ (s : State) (c : CoreId) (aset : Fin 2) (zero : Bool) (a b : MeOperand) (g : Nat) (zen : Option Nat),
    let t := s.meGroup c aset zero a b g zen
    (∀ m n, m < 64 → n < 64 →
      let old := if zero then 0 else s.word32 (s.accKey c aset m n)
      let sum := groupSum (groupWeight a.f b.f) (panelLane a.f (s.meBytes c a g) m) (panelLane b.f (s.meBytes c b g) n)
        (s.meScale c a g m) (s.meScale c b g n)
      t.word32 (s.accKey c aset m n) = if sum.isZero then veQuiet old old else rne32 ((f32 old).add sum)) ∧
    (∀ k, (∀ m n, m < 64 → n < 64 → k ≠ s.accKey c aset m n) → t.word32 k = s.word32 k) ∧
    t.mem = s.mem ∧ t.streams = s.streams ∧ OtherPagesKept s t c

/-- R62, R86 to R88: an MMA at the head of the ME's queue whose operands are all there completes: it runs its KG groups
in order from the state after firing (and after loading C_init where ACC is 2), and then drains its set where DRN is 1
or is finished. Commands that complete in it: MMA. -/
def Obligations.MmaRunsGroups : Prop :=
  ∀ (s : State) (c : CoreId) (hw : HwErr) (i : BitVec 256) (r : List (BitVec 256)),
    Fires s (meKey c) i r → meOpc i = 1 → (∀ g, meStruck hw g = false) → drainStruck hw (meKg i) = false →
    s.meFieldsOk c i = true → (meDrn i = true → s.checkDesc c (meSdesc i) false = none) →
    let desc := if meDrn i then s.bytesAt (poolAddr c (meSdesc i)) 64 else []
    let u := s.fire (meKey c) i (if meDrn i then storeClaims c (storeDesc desc) else []) true
    let w := u.1.markOpen c (meAset i) true
    let w := { w with meOpened := sset (fun _ => 0) w.meOpened c (sget (fun _ => 0) w.meOpened c ||| 2 ^ meAset i) }
    let w0 := if meAcc i = 2 then (w.meLoadInit c (meAset i) (meCinit i)).1 else w
    let j : Job := ⟨i, (s.engine (meKey c)).head, u.2, 0, (s.stream c (meA i 0).stream).pos,
      (s.stream c (meB i 0).stream).pos, desc, false⟩
    (meAcc i = 2 → (w.meLoadInit c (meAset i) (meCinit i)).2 = none) →
    (∀ g, g < meKg i → (w0.meBefore c j g).meGroupStop c (meA i j.aPos) (meB i j.bPos) g = none) →
    exec (.mma c hw) s =
      .next (if meDrn i then
          ((w0.meBefore c j (meKg i)).dropJob (meKey c)).drainSet c (meAset i) u.2 (s.engine (meKey c)).head desc
        else ((w0.meBefore c j (meKg i)).dropJob (meKey c)).finish u.2)

/-- R87, R89, R95: a DRAIN at the head of the ME's queue completes: it fires and stores the set's values, which do not
change, through its descriptor; once the store has gone through without a fault the set is no longer open. Commands that
complete in it: DRAIN. -/
def Obligations.DrainStoresSet : Prop :=
  ∀ (s : State) (c : CoreId) (hw : HwErr) (i : BitVec 256) (r : List (BitVec 256)),
    Fires s (meKey c) i r → meOpc i = 2 → s.meFieldsOk c i = true → s.checkDesc c (meSdesc i) false = none →
    drainStruck hw 0 = false →
    let desc := s.bytesAt (poolAddr c (meSdesc i)) 64
    let u := s.fire (meKey c) i (storeClaims c (storeDesc desc)) true
    let t := u.1.storeTile (meKey c) u.2 (s.engine (meKey c)).head (storeDesc desc)
      (fun m n => f32 (s.word32 (s.accKey c (meAset i) m n))) 0x0A0
    exec (.drain c hw) s =
        .next (if t.inflight.any (fun x => x.id == u.2 && x.failed) then t else t.markOpen c (meAset i) false) ∧
      t.words32 = s.words32

/-! The matrix-vector path. -/

/-- R109: a VLOAD at the head of the MVP's queue, every line of it readable, fills the vector buffer with the elements
of each of its vectors and, with MXV, their scales, and changes no byte of memory, no tile and no stream. Commands that
complete in it: VLOAD. -/
def Obligations.VloadFillsBuffer : Prop :=
  ∀ (s : State) (c : CoreId) (i : BitVec 256) (r : List (BitVec 256)),
    Fires s (mvpKey c) i r → mvOpc i = 1 → mvOk i = true →
    (∀ q ∈ mvReads i, ∀ a ∈ linesOf (poolAddr c q.1) q.2, s.poolStop c a = none) →
    ∃ t, exec (.vload c .none) s = .next t ∧ LeftQueue s t (mvpKey c) r ∧
      (∀ v b, v < mvNv i → b < mvElemBytes i →
        sget (fun _ => 0) t.mvpBuf (s.mvBuf c v b) = s.byteAt (poolAddr c (mvRow i v) + b)) ∧
      (∀ v g, v < mvNv i → g < mvKg i → mvMxV i = true →
        sget (fun _ => 0) t.mvpBuf (s.mvBuf c v (16384 + g)) = s.byteAt (poolAddr c (mvScaleOff i v) + g)) ∧
      t.mem = s.mem ∧ t.words32 = s.words32 ∧ t.streams = s.streams ∧ OtherPagesKept s t c

/-- R107, R110: a PASS at the head of the MVP's queue whose weight groups are all there writes to column n of each
vector's output row the sum of R107 over the column's KG groups, rounded at each group, from +0 or, with ACCIN, from the
row's old element; it takes the groups from the weight queue and changes no other byte, no tile and no accumulator.
Commands that complete in it: PASS. -/
def Obligations.PassWritesColumns : Prop :=
  ∀ (s : State) (c : CoreId) (i : BitVec 256) (r : List (BitVec 256)),
    Fires s (mvpKey c) i r → mvOpc i = 2 → mvOk i = true → s.uncopied = [] → s.stalled = [] →
    let gs := (s.wgroups c (mvStream i)).take (mvNcol i * mvKg i)
    gs.length = mvNcol i * mvKg i → (∀ w ∈ gs, w.void = none) →
    (∀ v, v < mvNv i → mvRow i v + 4 * mvNcol i ≤ poolSize) →
    (∀ v w, v < w → w < mvNv i →
      mvRow i v + 4 * mvNcol i ≤ mvRow i w ∨ mvRow i w + 4 * mvNcol i ≤ mvRow i v) →
    ∃ t, exec (.pass c .none) s = .next t ∧ LeftQueue s t (mvpKey c) r ∧
      (∀ v n, v < mvNv i → n < mvNcol i →
        let a := poolAddr c (mvRow i v + 4 * n)
        BitVec.ofNat 32 (t.numAt a 4) =
          (s.mvColumn c i ((gs.drop (n * mvKg i)).take (mvKg i)) v
            (if mvAccin i then BitVec.ofNat 32 (s.numAt a 4) else 0)).1) ∧
      (∀ a, OtherPool s c a →
        (∀ v, v < mvNv i → a < poolAddr c (mvRow i v) ∨ poolAddr c (mvRow i v) + 4 * mvNcol i ≤ a) →
        t.byteAt a = s.byteAt a) ∧
      t.wgroups c (mvStream i) = (s.wgroups c (mvStream i)).drop (mvNcol i * mvKg i) ∧ t.words32 = s.words32

/-- R95 to R97, R131: a VE store fires, claims its destination's granules and stores the tile as encoded by its
descriptor; the tile registers do not change. A tile stored in its core's own pool, with no granule of it waiting for a
copy, reads back byte by byte as the descriptor's image: scale bytes, and data bytes that are no scale bytes; every
other byte of every pool and of module memory is unchanged. Commands that complete in it: VE_ST. -/
def Obligations.VeStoreWritesTile : Prop :=
  (∀ (s : State) (c : CoreId) (hw : HwErr) (i : BitVec 256) (r : List (BitVec 256)),
    Fires s (veKey c) i r → veFieldsOk i = true → veOpc i = 2 → veStruck hw true = false →
    s.checkDesc c (veDesc i) false = none →
    let d := storeDesc (s.bytesAt (poolAddr c (veDesc i)) 64)
    let u := s.fire (veKey c) i (storeClaims c d) true
    exec (.veSt c hw) s =
        .next (u.1.storeTile (veKey c) u.2 (s.engine (veKey c)).head d
          (fun m n => f32 (s.word32 (s.tileKey c (veDst i) m n))) 0x0A8) ∧
      (u.1.storeTile (veKey c) u.2 (s.engine (veKey c)).head d
          (fun m n => f32 (s.word32 (s.tileKey c (veDst i) m n))) 0x0A8).words32 = s.words32) ∧
  (∀ (s : State) (c : CoreId) (e : Fin 3) (id pc ev : Nat) (d : StoreDesc) (v : Nat → Nat → FVal),
    let k := 4 * c.val + e.val
    let p := s.polderOfCore c
    let img := d.image (s.runKey p) (s.stepNo p) v
    let t := s.storeTile k id pc d v ev
    d.dstk = false → s.uncopied = [] → s.stalled = [] →
    (∀ a b, (a, b) ∈ img.data ∨ (a, b) ∈ img.scales → poolAddr c 0 ≤ a ∧ a < poolAddr c poolSize) →
    (∀ a b, (a, b) ∈ img.scales → t.byteAt a = b) ∧
      (∀ a b, (a, b) ∈ img.data → (∀ b', (a, b') ∉ img.scales) → t.byteAt a = b) ∧
      (∀ a, OtherPool s c a → (∀ b, (a, b) ∉ img.data ∧ (a, b) ∉ img.scales) → t.byteAt a = s.byteAt a) ∧
      t.words32 = s.words32)

/-! Streams. -/

/-- R191, R194: while fewer than 48 requests of class S0 are outstanding, the lowest-numbered armed stream of a core
that has a request ready issues it: one S0 read of its next bytes, suppressed where R194 says so, after which the stream
stands past it; no other stream and no byte of memory changes. Commands that complete in it: PREFETCH_REQUEST. -/
def Obligations.PrefetchIssuesRequest : Prop :=
  ∀ (s : State) (c : CoreId) (n : Nat) (f : Fetch),
    s.canRun (suKey c) = true → s.firstFetch c = some (n, f) →
    (s.reqs.filter fun r => r.core == c.val && r.cls == 0).length < 48 →
    ∃ t q, exec (.prefetchRequest c) s = .next t ∧ t.reqs = s.reqs ++ [q] ∧
      q.core = c.val ∧ q.cls = 0 ∧ q.write = false ∧ q.addr = f.1 ∧ q.len = f.2.1 ∧ q.dest = f.2.2 ∧
      q.cvm = (s.stream c n).desc.cvm ∧ q.void = s.suppressed c f.1 ∧
      t.stream c n = (s.stream c n).advance f ∧ (∀ m, m < 8 → m ≠ n → t.stream c m = s.stream c m) ∧
      (∀ m, m < n → s.nextFetch c m = none) ∧ t.mem = s.mem ∧ t.words32 = s.words32

/-! Instruction fetch, fences, slots and requests. -/

/-- R252: in a live step without a hold or freeze, and without an error of the memory, the fetch path fills the input
queue of each engine of the die to 8 instructions, or to the end of its section, with the instructions that follow in
its section; the engines of other dies, all memory and all tiles are unchanged. Commands that complete in it:
INSTRUCTION_FETCH. -/
def Obligations.InstructionFetchFills : Prop :=
  ∀ (s : State) (d : DieId) (hw : HwErr), s.frozen = false → s.hold.now = none → (s.polder (s.polderOfDie d)).live = true →
    spares hw = true →
    ∃ t, exec (.instructionFetch d hw) s = .next t ∧
      (∀ k, k ∈ engsOfDie d →
        let e := s.engine k
        let n := min (8 - e.queue.length) (e.len - (e.head + e.queue.length))
        let new := (List.range n).map fun i => BitVec.ofNat 256 (s.numAt (e.base + 32 * (e.head + e.queue.length + i)) 32)
        t.engine k = ⟨e.queue ++ new, e.head, e.base, e.len⟩) ∧
      (∀ k, k ∉ engsOfDie d → t.engine k = s.engine k) ∧
      t.mem = s.mem ∧ t.words32 = s.words32 ∧ t.inflight = s.inflight

/-- R64: a fence of an engine retires its oldest in-flight instruction whose writes are all accepted: the instruction's
claimed granules become valid, its posts raise their counters by one where they name different counters below 255, and
it is in flight no more; no memory changes. Commands that complete in it: FENCE. -/
def Obligations.FenceRetires : Prop :=
  ∀ (s : State) (e : EngineId) (x : Inflight), s.frozen = false → s.hold.now = none →
    (s.inflight.find? fun x => x.eng == EngineId.key e && s.fenceReady x) = some x →
    (∀ q ∈ x.claims, q.1 < 256 ∧ q.2 < 1536) →
    (∀ p ∈ x.posts, p.1 < 256 ∧ p.2 < 64 ∧ s.token p.1 p.2 < 255) → x.posts.Nodup →
    ∃ t, exec (.fence e) s = .next t ∧ (∀ y ∈ t.inflight, y.id ≠ x.id) ∧
      (∀ q ∈ x.claims, t.valid q.1 q.2 = true) ∧
      (∀ p ∈ x.posts, t.token p.1 p.2 = s.token p.1 p.2 + 1) ∧
      (∀ c n, c < 256 → n < 64 → (c, n) ∉ x.posts → t.token c n = s.token c n) ∧
      t.mem = s.mem ∧ t.words32 = s.words32 ∧ t.streams = s.streams

/-- R253, R255: a slot moves the wheel on by one. A lone request that stands at its port makes the OUT transfer of an
entry that is held for it, and its target reads the data; a lone read whose data is ready at its cluster port, whose IN
entry of this slot names it, and for whose data the delivery buffer has room makes its IN transfer and enters the
buffer; without requests a slot changes no register and no memory. Commands that complete in it: SLOT. -/
def Obligations.SlotMovesTransfers : Prop :=
  ∀ s : State, s.frozen = false → s.hold.now = none → s.wheel.turns = true →
    ∃ t, exec .slot s = .next t ∧ t.wheel.slots = s.wheel.slots + 1 ∧ t.wheel.turns = true ∧ t.words32 = s.words32 ∧
      t.streams = s.streams ∧
      (s.reqs = [] → t.reqs = [] ∧ t.regs = s.regs ∧ t.mem = s.mem) ∧
      (∀ r, s.reqs = [r] → r.own.die < 4 → r.own.port < 11 → r.write = false → r.outs = 1 → r.hub = 0 → r.far = 0 →
        r.fail = 0 → (∀ tag, r.dest ≠ .made tag) → r.cvm = false → s.staleTag r.addr = false →
        let e := s.outAt r.own.die r.own.port (s.wheel.slots % 64)
        e.v = true → e.holds r = true → e.tgt < 4 → s.tgtOf r = some e.tgt → s.holdsSlot false r e.tgt = true →
        s.queueFull r e.tgt = false →
        ∃ q, t.reqs = [q] ∧ q.id = r.id ∧ q.outs = 0 ∧ q.sent = true ∧ q.ins = 1 ∧ q.data = s.bytesAt r.addr r.len ∧
          t.mem = s.mem) ∧
      (∀ r, s.reqs = [r] → r.own.die < 4 → r.own.port < 8 → r.cls < 4 → r.outs = 0 → r.hub = 0 → r.far = 0 → r.ins = 1 →
        r.ready ≤ s.slotTime →
        let e := s.inAt r.own.die r.own.port (s.wheel.slots % 64)
        let held := sget (fun _ => []) s.delivery (8 * r.own.die + r.own.port)
        e.v = true → e.own = r.own.own → s.tgtOf r = some e.tgt → e.tgt < 5 → bufferBytes held + r.len ≤ 16384 →
        t.reqs = [{ r with ins := 0 }] ∧
          sget (fun _ => []) t.delivery (8 * r.own.die + r.own.port) = drainBuffer held ++ [⟨r.id, r.passTo, r.len⟩] ∧
          t.mem = s.mem)

/-- R68, R70, R185: the oldest request of a class that has made its transfers completes: it is outstanding no more, and
data read for the staging buffer stands there byte by byte. One whose data failed its check completes as CHECK_VALUE in
its core's page, if that holds no fault. Commands that complete in it: REQUEST_COMPLETE. -/
def Obligations.RequestCompletes : Prop :=
  ∀ (s : State) (c : CoreId) (k : ClassId) (r : Req), s.frozen = false → s.hold.now = none →
    (s.reqs.find? fun r => r.core == c.val && r.cls == k.val) = some r → s.arrivedReq r = true →
    ∃ t, exec (.requestComplete c k .none) s = .next t ∧ (∀ x ∈ t.reqs, x.id ≠ r.id) ∧
      (r.fail = 0 → (∀ x ∈ s.reqs, x.id ≠ r.id → x ∈ t.reqs) ∧
        (∀ off, r.dest = .staging off → off + r.data.length ≤ poolSize →
          ∀ j (h : j < r.data.length), t.byteAt (poolAddr c (off + j)) = r.data[j])) ∧
      (r.fail = 2 ∨ r.fail = 3 → r.sent = true → r.eng < 4 → s.rd (Pg.core c) Reg.Common.FC_VALID = 0 →
        t.rd (Pg.core c) Reg.Common.FC_VALID = 1 ∧ (t.word (Pg.core c) 0x010).toNat % 256 = 0x46 ∧ t.mem = s.mem)

/-! Layout engines. -/

/-- R147, R150, R151: PERMUTE at the head of Stepstone's queue fires and moves its first tile; each further tile is
moved by its own command, once every write of the previous tile is complete, for which it waits. A tile is read whole
into the stage buffer before any of it is written; once its writes are complete its pool granules are valid, and after
the last tile the PERMUTE is finished. Commands that complete in it: PERMUTE, STEPSTONE_TILE. The model's choices in it:
log entry 56. -/
def Obligations.PermuteMovesTiles : Prop :=
  (∀ (s : State) (cl : ClusterId) (i : BitVec 256) (r : List (BitVec 256)),
    Fires s (cluKey cl 0) i r → stOpc i = 1 → s.stCheck cl i (s.engine (cluKey cl 0)).head = .go →
    let c := cluHome cl i
    let u := s.fire (cluKey cl 0) i [] true
    let j : Job := ⟨i, (s.engine (cluKey cl 0)).head, u.2, 0, 0, 0,
      s.bytesAt (poolAddr c (stSrc i)) 128 ++ s.bytesAt (poolAddr c (stDst i)) 128, false⟩
    u.1.tileClear cl j → exec (.permute cl .none) s = .next (u.1.tileDone cl j)) ∧
  (∀ (s : State) (cl : ClusterId) (j : Job), s.job (cluKey cl 0) = some j → s.canRun (cluKey cl 0) = true →
    (j.init = false → s.tileClear cl j → exec (.stepstoneTile cl .none) s = .next (s.tileDone cl j)) ∧
    (j.init = true → s.owing j.id = true →
      exec (.stepstoneTile cl .none) s = .next ((s.setJob (cluKey cl 0) j).stall (cluKey cl 0) 0)) ∧
    (j.init = true → s.owing j.id = false →
      let d := tensorDesc (j.desc.drop 128)
      let q := { j with next := j.next + 1, init := false }
      let t := s.setValids (moveGranules d.f.bits j.tileMoves) true
      ((stGrid j.instr d).foldl (· * ·) 1 ≤ j.next + 1 →
        exec (.stepstoneTile cl .none) s = .next ((t.dropJob (cluKey cl 0)).finish j.id)) ∧
      (j.next + 1 < (stGrid j.instr d).foldl (· * ·) 1 → (t.setJob (cluKey cl 0) q).tileClear cl q →
        exec (.stepstoneTile cl .none) s = .next ((t.setJob (cluKey cl 0) q).tileDone cl q))))

/-- R153: NARROW at the head of Stepstone's queue fires and moves the elements of its destination one at a time, in
linear order, each read when the write of the one before is complete. It is finished after the last element; where a
write is not complete at once, the NARROW waits for it, and goes on with the next element when it is. Commands that
complete in it: NARROW. -/
def Obligations.NarrowMovesElements : Prop :=
  ∀ (s u : State) (cl : ClusterId) (j : Job) (from_ : Nat),
    let c := cluHome cl j.instr
    let a := tensorDesc (j.desc.take 128)
    let d := tensorDesc (j.desc.drop 128)
    let fires := ∃ r, Fires s (cluKey cl 0) j.instr r ∧ s.job (narrowKey cl) = none ∧ stOpc j.instr = 2 ∧
      s.stCheck cl j.instr (s.engine (cluKey cl 0)).head = .go ∧ (s.fire (cluKey cl 0) j.instr [] true) = (u, j.id) ∧
      j = ⟨j.instr, (s.engine (cluKey cl 0)).head, j.id, 0, 0, 0,
        s.bytesAt (poolAddr c (stSrc j.instr)) 128 ++ s.bytesAt (poolAddr c (stDst j.instr)) 128, false⟩ ∧ from_ = 0
    let goesOn := s.job (narrowKey cl) = some { j with init := true } ∧ j.init = false ∧ s.canRun (cluKey cl 0) = true ∧
      s.owing j.id = false ∧ u = s.setValids (moveGranules d.f.bits [narrowMoveOf j.instr a d j.next]) true ∧ from_ = j.next + 1
    fires ∨ goesOn →
    ∀ n, from_ + n ≤ d.total →
      (∀ m, m < n → (u.narrowAfter cl j a d from_ m).narrowClear cl j a d (from_ + m) ∧
        ((u.narrowAfter cl j a d from_ m).narrowMove cl j a d (from_ + m)).1.owing j.id = false) →
      let w := u.narrowAfter cl j a d from_ n
      (from_ + n = d.total → exec (.narrow cl .none) s = .next ((w.dropJob (narrowKey cl)).finish j.id)) ∧
      (from_ + n < d.total → w.narrowClear cl j a d (from_ + n) → (w.narrowMove cl j a d (from_ + n)).1.owing j.id = true →
        exec (.narrow cl .none) s = .next (((w.narrowMove cl j a d (from_ + n)).1.setJob (narrowKey cl)
          { j with next := from_ + n, init := true }).stall (cluKey cl 0) 0))

/-- R158 to R161: GATHER or SCATTER at the head of a Punt engine's queue fires and handles its indices in ascending
order: each selects, by POL, a slice that is moved, a slice that is filled with zeros or left out, or a fault. It is
finished after the last index; where the slices in flight or the requests of its home core leave no place, it waits, and
goes on from there. Commands that complete in it: GATHER, SCATTER. -/
def Obligations.PuntMovesSlices : Prop :=
  ∀ (s u : State) (cl : ClusterId) (eng : PuntId) (j : Job),
    let e := 1 + eng.val
    let k := cluKey cl e
    let i := j.instr
    let c := cluHome cl i
    let a := tensorDesc (j.desc.take 128)
    let d := tensorDesc ((j.desc.drop 128).take 128)
    let x := tensorDesc (j.desc.drop 256)
    let fires := ∃ r, Fires s k i r ∧ s.puCheck cl e i (s.engine k).head = .go ∧
      s.fire k i (puClaims i (s.tensorAt c (puDst i))) true = (u, j.id) ∧
      j = ⟨i, (s.engine k).head, j.id, 0, 0, 0, s.bytesAt (poolAddr c (puSrc i)) 128 ++ s.bytesAt (poolAddr c (puDst i)) 128
        ++ s.bytesAt (poolAddr c (puIdx i)) 128, false⟩
    let goesOn := s.job k = some j ∧ s.canRun k = true ∧ u = s
    (puOpc i = 1 ∨ puOpc i = 2) → fires ∨ goesOn →
    ∀ n, j.next + n ≤ puN i →
      (∀ m, m < n → (u.sliceAfter cl e j a d x j.next m).sliceClear cl e j a d x (j.next + m)) →
      let w := u.sliceAfter cl e j a d x j.next n
      let cmd := if puOpc i = 1 then Instr.gather cl eng .none else .scatter cl eng .none
      (j.next + n = puN i → exec cmd s = .next ((w.dropJob k).finish j.id)) ∧
      (j.next + n < puN i → ∀ cause, w.puHeld cl e (j.mover k k) = some cause →
        exec cmd s = .next ((w.setJob k { j with next := j.next + n }).stall k cause))

/-- R141, R151: writes of bits that do not overlap, to a cluster engine's home core's own pool, read back as written, and
every byte that none of them touches is unchanged, while no write waits for a copy. -/
def Obligations.BitWritesReadBack : Prop :=
  ∀ (s : State) (x : Mover) (tag : Nat) (cvm : Bool) (ws : List BitWrite), s.uncopied = [] → s.stalled = [] →
    1024 ≤ x.k → x.k < 1152 → x.home < 8 →
    (∀ w ∈ ws, 1 ≤ w.2.1 ∧ w.2.1 ≤ 32 ∧ poolAddr x.core 0 * 8 ≤ w.1 ∧ w.1 + w.2.1 ≤ poolAddr x.core poolSize * 8) →
    ws.Pairwise (fun a b => a.1 + a.2.1 ≤ b.1 ∨ b.1 + b.2.1 ≤ a.1) →
    let t := (s.putBitWrites x tag cvm ws).1
    (s.putBitWrites x tag cvm ws).2 = none ∧
      (∀ w ∈ ws, elemAtBit t.byteAt w.2.1 w.1 = w.2.2 % 2 ^ w.2.1) ∧
      (∀ a, OtherPool s x.core a → (∀ w ∈ ws, a < w.1 / 8 ∨ (w.1 + w.2.1 - 1) / 8 < a) → t.byteAt a = s.byteAt a)

/-- R187, R193, R195: an ARM that is in order fires and arms its stream afresh from its descriptors, takes a comparator
for its data range and, with scales, one for its scale range, clears the valid bits of its ring, and writes no memory. A
DISARM of an armed stream without requests in flight ends the stream at once: the stream is idle, its ring's valid bits
are clear and its comparators free; one with requests in flight fires and the stream is disarming; a DISARM of a stream
that is not armed changes no stream. Commands that complete in it: ARM, DISARM. -/
def Obligations.StreamsStartAndEnd : Prop :=
  (∀ (s : State) (c : CoreId) (i : BitVec 256) (r : List (BitVec 256)),
    Fires s (suKey c) i r → suOpc i = 1 → s.suCheck c i (s.engine (suKey c)).head = .go →
    let n := suStream i
    let d := parseStream (s.bytesAt (poolAddr c (suDesc i)) 64)
    let w := if d.swing then parseSwing (s.bytesAt (poolAddr c d.swd) 32) else SwingDesc.zero
    let x := freshStream d w
    let comps := (s.freeCompNums c).zip ([dataBounds d w] ++ if d.scl then [scaleBounds d w x.groups] else [])
    ∃ t, exec (.arm c .none) s = .next t ∧ LeftQueue s t (suKey c) r ∧
      t.stream c n = { x with comps := comps } ∧ (∀ c' n', n' < 8 → (c', n') ≠ (c.val, n) → t.stream c' n' = s.stream c' n') ∧
      t.rd (Pg.core c) Reg.Core.STATE [n] = 1 ∧ t.rd (Pg.core c) Reg.Core.DELIVERED [n] = 0 ∧
      (∀ e ∈ comps, t.rd (Pg.core c) Reg.Core.ARMED [e.1] = 1) ∧
      (d.kind = 0 → ∀ g, g < d.rgn → t.valid c (d.rbase + g) = false) ∧
      t.mem = s.mem ∧ t.words32 = s.words32 ∧ OtherPagesKept s t c) ∧
  (∀ (s : State) (c : CoreId) (i : BitVec 256) (r : List (BitVec 256)),
    Fires s (suKey c) i r → suOpc i = 2 → suFieldsOk i = true →
    let n := suStream i
    let x := s.stream c n
    (x.armed = true → x.desc.rbase + x.desc.rgn ≤ 1536 ∧ ∀ e ∈ x.comps, e.1 < 16) →
    ∃ t, exec (.disarm c) s = .next t ∧ LeftQueue s t (suKey c) r ∧
      (x.armed = true → s.streamReqs c n = [] → t.stream c n = Stream.idle ∧ t.rd (Pg.core c) Reg.Core.STATE [n] = 0 ∧
        (x.desc.kind = 0 → ∀ g, g < x.desc.rgn → t.valid c (x.desc.rbase + g) = false) ∧
        ∀ e ∈ x.comps, t.rd (Pg.core c) Reg.Core.ARMED [e.1] = 0) ∧
      (x.armed = true → s.streamReqs c n ≠ [] → t.stream c n = { x with ending := x.ending ++ [s.ids] } ∧
        t.rd (Pg.core c) Reg.Core.STATE [n] = 3) ∧
      (x.armed = false → t.streams = s.streams) ∧
      (∀ c' n', n' < 8 → (c', n') ≠ (c.val, n) → t.stream c' n' = s.stream c' n') ∧
      t.mem = s.mem ∧ t.words32 = s.words32 ∧ OtherPagesKept s t c)

/-! The Silt unit and the exact sums of Causeway. -/

/-- R66, R164: OPEN starts a session with empty accumulators; with INIT it counts each destination element once and
takes its value into its block's anchor, waiting while a ring granule of the destination has not arrived. It writes no
memory. Commands that complete in it: SILT_OPEN. -/
def Obligations.SiltOpenStartsSession : Prop :=
  ∀ (s : State) (cl : ClusterId) (i : BitVec 256) (r : List (BitVec 256)),
    Fires s (cluKey cl 3) i r → slOpc i = 1 → s.slCheck cl i (s.engine (cluKey cl 3)).head = .go →
    let raw := s.bytesAt (poolAddr (cluHome cl i) (slDst i)) 128
    let d := tensorDesc raw
    let u := (s.fire (cluKey cl 3) i [] true).1
    (iw i 0 13 13 = 1 → ∀ x, u.scanLines (cluHome cl i) d.cvm (tensorLines d) = some x → x.2 = .stop .wait) →
    let waits := iw i 0 13 13 = 1 ∧ u.scanLines (cluHome cl i) d.cvm (tensorLines d) ≠ none
    ∃ t, exec (.siltOpen cl .none) s = .next t ∧ LeftQueue s t (cluKey cl 3) r ∧
      (waits → (t.job (cluKey cl 3)).isSome = true ∧ t.siltOf cl = s.siltOf cl) ∧
      (¬ waits → t.job (cluKey cl 3) = none ∧
        (t.siltOf cl).open_ = true ∧ (t.siltOf cl).adding = false ∧ (t.siltOf cl).acc = [] ∧ (t.siltOf cl).dst = raw ∧
        ((t.siltOf cl).c48 = true ↔ iw i 0 12 12 = 1) ∧ ((t.siltOf cl).init = true ↔ iw i 0 13 13 = 1) ∧
        (iw i 0 13 13 = 0 → (t.siltOf cl).anchor = [] ∧ (t.siltOf cl).cnt = []) ∧
        (iw i 0 13 13 = 1 → ∀ e, e < d.total →
          sget (fun _ => 0) (t.siltOf cl).cnt e = 1 ∧
            anchorOf (s.elemAt d e) ≤ sget (fun _ => 0) (t.siltOf cl).anchor (e / 256))) ∧
      (∀ k : ClusterId, k ≠ cl → t.siltOf k = s.siltOf k) ∧ t.mem = s.mem

/-- R164, R165: ANCHOR or ADD at the head of Silt's queue fires and takes the slices of its positions into the session
in ascending order, ADD marking the session's second phase first. It is finished after the last position; where class S3
of its home core holds 48 requests, it waits, and goes on from there. Commands that complete in it: SILT_ANCHOR_OP,
SILT_ADD. -/
def Obligations.SiltTakesContributions : Prop :=
  ∀ (s u : State) (cl : ClusterId) (j : Job),
    let k := cluKey cl 3
    let i := j.instr
    let c := cluHome cl i
    let a := tensorDesc (j.desc.take 128)
    let x := tensorDesc (j.desc.drop 128)
    let fires := ∃ r, Fires s k i r ∧ s.slCheck cl i (s.engine k).head = .go ∧ (s.fire k i [] true).2 = j.id ∧
      u = (if slOpc i = 3 then (s.fire k i [] true).1.setSilt cl { s.siltOf cl with adding := true }
        else (s.fire k i [] true).1) ∧
      j = ⟨i, (s.engine k).head, j.id, 0, 0, 0, s.bytesAt (poolAddr c (slSrc i)) 128 ++ s.bytesAt (poolAddr c (slIdx i)) 128,
        false⟩
    let goesOn := s.job k = some j ∧ s.canRun k = true ∧ u = s
    (slOpc i = 2 ∨ slOpc i = 3) → fires ∨ goesOn →
    ∀ n, j.next + n ≤ slN i →
      (∀ m, m < n → (u.siltAfter cl j a x j.next m).siltClear cl j a x (j.next + m)) →
      let w := u.siltAfter cl j a x j.next n
      let cmd := if slOpc i = 2 then Instr.siltAnchorOp cl .none else .siltAdd cl .none
      (j.next + n = slN i → exec cmd s = .next ((w.dropJob k).finish j.id)) ∧
      (j.next + n < slN i → w.classFull (j.mover k k).core 3 = true →
        exec cmd s = .next ((w.setJob k { j with next := j.next + n }).stall k 1))

/-- R164: CLOSE adds, with INIT, the destination's values once more, rounds every accumulator once to the destination's
format and writes it; the session is closed. Commands that complete in it: SILT_CLOSE. -/
def Obligations.SiltCloseWritesSums : Prop :=
  ∀ (s : State) (cl : ClusterId) (i : BitVec 256) (r : List (BitVec 256)),
    Fires s (cluKey cl 3) i r → slOpc i = 4 → s.slCheck cl i (s.engine (cluKey cl 3)).head = .go →
    let c := cluHome cl i
    let x := s.siltOf cl
    let d := tensorDesc x.dst
    let f := s.fire (cluKey cl 3) i (d.granules d.ext) true
    let u := f.1
    let z : Mover := ⟨cluKey cl 3, cluKey cl 3, f.2, (s.engine (cluKey cl 3)).head, iw i 0 6 4⟩
    let y := if x.init then (List.range d.total).foldl (fun y e => y.addIn e (u.elemAt d e)) x else x
    let ws := (List.range d.total).map fun e =>
      (d.bitOf (unlinear d.ext e), d.f.bits,
        (cwResult x.c48 (sget (fun _ => 0) y.anchor (e / 256)) (sget (fun _ => 0) y.acc e) d.f (u.slRounding c i d e) false).1)
    let v := if x.init then u.readLines z 0 (tensorLines d) else u
    (x.init = true → (u.setValids (d.granules d.ext) true).scanLines c d.cvm (tensorLines d) = none) →
    (v.putBitWrites z 1 d.cvm ws).2 = none →
    ∃ t, exec (.siltClose cl .none) s = .next t ∧ LeftQueue s t (cluKey cl 3) r ∧ t.siltOf cl = Silt.closed ∧
      t.mem = (v.putBitWrites z 1 d.cvm ws).1.mem ∧ (∀ k : ClusterId, k ≠ cl → t.siltOf k = s.siltOf k)

/-- R41, R320, R321, R323: the partial of a block element does not depend on the order of its contributions, whatever the
anchor and the width. -/
def Obligations.CausewaySumsAreOrderFree : Prop :=
  ∀ (c48 : Bool) (a : Nat) (vs ws : List FVal), vs.Perm ws →
    vs.foldl (fun x v => cwJoin a x (cwWord c48 a v)) 0 = ws.foldl (fun x v => cwJoin a x (cwWord c48 a v)) 0

/-! Steps and module holds. -/

/-- R268, R400: in the SCLK after a fault, the running polder's engines stop with nothing queued or in flight, RUN
clears, STATE becomes 2, and no step is live; tiles, accumulators and all memory stand as they are. Commands that
complete in it: STEP_ABANDONED. The model's choices in it: log entry 22. -/
def Obligations.FaultAbandonsStep : Prop :=
  ∀ (s : State) (p : PolderId), s.frozen = false → (s.polder p).fault = true → s.runState p = 3 →
    ∃ t, exec (.stepAbandoned p) s = .next t ∧ t.rd (Pg.program p) Reg.Program.RUN = 0 ∧ t.runState p = 2 ∧
      (t.polder p).live = false ∧ (t.polder p).fault = false ∧ (t.polder p).rotation = (s.polder p).rotation ∧
      (∀ k ∈ s.engsOf p, (t.engine k).queue = [] ∧ t.job k = none ∧ t.job (k + 2048) = none) ∧
      (∀ x ∈ t.inflight, x.eng ∉ s.engsOf p) ∧ (∀ x ∈ s.inflight, x.eng ∉ s.engsOf p → x ∈ t.inflight) ∧
      t.words32 = s.words32 ∧ t.mem = s.mem

/-- R251: once every engine of a polder has retired its section and nothing of it is outstanding, the step boundary
advances STEP by one, mod 2^32, and ends the step. Where no commit is armed, no agent has staged a field and no rotation
is due, the boundary changes no tile. Commands that complete in it: STEP_BOUNDARY. -/
def Obligations.StepBoundaryAdvancesStep : Prop :=
  ∀ (s : State) (p : PolderId), s.still = false → s.stepDone p = true → s.snapWaits p = false → s.commit = none →
    s.agentWrites = [] → s.rd Pg.reliab Reg.Reliab.ROT_EN ≠ 1 →
    ∃ t, exec (.stepBoundary p) s = .next t ∧ t.stepNo p = (s.stepNo p + 1) % 2 ^ 32 ∧ (t.polder p).live = false ∧
      t.words32 = s.words32

/-- R248, R251: at a turn boundary after the boundary's actions, the engines of a running polder restart at the
beginning of their sections, with input queues filled, every stream of its cores disarmed, every Silt session of its
clusters closed, its phase counts are zero, and its step is live; a fetch that an abandoned step left in flight
completes first. Commands that complete in it: STEP_START. The model's choices in it: log entry 21. -/
def Obligations.StepStartRestartsEngines : Prop :=
  ∀ (s : State) (p : PolderId), s.still = false → (s.polder p).boundary = true ∨ (s.polder p).starting = true →
    (s.polder p).cutDue = false → s.runState p = 3 → s.wheel.turns = true → s.wheel.slots % 64 = 0 →
    (∀ m ∈ s.moves, s.polderOfCore m.core ≠ p) → (∀ d ∈ s.diesOf p, d ∉ s.heldDies) → p < s.polders.length → s.fetchesOver p = true →
    ∃ t, exec (.stepStart p) s = .next t ∧ (t.polder p).live = true ∧ (t.polder p).boundary = false ∧
      (t.polder p).starting = false ∧
      (∀ k ∈ s.engsOf p, (s.engine k).len ≠ 0 →
        (t.engine k).head = 0 ∧ (t.engine k).queue.length = min 8 (s.engine k).len ∧ (t.engine k).base = (s.engine k).base) ∧
      (∀ c ∈ s.coresOf p, ∀ n, n < 8 → (t.stream c n).armed = false) ∧
      (∀ cl, s.polderOfDie (cl / 8) = p → sget (fun _ => Silt.closed) t.silt cl = Silt.closed) ∧
      (∀ i, i < 13 → t.rd (Pg.phase p) Reg.Phase.LIVE [i] = 0) ∧ t.mem = s.mem ∧ t.words32 = s.words32

/-- R199, R263 to R267: the life of a hold. A refresh request begins a hold's lead, or waits where another hold has
begun its own; the hold within its lead comes into force with its cause shown and counted; the refresh reports
completion; and a completed hold ends, its length recorded, either in the next waiting hold or, where none waits and
nothing waits at the ports and no completion was held back, with every unit resumed. No memory and no tile changes. HOT
reads 1 in every die's page while any LPDDR5X device asks for a doubled refresh rate, 0 otherwise. Commands that
complete in it: REFRESH_REQUEST, HOLD_START, REFRESH_COMPLETE, HOLD_END, TEMPERATURE_MODE_CHANGE. The model's choices in
it: log entry 33. -/
def Obligations.HoldLifecycle : Prop :=
  ((∀ s : State, s.frozen = false → s.wheel.turns = true → s.holdAsked .refresh = false →
    ∃ t, exec .refreshRequest s = .next t ∧ t.mem = s.mem ∧ t.words32 = s.words32 ∧ t.hold.now = s.hold.now ∧
      (s.hold.now = none → s.hold.lead = none → t.hold.lead = some .refresh ∧ t.rd Pg.holds Reg.Holds.LEAD = 1) ∧
      (s.hold.now ≠ none ∨ s.hold.lead ≠ none → t.hold.lead = s.hold.lead ∧ .refresh ∈ t.hold.waiting)) ∧
  (∀ (s : State) (c : HoldCause), s.frozen = false → s.hold.lead = some c →
    ∃ t, exec .holdStart s = .next t ∧ t.hold.now = some c ∧ t.hold.lead = none ∧ t.hold.sclk = 0 ∧
      t.rd Pg.holds Reg.Holds.ACTIVE = 1 ∧ t.rd Pg.holds Reg.Holds.CAUSE = c.code ∧ t.rd Pg.holds Reg.Holds.LEAD = 0 ∧
      t.rd2 Pg.holds Reg.Holds.COUNT_LO Reg.Holds.COUNT_HI [c.code] =
        (s.rd2 Pg.holds Reg.Holds.COUNT_LO Reg.Holds.COUNT_HI [c.code] + 1) % 2 ^ 48 ∧
      t.mem = s.mem ∧ t.words32 = s.words32) ∧
  (∀ s : State, s.frozen = false → s.hold.now = some .refresh →
    exec .refreshComplete s = .next { s with hold := { s.hold with done := true } }) ∧
  (∀ s : State, s.frozen = false → s.hold.now ≠ none → s.hold.done = true →
    (∀ o ∈ s.ports, o.rxBuf = []) → s.ingestRx = [] → (∀ r ∈ s.reqs, s.arrivedReq r = false) →
    ∃ t, exec .holdEnd s = .next t ∧ t.rd Pg.holds Reg.Holds.LAST_LEN = s.hold.sclk % 2 ^ 32 ∧
      (s.nextHold = none → t.hold.now = none ∧ t.rd Pg.holds Reg.Holds.ACTIVE = 0) ∧
      (∀ c, s.nextHold = some c → t.hold.now = some c ∧ c ∉ t.hold.waiting ∧ t.rd Pg.holds Reg.Holds.CAUSE = c.code) ∧
      t.mem = s.mem ∧ t.words32 = s.words32)) ∧
  (∀ (s : State) (dev : DevId) (hot : Bool),
    ∃ t, exec (.temperatureModeChange dev hot) s = .next t ∧
      (∀ d : DieId, t.rd (Pg.die d) Reg.Die.HOT = if hot = true ∨ ∃ e ∈ s.hotDevs, e ≠ dev.val then 1 else 0) ∧
      (∀ e, e ∈ t.hotDevs ↔ (e = dev.val ∧ hot = true) ∨ (e ∈ s.hotDevs ∧ e ≠ dev.val)) ∧
      t.mem = s.mem ∧ t.words32 = s.words32 ∧ t.hold = s.hold ∧
      (∀ n o, o < 4096 → (∀ d : DieId, n ≠ Pg.die d) → t.word n o = s.word n o))

/-! Landings. -/

/-- R274, R276: in the SCLK it is due, where it has applied nothing yet, the landing unit applies the signal at the head
of its queue: COUNT grows by INC, GEN advances where ADV is 1, SIGNALS grows by 1, the last signaller is kept, and the
wait list is scanned at the new COUNT; every other landing and all tiles are unchanged; a gate it releases posts 12 SCLK
later. No second operation is applied in that SCLK. Commands that complete in it: SIGNAL. -/
def Obligations.SignalAdvancesLanding : Prop :=
  ∀ (s : State) (due rank n inc : Nat) (adv : Bool) (last : Word) (r : List QueuedOp), s.still = false →
    s.landingQ = ⟨due, rank, .signal n inc adv last⟩ :: r → due ≤ s.timestamp → s.landingDone = false →
    let l := s.landing n
    let q := scanWaiters (l.count + BitVec.ofNat 32 inc) l.waiters
    ∃ t, exec .signal s = .next t ∧
      t.landing n = ⟨q.1, if adv then l.gen + 1 else l.gen, last, l.signals + 1, q.2.1⟩ ∧
      (∀ m, m ≠ n → t.landing m = s.landing m) ∧ t.words32 = s.words32 ∧
      (∀ w ∈ q.2.2, ∀ c g, w.who = .gate c g → (s.timestamp + 12, c, g) ∈ t.releases) ∧
      t.landingQ = r ∧ t.landingDone = true

/-- R276: a scan in ascending slot releases the value waiters whose threshold COUNT has reached, in the arithmetic of
mod 2^32, and leaves COUNT as it is; claimers are released one for each unit of COUNT, in ascending slot, and take it.
-/
def Obligations.ScanReleasesWaiters : Prop :=
  (∀ (c : Word) (ws : List (Nat × Waiter)), (∀ e ∈ ws, e.2.claim = false) →
    (scanWaiters c ws).1 = c ∧
      (scanWaiters c ws).2.1 = ws.filter (fun e => !decide ((c - e.2.v).toNat < 2 ^ 31)) ∧
      (scanWaiters c ws).2.2 = (ws.filter (fun e => decide ((c - e.2.v).toNat < 2 ^ 31))).map (·.2)) ∧
  (∀ (c : Word) (ws : List (Nat × Waiter)), (∀ e ∈ ws, e.2.claim = true) → c.toNat < 2 ^ 31 →
    (scanWaiters c ws).1.toNat = c.toNat - ws.length ∧
      (scanWaiters c ws).2.1 = ws.drop c.toNat ∧ (scanWaiters c ws).2.2 = (ws.take c.toNat).map (·.2))

/-- R275, R313, R337: the landing unit enters the waiter of the registration at the head of its queue into its free
slot, where no waiter of the other kind waits, and scans the wait list; COUNT changes by claims only. A gate's
registration that finds its slot occupied, or names slot 10 or 11 where an enabled queue claims the landing, does not
enter it: the wait list stands, and the waiting core's page records QUEUE_OVERFLOW, if it holds no fault. Commands that
complete in it: REGISTRATION. -/
def Obligations.RegistrationEntersSlot : Prop :=
  (∀ (s : State) (due rank n slot : Nat) (w : Waiter) (r : List QueuedOp), s.still = false →
    s.landingQ = ⟨due, rank, .register n slot w⟩ :: r → due ≤ s.timestamp → s.landingDone = false →
    (w.isGate && s.hubSlot n slot) = false → (∀ e ∈ (s.landing n).waiters, e.1 ≠ slot ∧ e.2.claim = w.claim) →
    let l := s.landing n
    let q := scanWaiters l.count (insertWaiter slot w l.waiters)
    ∃ t, exec .registration s = .next t ∧ t.landing n = ⟨q.1, l.gen, l.last, l.signals, q.2.1⟩ ∧
      (∀ m, m ≠ n → t.landing m = s.landing m) ∧ t.landingQ = r ∧ t.words32 = s.words32) ∧
  (∀ (s : State) (due rank n slot : Nat) (w : Waiter) (r : List QueuedOp) (c g : Nat), s.still = false →
    s.landingQ = ⟨due, rank, .register n slot w⟩ :: r → due ≤ s.timestamp → s.landingDone = false →
    w.who = .gate c g → c < 256 → g < 32 → (∃ e ∈ (s.landing n).waiters, e.1 = slot) ∨ s.hubSlot n slot = true → s.rd (Pg.core c) Reg.Common.FC_VALID = 0 →
    ∃ t, exec .registration s = .next t ∧ t.landing n = s.landing n ∧ t.rd (Pg.core c) Reg.Common.FC_VALID = 1 ∧
      (t.word (Pg.core c) 0x010).toNat % 256 = 0x07 ∧ t.rd (Pg.core c) Reg.Core.GSTATE [g] = 0 ∧ t.landingQ = r)

/-- R279, R282: the lowest-numbered gate that can fire consumes one token: a local signal gate sends its signal to the
landing unit, due 20 SCLK later; a wait gate registers its waiter, with threshold V + r × VSTEP after r releases, and
waits; and a release posts one token 12 SCLK after it, not before, and leaves the gate idle. Commands that complete in
it: SIGNAL_GATE_FIRE, WAIT_GATE_FIRE, RELEASE_POST. The model's choices in it: log entry 14. -/
def Obligations.GatesFireAndRelease : Prop :=
  (∀ (s : State) (c : CoreId) (g : Nat), s.agentRuns c = true → s.firstGate c = some g → (s.gate c g).kind = 1 →
    (s.gate c g).tok < 64 →
    let x := s.gate c g
    ∃ t, exec (.signalGateFire c) s = .next t ∧ t.token c x.tok = s.token c x.tok - 1 ∧
      (x.remote = false →
        t.landingQ = insertOp ⟨s.timestamp + 20, rankGate c g, .signal x.landing x.inc x.adv
          (BitVec.ofNat 32 (lastWord s.modId (c.val / 64) (c.val / 8 % 8) (c.val % 8) g))⟩ s.landingQ ∧ t.mem = s.mem ∧
          t.words32 = s.words32)) ∧
  (∀ (s : State) (c : CoreId) (g : Nat), s.agentRuns c = true → s.firstGate c = some g → (s.gate c g).kind ≠ 1 →
    (s.gate c g).tok < 64 →
    let x := s.gate c g
    ∃ t, exec (.waitGateFire c) s = .next t ∧ t.token c x.tok = s.token c x.tok - 1 ∧
      t.rd (Pg.core c) Reg.Core.GSTATE [g] = 1 ∧
      t.landingQ = insertOp ⟨s.timestamp + 20, rankGate c g, .register x.landing x.widx
        ⟨.gate c g, x.kind == 3, BitVec.ofNat 32 (x.v + s.rd (Pg.core c) Reg.Core.RELEASES [g] * x.vstep),
          timeoutOf x.timeout⟩⟩ s.landingQ ∧ t.mem = s.mem ∧ t.words32 = s.words32) ∧
  (∀ (s : State) (due c g : Nat) (r : List (Nat × Nat × Nat)), s.still = false → s.releases = (due, c, g) :: r →
    s.timestamp < due → exec .releasePost s = .next s) ∧
  (∀ (s : State) (due c g : Nat) (r : List (Nat × Nat × Nat)), s.still = false → s.releases = (due, c, g) :: r →
    due ≤ s.timestamp → c < 256 → g < 32 → (s.gate c g).rtok < 64 → s.token c (s.gate c g).rtok < 255 →
    ∃ t, exec .releasePost s = .next t ∧ t.releases = r ∧ t.rd (Pg.core c) Reg.Core.GSTATE [g] = 0 ∧
      t.token c (s.gate c g).rtok = s.token c (s.gate c g).rtok + 1 ∧ t.mem = s.mem ∧ t.words32 = s.words32)

/-- R284: a gate's wait that outlasts its timeout leaves its slot, and the waiting core's page records LANDING_TIMEOUT,
if it holds no fault; a host's wait leaves its slot as timed out. COUNT and GEN are unchanged. Where the operation of
the same SCLK releases the wait, it does not time out. Commands that complete in it: LANDING_TIMEOUT. The model's
choices in it: log entry 54. -/
def Obligations.TimeoutLeavesSlot : Prop :=
  (∀ (s : State) (n : LandingId) (slot : SlotId), s.releasedNow n slot = true →
    exec (.landingTimeout n slot) s = .next s) ∧
  ∀ (s : State) (n : LandingId) (slot : SlotId) (e : Nat × Waiter), s.still = false → s.releasedNow n slot = false →
    ((s.landing n).waiters.find? fun e => e.1 == slot.val && e.2.left.isSome) = some e →
    ∀ (c g q v : Nat), e.2.who = .gate c g ∧ c < 256 ∧ g < 32 ∨ e.2.who = .host q v →
    let l := s.landing n
    ∃ t, exec (.landingTimeout n slot) s = .next t ∧
      t.landing n = { l with waiters := l.waiters.filter fun e => e.1 != slot.val } ∧
      (∀ m, m ≠ n.val → t.landing m = s.landing m) ∧
      (e.2.who = .gate c g → s.rd (Pg.core c) Reg.Common.FC_VALID = 0 →
        t.rd (Pg.core c) Reg.Common.FC_VALID = 1 ∧ (t.word (Pg.core c) 0x010).toNat % 256 = 0x0D) ∧
      (e.2.who = .host q v → (t.hostLinesOf n).endSeq = q ∧ (t.hostLinesOf n).endHow = 1) ∧
      t.mem = s.mem ∧ t.words32 = s.words32

/-- R289, R426: a host write takes a cached signal line away; the module's next read of the line caches it with the
totals read. The first read after HOST_EN was set takes the baseline only; a later read that finds the totals advanced
by d and a queues operations that add up to d increments and a generation advances. Commands that complete in it:
HOST_SNOOP, HOST_SIGNAL_LINE_READ. The model's choices in it: log entry 15. -/
def Obligations.HostLinesFollowTheHost : Prop :=
  (∀ (s : State) (n : HostLandingId), ∃ t, exec (.hostSnoop n) s = .next t ∧
    t.hostLinesOf n = { s.hostLinesOf n with cached := false } ∧
    (∀ m, m ≠ n.val → t.hostLinesOf m = s.hostLinesOf m) ∧ t.regs = s.regs ∧ t.mem = s.mem ∧ t.landings = s.landings) ∧
  (∀ (s : State) (n : HostLandingId) (x : HostLine), s.frozen = false → s.rd Pg.landings Reg.Landings.HOST_EN = 1 →
    (s.hostLinesOf n).cached = false → s.rd Pg.selfTest Reg.SelfTest.STSTATE ≠ 1 → s.gather = [] →
    (∀ p, p < 4 → s.towMode p ≠ 3) →
    let h := s.hostLinesOf n
    let d := (x.stotal.toNat + 2 ^ 32 - h.stotal) % 2 ^ 32
    let a := (x.atotal.toNat + 2 ^ 16 - h.atotal) % 2 ^ 16
    ∃ t, exec (.hostSignalLineRead n x) s = .next t ∧
      t.hostLinesOf n = ⟨true, true, x.stotal.toNat, x.atotal.toNat, x.wseq.toNat, h.endSeq, h.endHow⟩ ∧
      (h.based = false → t.landingQ = s.landingQ) ∧
      (h.based = true → x.wseq.toNat = h.wseq →
        t.landingQ = (hostOps n d a (BitVec.ofNat 32 (s.hubLast 8 0))).foldl
          (fun l op => insertOp ⟨s.timestamp, rankHost, op⟩ l) s.landingQ) ∧
      t.mem = s.mem ∧ t.words32 = s.words32) ∧
  (∀ (n d a : Nat) (last : Word), d < 2 ^ 32 →
    ((hostOps n d a last).map fun o => match o with | .signal _ i _ _ => i | _ => 0).sum = d ∧
      ((hostOps n d a last).countP fun o => match o with | .signal _ _ v _ => v | _ => false) = a ∧
      ∀ o ∈ hostOps n d a last, ∃ i v, o = .signal n i v last ∧ i < 2 ^ 16)

/-! Ferry links and Causeway. -/

/-- R293, R295, R297, R302: a data crossing out of sequence, and one that is discarded otherwise because its codeword is
uncorrectable, its CRC fails, its KIND is reserved or its SEQ is not the one expected, is counted in BAD_CROSS, its
symbols are counted by physical lane in SYM_ERR, and a NAK falls due unless one has been sent since the last crossing in
sequence. Nothing else of the ports and no memory, tile or landing changes; any other received crossing is not
discarded. The bytes of a crossing as a port sends it pass the CRC and give back its KIND and SEQ. Commands that
complete in it: DISCARDED_CROSSING. The model's choices in it: log entries 13 and 25. -/
def Obligations.DiscardedCrossingsAreAskedForAgain : Prop :=
  (∀ (s : State) (p : PortId) (x : Crossing) (i : Instr) (sym : List Nat), s.linkRuns p = true → s.ports.length = 16 →
    sym.length ≤ 9 →
    (∃ e ∈ crossings, e.2 x = true ∧ i = e.1 p x ∧ x.seq.toNat ≠ (s.port p).rxSeq ∧ sym = x.sym) ∨
      (∃ why, i = .discardedCrossing p why ∧ mustDiscard why (s.port p).rxSeq = true ∧ sym = discardSym why) →
    let o := s.port p
    let g := Pg.ferry p
    ∃ t, exec i s = .next t ∧ t.port p = { o with nakDue := o.nakDue || !o.nakSent, syms := (t.port p).syms } ∧
      (∀ q, q ≠ p.val → t.port q = s.port q) ∧
      t.rd g Reg.Ferry.BAD_CROSS = min (s.rd g Reg.Ferry.BAD_CROSS + 1) (2 ^ 32 - 1) ∧
      (∀ l, l < 9 → t.rd g Reg.Ferry.SYM_ERR [l] = min (s.rd g Reg.Ferry.SYM_ERR [l] + sym.getD l 0) (2 ^ 32 - 1)) ∧
      t.mem = s.mem ∧ t.words32 = s.words32 ∧ t.landings = s.landings ∧ t.landingQ = s.landingQ) ∧
  (∀ (s : State) (p : PortId) (why : DiscardWhy), mustDiscard why (s.port p).rxSeq = false →
    exec (.discardedCrossing p why) s = .next s) ∧
  (∀ x : Crossing, (crossWire x).length = 268 ∧ crossCrcOk (crossWire x) = true ∧ rawKind (crossWire x) = x.kind.toNat ∧
    rawSeq (crossWire x) = x.seq.toNat)

/-- R265, R293, R300, R302, R309: a data crossing in sequence is acknowledged: the port expects the next SEQ, and the
symbols corrected in it are counted. One that must wait, or that follows one of its VC that waits on the same way (for
this module, or for another), stays in the receive buffer, and nothing else changes; every other one is handed over.
Commands that complete in it: HEAD, DATA, REMOTE_SIGNAL, ENDACK, REFUSE, CW_EXP, CW_DATA, BARRIER_CROSSING,
FREEZE_CROSSING, THAW_CROSSING. The model's choices in it: log entry 13. -/
def Obligations.CrossingsAreTakenInOrder : Prop :=
  ∀ (s0 : State) (p : PortId) (x0 : Crossing), s0.linkRuns p = true → s0.ports.length = 16 →
    x0.seq.toNat = (s0.port p).rxSeq → ∀ e ∈ crossings, e.2 x0 = true →
    let s := s0.noteSym p x0.sym
    let x := { x0 with sym := [] }
    let o := s.port p
    let waits := s.mustWait x = true ∨
      (x.kind ≠ Kind.freeze ∧ ∃ y ∈ o.rxBuf, y.vc = x.vc ∧ s.passesOn y = s.passesOn x)
    (waits → exec (e.1 p x0) s0 = .next (s.setPort p { o.took with rxBuf := o.rxBuf ++ [x] })) ∧
    (¬ waits → exec (e.1 p x0) s0 = .next ((s.setPort p o.took).handOver p x))

/-- R300, R307, R308, R310: a crossing for another module returns its credit, is counted in FWD, and enters the output
queue of the port that the wiring table chooses, on the upper VC of its class if it crosses the dateline or came on the
upper VC within the same dimension, on the lower VC otherwise; an unroutable one is counted and dropped. No memory is
used. -/
def Obligations.ForwardingFollowsWiringTable : Prop :=
  ∀ (s : State) (p : PortId) (x : Crossing), s.ports.length = 16 → (s.port p).freed.length = 8 → x.kind ≠ Kind.freeze →
    s.route x.dst.toNat x.src.toNat x.xid.toNat ≠ .here →
    let t := s.handOver p x
    let v := x.vc.toNat
    (t.port p).freed.getD v 0 = (s.port p).freed.getD v 0 + 1 ∧
    t.rd2 Pg.hubAcct Reg.HubAcct.FWD_LO Reg.HubAcct.FWD_HI =
      (s.rd2 Pg.hubAcct Reg.HubAcct.FWD_LO Reg.HubAcct.FWD_HI + (crossBody x).length) % 2 ^ 48 ∧
    (∀ q d dl, s.route x.dst.toNat x.src.toNat x.xid.toNat = .out q d dl →
      let up := dl || (v % 2 == 1 && s.portDim p == some d)
      (t.port q).out = (s.port q).out ++ [{ x with vc := BitVec.ofNat 3 (2 * (v / 2) + bit up), seq := 0 }] ∧
        ∀ m, m ≠ q → (t.port m).out = (s.port m).out) ∧
    (s.route x.dst.toNat x.src.toNat x.xid.toNat = .lost →
      t.rd Pg.routing Reg.Routing.UNROUTABLE = min (s.rd Pg.routing Reg.Routing.UNROUTABLE + 1) (2 ^ 32 - 1) ∧
        ∀ m, (t.port m).out = (s.port m).out) ∧
    t.mem = s.mem ∧ t.words32 = s.words32 ∧ t.landingQ = s.landingQ ∧ t.rxStreams = s.rxStreams

/-- R303 to R305, R395: the ladder of a failing link. The ack timer starts a retry of every unacknowledged crossing and
asks for a hold; its further expiries start the second and the third retry; at the third failure the port waits for lane
management if its spare is free, and goes down otherwise; a lane that is named is carried on the spare and the
retransmission restarts, and the receiving end names its in-service lane with the most symbol errors, the
lowest-numbered on a tie, and carries it on the spare too; a port goes down where no lane is named, or where the link is
silent; and an enabled port that has trained comes up with its retry buffer and output queues empty. Commands that
complete in it: ACK_TIMER, LANE_SWAP, LINK_SILENCE, PORT_UP. The model's choices in it: log entries 25 and 26. -/
def Obligations.RetryLadder : Prop :=
  (∀ (s : State) (p : PortId), s.linkRuns p = true → s.ports.length = 16 → (s.port p).retry ≠ [] →
    let g := Pg.ferry p
    let o := s.port p
    let n := s.rd g Reg.Ferry.FAILS
    let f := if s.rd g Reg.Ferry.PSTATE = 3 then n + 1 else n
    ((s.rd g Reg.Ferry.PSTATE = 2 ∨ n < 2) →
      ∃ t, exec (.ackTimer p) s = .next t ∧ t.rd g Reg.Ferry.PSTATE = 3 ∧ t.rd g Reg.Ferry.FAILS = f ∧
        t.port p = { o with resend := o.retry.length, unacked := o.retry.length } ∧ (∀ q, q ≠ p.val → t.port q = s.port q) ∧
        t.rd g Reg.Ferry.RETRIES = min (s.rd g Reg.Ferry.RETRIES + 1) (2 ^ 32 - 1) ∧
        (s.frozen = false → s.hold.now ≠ some .retry → t.hold = (s.requestHold .retry).hold) ∧
        t.mem = s.mem ∧ t.words32 = s.words32) ∧
    (s.rd g Reg.Ferry.PSTATE = 3 → n = 2 → s.rd g Reg.Ferry.SPARE_FOR = 0xF →
      ∃ t, exec (.ackTimer p) s = .next t ∧ t.awaitsLane p = true ∧ t.port p = { o with resend := 0 } ∧
        (∀ q, q ≠ p.val → t.port q = s.port q) ∧ t.mem = s.mem ∧ t.words32 = s.words32) ∧
    (s.rd g Reg.Ferry.PSTATE = 3 → n = 2 → s.rd g Reg.Ferry.SPARE_FOR ≠ 0xF →
      ∃ t, exec (.ackTimer p) s = .next t ∧ PortIsDown s t p)) ∧
  (∀ (s : State) (p : PortId) (l : Lane), s.linkRuns p = true → s.ports.length = 16 → s.awaitsLane p = true →
    (2, p.val, 0) ∉ s.badSpares →
    let g := Pg.ferry p
    let o := s.port p
    ∃ t, exec (.laneSwap p (some l)) s = .next t ∧ t.rd g Reg.Ferry.SPARE_FOR = l.val ∧ t.rd g Reg.Ferry.FAILS = 0 ∧
      t.rd g Reg.Ferry.MARGINING = 0 ∧ t.rd g Reg.Ferry.PSTATE = 3 ∧
      t.rd g Reg.Ferry.SWAPS = min (s.rd g Reg.Ferry.SWAPS + 1) (2 ^ 16 - 1) ∧
      t.port p = { o with resend := o.retry.length, unacked := o.retry.length } ∧ (∀ q, q ≠ p.val → t.port q = s.port q) ∧
      t.mem = s.mem ∧ t.words32 = s.words32) ∧
  (∀ (s : State) (p : PortId) (l : Nat) (lane : Option Lane), s.linkRuns p = true → s.ports.length = 16 →
    s.awaitsLane p = false → (s.port p).worstLane = some l → s.rd (Pg.ferry p) Reg.Ferry.SPARE_FOR = 0xF →
    (2, p.val, 0) ∉ s.badSpares →
    let g := Pg.ferry p
    ∃ t, exec (.laneSwap p lane) s = .next t ∧ t.rd g Reg.Ferry.SPARE_FOR = l ∧ t.rd g Reg.Ferry.MARGINING = 0 ∧
      t.rd g Reg.Ferry.SWAPS = min (s.rd g Reg.Ferry.SWAPS + 1) (2 ^ 16 - 1) ∧
      t.rd g Reg.Ferry.PSTATE = s.rd g Reg.Ferry.PSTATE ∧ t.port p = { s.port p with syms := [] } ∧
      (∀ q, q ≠ p.val → t.port q = s.port q) ∧ t.mem = s.mem ∧ t.words32 = s.words32) ∧
  (∀ (o : Port) (l : Nat), o.worstLane = some l ↔ l < 8 ∧ o.syms.getD l 0 ≠ 0 ∧
    (∀ k, k < 8 → o.syms.getD k 0 ≤ o.syms.getD l 0) ∧ ∀ k, k < l → o.syms.getD k 0 < o.syms.getD l 0) ∧
  (∀ (s : State) (p : PortId), s.linkRuns p = true → s.ports.length = 16 →
    (s.awaitsLane p = true → ∃ t, exec (.laneSwap p none) s = .next t ∧ PortIsDown s t p) ∧
    ∃ t, exec (.linkSilence p) s = .next t ∧ PortIsDown s t p) ∧
  (∀ (s : State) (p : PortId), s.frozen = false → s.ports.length = 16 → s.rd (Pg.ferry p) Reg.Ferry.PORT_EN = 1 →
    s.rd (Pg.ferry p) Reg.Ferry.PSTATE = 1 →
    ∃ t, exec (.portUp p) s = .next t ∧ t.rd (Pg.ferry p) Reg.Ferry.PSTATE = 2 ∧ t.port p = (s.port p).cleared ∧
      (∀ q, q ≠ p.val → t.port q = s.port q) ∧ t.mem = s.mem ∧ t.words32 = s.words32)

/-- R294, R298, R301, R302: what a running port sends. The first of each 100 crossing times is a control crossing's,
with the acknowledgement and the credits that are due; a retry sends its next crossing; else the VC that R301 chooses
sends its oldest crossing, which takes the next SEQ, costs a credit and enters the retry buffer; else a control crossing
that is due, else IDLE. A control crossing that arrives acknowledges what its ACKSEQ covers, adds its credits up to each
VC's allocation, and with NAK starts a retry; its corrected symbols are counted (R293). Commands that complete in it:
CROSSING_TIME, CONTROL. -/
def Obligations.ProtocolEngineOrder : Prop :=
  (∀ (s : State) (p : PortId), s.linkRuns p = true → s.frozen = false →
    let o := s.port p
    let o1 := { o with times := o.times + 1 }
    let control := { o1 with
      last := some o.control, ackDue := false, nakDue := false, nakSent := o.nakSent || o.nakDue, freed := List.replicate 8 0 }
    let mayData := o.retry.length < 2048 ∧ s.awaitsLane p = false
    let quiet := ¬ mayData ∨ ∀ v, v < 8 → o.canSend v = false
    s.ports.length = 16 →
    (o.times % 100 = 0 → exec (.crossingTime p) s = .next (s.setPort p control)) ∧
    (o.times % 100 ≠ 0 → ∀ y, o.retry[o.retry.length - o.resend]? = some y →
      exec (.crossingTime p) s = .next (s.setPort p { o1 with resend := o.resend - 1, last := some y })) ∧
    (o.times % 100 ≠ 0 → o.resend = 0 → mayData → ∀ v, s.nextVc p o = some v →
      ∃ a x b, o.out = a ++ x :: b ∧ x.vc.toNat = v ∧ (∀ y ∈ a, y.vc.toNat ≠ v) ∧
        let y := { x with seq := BitVec.ofNat 12 o.txSeq }
        exec (.crossingTime p) s = .next (s.setPort p { o1 with
          out := a ++ b, retry := o.retry ++ [y], txSeq := (o.txSeq + 1) % 4096
          credits := o.credits.set v (o.credits.getD v 0 - 1), last := some y })) ∧
    (o.times % 100 ≠ 0 → o.resend = 0 → quiet → o.owes = true →
      exec (.crossingTime p) s = .next (s.setPort p control)) ∧
    (o.times % 100 ≠ 0 → o.resend = 0 → quiet → o.owes = false →
      exec (.crossingTime p) s = .next (s.setPort p { o1 with last := some idleCrossing }))) ∧
  (∀ (s : State) (p : Nat) (o : Port), (o.canSend 0 = true → s.nextVc p o = some 0) ∧
    (o.canSend 0 = false → o.canSend 1 = true → s.nextVc p o = some 1) ∧
    (o.canSend 0 = false → o.canSend 1 = false → o.canSend (s.vcSlice p o.times) = true →
      s.nextVc p o = some (s.vcSlice p o.times))) ∧
  (∀ (s0 : State) (p : PortId) (x : Crossing), s0.linkRuns p = true → s0.ports.length = 16 → x.kind = Kind.control →
    let s := s0.noteSym p x.sym
    let w := crossNum x 0 4
    let t := if bits w 12 12 = 1 then s.ackUpTo p (bits w 11 0) else s
    let o := t.port p
    let u := t.setPort p
      { o with credits := o.credits.zipIdx.map fun c => min (vcCredits.getD c.2 0) (c.1 + crossNum x (4 + 2 * c.2) 2) }
    exec (.control p x) s0 = .next (if bits w 13 13 = 1 then u.mustRetry p else u)) ∧
  (∀ (s : State) (p : PortId) (a b : List Crossing) (y : Crossing) (ack : Nat), s.ports.length = 16 →
    (s.port p).retry = a ++ y :: b → ack = y.seq.toNat → (a ++ [y]).length < 4096 →
    (∀ x ∈ a.head?, ack = (x.seq.toNat + a.length) % 4096) →
    ((s.ackUpTo p ack).port p).retry = b)

/-- R313, R315, R317: a granted PUT to another module takes its descriptor and a transfer slot, and no memory changes;
its ENDACK ends it in ring order, with the signal of LDONE; and a PUT whose last crossing has left and that outlasts
E2E_TO is given up with FERRY_TIMEOUT in the queue page, which abandons HOME's step; the refusal of the signal that a
completed PUT has sent is raised in the queue page as a refused write (R316, R335). Commands that complete in it: PUT,
ENDACK, FERRY_TIMEOUT. The model's choices in it: log entry 24. -/
def Obligations.PutStartsAndEnds : Prop :=
  (∀ (s : State) (q : QueueId) (d : List Byte), Granted s q d → (workDesc d).kind = 1 → (s.workq q).puts.length < 128 →
    let x := workDesc d
    x.dst / 2 ^ 48 ≠ s.modId → s.workReadStop q x.src (64 * x.lines) false = none →
    s.workReadStop q x.src (64 * x.lines) x.scvm = none →
    let w := s.workq q
    let i := s.rd Pg.workQ Reg.WorkQ.HEAD [q]
    ∃ t, exec (.put q) s = .next t ∧ (t.workq q).puts = w.puts ++ [⟨w.sent % 128, i, true, d⟩] ∧
      (t.workq q).sent = w.sent + 1 ∧ t.rd Pg.workQ Reg.WorkQ.INFLIGHT [q] = w.puts.length + 1 ∧
      t.rd Pg.workQ Reg.WorkQ.HEAD [q] = s.workNext q i % 2 ^ 16 ∧ .workq q.val ∉ t.granted ∧
      t.mem = s.mem ∧ t.words32 = s.words32 ∧ t.landings = s.landings) ∧
  (∀ (s : State) (q slot : Nat) (p : Put), q < 32 → slot < 128 → s.putIn q slot = some p → (s.workq q).ended = [] →
    p.idx = s.rd Pg.workQ Reg.WorkQ.DONE [q] → (workDesc p.desc).lden = true → (workDesc p.desc).rsen = false →
    let t := s.putAcked (xidOf q slot)
    (t.workq q).puts = (s.workq q).puts.filter (· != p) ∧
      t.rd Pg.workQ Reg.WorkQ.DONE [q] = s.workNext q p.idx % 2 ^ 16 ∧
      t.landingQ = insertOp ⟨s.timestamp, rankHub 11, .signal (workDesc p.desc).ldone 1 false (BitVec.ofNat 32 (s.hubLast 11 q))⟩
        s.landingQ ∧ t.mem = s.mem ∧ t.words32 = s.words32) ∧
  (∀ (s : State) (q : QueueId) (slot : XidSlot) (p : Put), s.putIn q slot = some p → s.frozen = false → p.whole = true →
    s.lastSent (xidOf q slot) = true → s.workHome q < 256 → s.rd Pg.workQ Reg.Common.FC_VALID = 0 →
    ∃ t, exec (.ferryTimeout q slot) s = .next t ∧ (t.workq q).puts = (s.workq q).puts.filter (· != p) ∧
      t.rd Pg.workQ Reg.Common.FC_VALID = 1 ∧ (t.word Pg.workQ 0x010).toNat % 256 = 0x51 ∧
      (s.workPolder q < s.polders.length → (t.polder (s.workPolder q)).fault = true) ∧
      t.mem = s.mem ∧ t.words32 = s.words32) ∧
  (∀ (s : State) (port q slot a : Nat), q < 32 → slot < 128 → s.putIn q slot = none → slot ∈ (s.workq q).told →
    s.workHome q < 256 → s.rd Pg.workQ Reg.Common.FC_VALID = 0 →
    let t := s.putTurnedAway port (xidOf q slot) a
    (t.workq q).told = (s.workq q).told.filter (· != slot) ∧ t.rd Pg.workQ Reg.Common.FC_VALID = 1 ∧
      (t.word Pg.workQ 0x010).toNat % 256 = 0x02 ∧ t.mem = s.mem ∧ t.words32 = s.words32 ∧ t.landings = s.landings)

/-- R324 to R327, R331, R332: a granted collective, RESHARD or BARRIER starts: it is counted in CSEQ, its descriptor is
taken, and its first phase begins. The shards of the ranks partition the blocks, and the streams partition each shard;
what a member keeps of the reduce-scatter is its own shard, and what the all-gather brings it is every other. Commands
that complete in it: ALLREDUCE, REDUCE_SCATTER, ALLGATHER, RESHARD, BARRIER. The model's choices in it: log entry 27. -/
def Obligations.CollectivesDealEveryBlockOnce : Prop :=
  (∀ (s : State) (q : QueueId) (d : List Byte), Granted s q d → s.collReady q d →
    let c := s.newColl q d
    let t := s.collTaken q
    ((workDesc d).kind = 2 → exec (.allreduce q) s = .next (((t.startExp q c).collWaiting q).collTryEnd q)) ∧
    ((workDesc d).kind = 3 → exec (.reduceScatter q) s = .next (((t.startExp q c).collWaiting q).collTryEnd q)) ∧
    ((workDesc d).kind = 4 →
      exec (.allgather q) s = .next ((((t.setColl q (some c)).collBegin q).collWaiting q).collTryEnd q)) ∧
    ((workDesc d).kind = 5 → exec (.reshard q) s = .next (((t.startReshard q c).collWaiting q).collTryEnd q))) ∧
  (∀ (s : State) (q : QueueId) (d : List Byte), Granted s q d → (workDesc d).kind = 6 → (s.workq q).coll = none →
    (s.workq q).bar = none →
    let t := s.takeWork q
    let w := t.workq q
    let u := t.setWorkq q { w with bar := some (s.rd Pg.workQ Reg.WorkQ.HEAD [q], d, 0) }
    let v := u.barSend q w.gen 0 true (1 + u.barSeen q w.gen 0 true)
    exec (.barrier q) s = .next ((v.barSend q w.gen 0 false (1 + v.barSeen q w.gen 0 false)).barAdvance q 7)) ∧
  (∀ (x : WorkDesc) (b : Nat), 0 < x.r → b < x.blocks → ∃ k, k < x.r ∧ b ∈ x.shard k ∧ ∀ j, b ∈ x.shard j → j = k) ∧
  (∀ (x : WorkDesc) (k b : Nat), 0 < x.streams → b ∈ x.shard k →
    ∃ i, i < x.streams ∧ b ∈ x.dealt k i ∧ ∀ j, b ∈ x.dealt k j → j = i) ∧
  (∀ (x : WorkDesc) (i : Nat), x.rank < x.r →
    (x.kind = 2 ∨ x.kind = 3 → ∀ b, (∃ e ∈ x.events i, e.gather = false ∧ e.last = true ∧ e.block = b) ↔
      2 ≤ x.r ∧ b ∈ x.dealt x.rank i) ∧
    (x.kind = 2 ∨ x.kind = 4 → ∀ b, (∃ e ∈ x.events i, e.gather = true ∧ e.block = b) ↔
      ∃ k, k < x.r ∧ k ≠ x.rank ∧ b ∈ x.dealt k i))

/-! Sluice. -/

/-- R337, R340, R349: a granted job without an unmapped range, an own GS and an earlier job of its queue enters the
queue with its comparators and the run key and step of its claim, and is taken up at once; and a job that stands takes
its next parameter block to the unit that owns it: its writes accepted, the block is counted there, the job stands at
the next block or is complete, and no physical byte changes but those of the block's parameters, moments and scales with
their side words; gradients are never written. Commands that complete in it: ADAMW, LION, SGD. The model's choices in
it: log entries 29 and 42. -/
def Obligations.SluiceTakesParameterBlocks : Prop :=
  (∀ (s : State) (q : SluiceId) (d : List Byte), ∀ e ∈ sluiceOps, s.still = false → .sluice q.val ∈ s.granted →
    let i := s.rd Pg.sluiceQ Reg.SluiceQ.HEAD [q]
    let a := s.rd2 Pg.sluiceQ Reg.SluiceQ.RING_LO Reg.SluiceQ.RING_HI [q] + 128 * i
    let x := sluiceDesc d
    let p := s.polderOfCore (s.sluiceHome q)
    s.hubReadStop (s.sluiceHome q) a 128 false = none → d = s.bytesAt a 128 → sluiceOk d = true →
    s.sluiceInside x p = true → x.opt = e.2 → x.gsrc = false → (∀ j ∈ s.sluice, j.q ≠ q.val) →
    let j : SluiceJob := ⟨q, i, 0, d, s.runKey p, s.stepNo p, x.gs, 0, false, none⟩
    let u := (s.sluiceTraffic q none false a 128).startSluice q i d x.gs
    u.sluice = s.sluice ++ [j] ∧ u.hubCmp = s.hubCmp ++ x.ranges.map (fun r => (cmpSluice q 0 r.1, r.2.1, r.2.2)) ∧
      ∀ hw, exec (e.1 q hw) s = .next (u.sluiceRun j hw)) ∧
  (∀ (s : State) (q : SluiceId) (j : SluiceJob) (die u : Nat), ∀ e ∈ sluiceOps, s.still = false → .sluice q.val ∉ s.granted →
    s.sluiceHome q < 256 → s.sluice = [j] → j.q = q.val → j.ended = false →
    let x := sluiceDesc j.desc
    x.opt = e.2 → j.next < x.blocks →
    let lo := 2048 * j.next
    let hi := min x.n (lo + 2048)
    s.stalled = [] → s.uncopied = [] → s.tagsInRange → s.sluiceStop (s.sluiceHome q) x lo hi = none →
    s.sluiceUnit ((x.p + 2 * lo) % 2 ^ 48) = some (die, u) →
    ∃ t, exec (e.1 q .none) s = .next t ∧
      t.rd (Pg.die die) Reg.Die.BLOCKS [u] = min (s.rd (Pg.die die) Reg.Die.BLOCKS [u] + 1) (2 ^ Reg.Die.BLOCKS.width - 1) ∧
      (∀ k ∈ t.sluice, k = { j with next := j.next + 1, flight := none } ∨ j.next + 1 = x.blocks) ∧
      (∀ b, (∀ r ∈ x.arrays, r.code ≠ 1 → ¬ s.reaches (r.span lo hi).1 (r.span lo hi).2 b) → t.peek b = s.peek b) ∧
      t.words32 = s.words32 ∧ t.landings = s.landings)

/-! Ingest. -/

/-- R238: E is a permutation of the numbers below 2^(2h), and the shuffle of an epoch of N samples is a permutation of the
positions below N. -/
def Obligations.ShufflePermutesEpoch : Prop :=
  ∀ (key : BitVec 64) (epoch n : Nat), 0 < n → n ≤ 2 ^ 32 →
    (∀ v, v < 2 ^ (2 * pqHalf n) → pqE key epoch (pqHalf n) v < 2 ^ (2 * pqHalf n)) ∧
    (∀ v w, v < 2 ^ (2 * pqHalf n) → w < 2 ^ (2 * pqHalf n) → pqE key epoch (pqHalf n) v = pqE key epoch (pqHalf n) w → v = w) ∧
    (∀ p, p < n → shuffle key epoch n p < n) ∧
    (∀ p q, p < n → q < n → shuffle key epoch n p = shuffle key epoch n q → p = q)

/-- R204, R211, R216, R222, R224, R242, R243, R265: what the ingest commands do. BATCH_DESCRIPTOR: a granted,
well-formed batch descriptor is taken with the run key and the ordinals of its polder, and its samples go to free
channels; a permutation unit's error stops it in the Wharf page. WHARF_DATA, WHARF_FAIL and FRAME_DROPPED bring a frame,
which the port judges: one of more than 9,216 bytes, with a wrong FCS or for another address is dropped and counted by
its reason; an accepted one is counted and its datagram goes to its channel, or waits in the port's buffer of 2 MiB
while the module stands still. RTO_EXPIRY: a READ whose timer expires is requested again, or ends its channel's sample
with WHARF_TIMEOUT. ENTROPY_TIME_SLICE and PICTURE_COMPLETE: an entropy engine's slice and a picture's output turn go to
the channel that is next, and a picture that is used arms its stream first. PQ_POS shows π(p). Commands that complete in
it: BATCH_DESCRIPTOR, WHARF_DATA, WHARF_FAIL, RTO_EXPIRY, ENTROPY_TIME_SLICE, PICTURE_COMPLETE, PQ_POS, FRAME_DROPPED.
The model's choices in it: log entries 31, 46 and 47. -/
def Obligations.IngestCommandsAct : Prop :=
  (∀ (s : State) (p : Nat), s.still = false → .sequencer ∈ s.granted →
    let g := Pg.wharf
    let i := s.rd g Reg.Wharf.IQ_HEAD
    let a := s.rd2 g Reg.Wharf.IQ_BASE_LO Reg.Wharf.IQ_BASE_HI + 128 * i
    let d := s.bytesAt a 128
    let x := batchDesc d
    s.hubReadStop seqGrantee a 128 false = none →
    exec (.batchDescriptor .unit) s = .next (s.takeBatch.ingestFault 0x49 0 a) ∧
    (batchOk d = true → s.polderHolding x.pbase = some p → s.hubReadStop seqGrantee x.pdesc 64 false = none →
      let w := s.tow p
      let t := s.takeBatch.setTow p { w with drawn := w.drawn + x.nsamp + 1 }
      let b : Batch := ⟨s.ids, i, d, s.bytesAt x.pdesc 64, p, s.runKey p, w.drawn, [], 0⟩
      let u : State := { t with batches := s.batches ++ [b], ids := s.ids + 1 }
      exec (.batchDescriptor .none) s =
        .next ((u.ingestTraffic 15 0 p false a 128).ingestTraffic 15 0 p false x.pdesc 64).assignAll)) ∧
  (∀ (s : State) (p : IngestPort) (f : List Byte) (i : Instr),
    i = .wharfData p f ∨ i = .wharfFail p f ∨ i = .frameDropped p f →
    (s.frameFate p f = .bad → s.frozen = false →
      ∃ t, exec i s = .next t ∧ t.rd (Pg.ingest p) Reg.Ingest.RX_BAD =
        min (s.rd (Pg.ingest p) Reg.Ingest.RX_BAD + 1) (2 ^ Reg.Ingest.RX_BAD.width - 1) ∧ t.mem = s.mem ∧ t.chans = s.chans) ∧
    (s.frameFate p f = .filter → s.frozen = false →
      ∃ t, exec i s = .next t ∧ t.rd (Pg.ingest p) Reg.Ingest.RX_FILTER =
        min (s.rd (Pg.ingest p) Reg.Ingest.RX_FILTER + 1) (2 ^ Reg.Ingest.RX_FILTER.width - 1) ∧ t.mem = s.mem ∧
        t.chans = s.chans) ∧
    (∀ dg, s.frameFate p f = .accept dg →
      (s.still = false → let t := s.count (Pg.ingest p) Reg.Ingest.RX_ACCEPT [] 1
        exec i s = .next (if (wharfHdr dg).type = 3 then t.wharfFail p dg else t.wharfData p dg)) ∧
      (s.still = false → (wharfHdr dg).ok = false → ∃ t, exec i s = .next t ∧
        t.rd (Pg.ingest p) Reg.Ingest.STRAY =
          min (s.rd (Pg.ingest p) Reg.Ingest.STRAY + 1) (2 ^ Reg.Ingest.STRAY.width - 1) ∧
        t.chans = s.chans ∧ t.mem = s.mem) ∧
      (s.still = true → s.ingestHeld p + f.length ≤ 2097152 →
        exec i s = .next { s with ingestRx := s.ingestRx ++ [(p.val, f)] }) ∧
      (s.still = true → 2097152 < s.ingestHeld p + f.length → exec i s = .next s))) ∧
  (∀ (s : State) (p : IngestPort) (f : List Byte),
    (9216 < f.length ∨ fcsOk f = false → s.frameFate p f = .bad) ∧
    (f.length ≤ 9216 → fcsOk f = true →
      beNat (f.take 6) ≠ macOf (s.rd (Pg.ingest p) Reg.Ingest.MAC_HI) (s.rd (Pg.ingest p) Reg.Ingest.MAC_LO) →
      s.frameFate p f = .filter)) ∧
  (∀ (s : State) (c : ChannelId) (tag : Nat) (x : Chan) (b : Batch) (r : Read), s.frozen = false → s.chan c = some x →
    s.batchOf x = some b → (x.reads.find? fun r => r.tag == tag) = some r →
    let y := { x with reads := x.reads.filter fun q => q.tag != tag }
    (r.tries ≤ s.rd Pg.wharf Reg.Wharf.RETRY_MAX →
      exec (.rtoExpiry c tag) s = .next ((s.setChan c { y with
        todo := y.todo ++ (missingRuns r (maxData (batchDesc b.desc).buflog)).map fun e => (e.1, e.2, r.tries) }).sendReads c 8)) ∧
    (s.rd Pg.wharf Reg.Wharf.RETRY_MAX < r.tries → r.port < 2 → s.rd (Pg.ingest r.port) Reg.Common.FC_VALID = 0 →
      ∃ t, exec (.rtoExpiry c tag) s = .next t ∧ t.chan c = some { x with failed := true, reads := [], todo := [] } ∧
        (∀ k, k ≠ c.val → t.chan k = s.chan k) ∧ t.rd (Pg.ingest r.port) Reg.Common.FC_VALID = 1 ∧
        (t.word (Pg.ingest r.port) 0x010).toNat % 256 = 0x47 ∧
        (∀ n, n < s.npolders → n < s.polders.length → (t.polder n).fault = true) ∧ t.mem = s.mem)) ∧
  (∀ (s : State) (u : ReedbedId), s.still = false → (∀ b ∈ s.batches, s.towMode b.pol ≠ 3) →
    (s.entropyNext u = none → exec (.entropyTimeSlice u .none) s = .next s.assignAll) ∧
    (∀ (c : Nat) (x : Chan) (b : Batch), s.entropyNext u = some c → s.chan c = some x → s.batchOf x = some b →
      let t := ({ s with entropyAt := sset (fun _ => 31) s.entropyAt u (c % 32) } : State).count (Pg.die (u.val / 4))
        Reg.Die.SLICES [u.val % 4] 1
      exec (.entropyTimeSlice u .none) s = .next (if x.dec then t.nextPicture c x b else t.consume c x b).assignAll)) ∧
  (∀ (s : State) (c : ChannelId) (x : Chan) (b : Batch) (p : Pic), s.still = false → s.chan c = some x → s.batchOf x = some b →
    x.pics.head? = some p → x.failed = false → x.isOver = false →
    s.writesHeld ((batchDesc b.desc).slotAt c p.slot) (batchDesc b.desc).picb = false →
    exec (.pictureComplete c .none) s = .next (s.runPicture c x b p) ∧
    (x.uses p.k ≠ [] → s.outArmed c = false → s.unitArmed c = false →
      let f := x.picture (batchDesc b.desc) p.k
      let r := bounding ((batchDesc b.desc).slotAt c p.slot) (pictureSize f.w f.h f.depth) 0 0 0 0
      exec (.pictureComplete c .none) s = .next { s with hubCmp := s.hubCmp ++ [(cmpReedbed c, r.1, r.2)] })) ∧
  (∀ (s : State) (p : Word), Serving s → s.gather = [] →
    let n := s.rd Pg.wharf Reg.Wharf.PQ_NM1 + 1
    (∃ t, exec (.pqPos p .none) s = .next t ∧ t.rd Pg.wharf Reg.Wharf.PQ_VALID = 1 ∧
      (p.toNat < n → t.rd Pg.wharf Reg.Wharf.PQ_OUT = shuffle (s.runKey 0) (s.rd Pg.wharf Reg.Wharf.PQ_EPOCH) n p.toNat % 2 ^ 32) ∧
      t.mem = s.mem ∧ t.chans = s.chans) ∧
    (∃ t, exec (.pqPos p .unit) s = .next t ∧ t.rd Pg.wharf Reg.Wharf.PQ_VALID = 0 ∧
      (s.rd Pg.wharf Reg.Common.FC_VALID = 0 → t.rd Pg.wharf Reg.Common.FC_VALID = 1 ∧
        (t.word Pg.wharf 0x010).toNat % 256 = 0x49) ∧ t.mem = s.mem ∧ t.chans = s.chans))

/-! Observability and replay. -/

/-- R478 to R481, R487, R491 to R493: what the commands of observability do. SNAPNOW triggers a snapshot; SNAPSHOT_LATCH
enters one record for the triggers it joins, or is counted as lost where 1 MiB would not stay free; TRACE_DRAIN takes
the oldest record of the trace buffer to the ring in the host's or the module's memory; REPLAY_INJECT injects the
polder's next host record once its step is reached, a signal into the landing queue; and GO starts a manifest job with
its comparators where the descriptor, its lists and its regions are well formed and lie in the polder's memory, reports
a slot that is busy, and ends at once with MF_ERR 4 where the descriptor does not lie in the polder's memory. Commands
that complete in it: SNAPNOW, SNAPSHOT_LATCH, TRACE_DRAIN, REPLAY_INJECT, GO. The model's choices in it: log entry 40.
-/
def Obligations.TraceReplayAndManifestAct : Prop :=
  (∀ s : State, Serving s → s.gather = [] → exec .snapnow s = .next { s with snapTrig := s.snapTrig ||| 1 }) ∧
  (∀ s : State, s.frozen = false → s.snapTrig ≠ 0 →
    let pl := allPages.flatMap s.snapEntry
    ∃ t, exec .snapshotLatch s = .next t ∧ t.snapTrig = 0 ∧ t.mem = s.mem ∧ t.words32 = s.words32 ∧
      (s.traceUsed + recordBytes pl + 1048576 ≤ traceSize →
        t.trace = s.trace ++ [⟨false, 0, bapen 0x10 0 s.traceSeq (s.stepNo 0) s.timestamp s.snapTrig pl⟩] ∧
        t.traceSeq = (s.traceSeq + 1) % 2 ^ 32) ∧
      (traceSize < s.traceUsed + recordBytes pl + 1048576 → t.trace = s.trace ∧
        t.rd Pg.trace Reg.Trace.SNAP_LOST =
          min (s.rd Pg.trace Reg.Trace.SNAP_LOST + 1) (2 ^ Reg.Trace.SNAP_LOST.width - 1))) ∧
  (∀ (s : State) (r : TraceRec) (rest : List TraceRec), s.still = false → s.trace = r :: rest →
    let n := r.bytes.length
    (s.rd Pg.trace Reg.Trace.DEST = 2 → s.cxlUp = true →
      let w := min s.ringSize (2 ^ 32)
      n ≤ (s.rd Pg.trace Reg.Trace.RING_TAIL + 2 * w - s.ringHead % w - 1) % w → s.ringHead + n ≤ s.ringSize →
      ∃ t, exec (.traceDrain .none) s = .next t ∧ t.trace = rest ∧
        t.hostOut = s.hostOut ++ [.write (s.ringBase + s.ringHead) r.bytes] ∧
        t.ringHead = (s.ringHead + n) % s.ringSize ∧ t.mem = s.mem ∧ t.words32 = s.words32) ∧
    (s.rd Pg.trace Reg.Trace.DEST = 1 → s.uncopied = [] → s.stalled = [] → s.tagsInRange →
      s.rd Pg.trace Reg.Trace.WRAP = 1 ∨ s.ringRecs.sum + n ≤ s.ringSize →
      (∀ i, i < n / 32 → s.phys (s.ringBase % 2 ^ 48 + (s.ringHead + 32 * i) % s.ringSize) ≠ none) →
      ∃ t, exec (.traceDrain .none) s = .next t ∧ t.trace = rest ∧ t.ringHead = (s.ringHead + n) % s.ringSize ∧
        t.rd Pg.trace Reg.Trace.RING_HEAD = (s.ringHead + n) % s.ringSize % 2 ^ 32 ∧ t.words32 = s.words32 ∧
        ∀ b, (∀ i, i < (n + 31) / 32 →
          ¬ s.reaches (s.ringBase % 2 ^ 48 + (s.ringHead + 32 * i) % s.ringSize) 32 b) → t.peek b = s.peek b)) ∧
  (∀ (s : State) (p : PolderId) (r : Record), s.still = false → s.towMode p = 3 → s.nextRecord p [0x04, 0x05] = some r →
    s.reached p r = true →
    exec (.replayInject p) s = .next (s.replayNext p r) ∧
    (r.good = true → r.type = 0x05 → s.gather = [] →
      (s.replayNext p r).landingQ = insertOp ⟨s.timestamp, rankHost,
        .signal (r.num 0 4 % 8192) (r.num 4 4) (r.num 8 4 % 2 = 1) (BitVec.ofNat 32 (s.hubLast 8 0))⟩ s.landingQ ∧
      (s.replayNext p r).mem = s.mem)) ∧
  (∀ (s : State) (p : PolderId) (hw : HwErr), Serving s → s.gather = [] →
    let g := Pg.manifest
    (s.rd g Reg.Manifest.BUSY [p] = 1 → exec (.go p hw) s = .next (s.wr g Reg.Manifest.MF_ERR [p] 5)) ∧
    (s.rd g Reg.Manifest.BUSY [p] ≠ 1 → exec (.go p hw) s = .next (s.startManifest p hw)) ∧
    (s.rd g Reg.Manifest.BUSY [p] ≠ 1 → s.mfClear p →
      let d := s.bytesAt (s.mfDesc p) 64
      let ws := (s.mfList (leAt d 8 6) (mfNw d)).map mfRegion
      let is := (s.mfList (leAt d 0x10 6) (mfNi d)).map mfRegion
      let pd := (List.range 8).flatMap fun i => natBytes 4 (s.rd (Pg.program p) Reg.Program.PROGRAM_DIGEST [i])
      ∃ t, exec (.go p .none) s = .next t ∧
        t.mfJobs = s.mfJobs ++ [⟨p, d, ws, is, pd, s.stepNo p, [], [], false⟩] ∧
        t.rd g Reg.Manifest.BUSY [p] = 1 ∧ t.rd g Reg.Manifest.MF_ERR [p] = 0 ∧ t.rd g Reg.Manifest.HASHED [p] = 0 ∧
        t.hubCmp = s.hubCmp ++ ((ws ++ is).zipIdx.filter fun e => e.1.2.1 != 0).map (fun e =>
          (cmpManifest p e.2, e.1.1, e.1.1 + e.1.2.1 - 1)) ∧
        t.mem = s.mem ∧ t.words32 = s.words32) ∧
    (s.rd g Reg.Manifest.BUSY [p] ≠ 1 →
      s.ownMemory p (s.rd2 g Reg.Manifest.JOB_LO Reg.Manifest.JOB_HI [p] / 64 * 64) 64 = false →
      ∃ t, exec (.go p hw) s = .next t ∧ t.rd g Reg.Manifest.MF_ERR [p] = 4 ∧ t.rd g Reg.Manifest.MF_DONE [p] = 1 ∧
        t.rd g Reg.Manifest.BUSY [p] = 0 ∧ t.rd g Reg.Common.EVENT = 1 ∧ (∀ j ∈ t.mfJobs, j.pol ≠ p.val) ∧
        t.mem = s.mem ∧ t.words32 = s.words32))

/-! Snapshots, recovery and programs. -/

/-- R248, R286, R370 to R373, R378, R382: what the commands of snapshots and programs do. GRANULE_COPY: the Staithe
engine copies the next uncopied granule of an active snapshot, and sends what is due; a snapshot that is whole ends
where BUDDY_EN has been cleared. COW_COPY_DONE: a copy-on-write hold ends with its copies. ABANDON marks the running
step of its polder, and nothing in another. RESTORE: a shard that passes every check is loaded, RERR 0, RFOUND and STEP
showing its step. SEND: a shard whose header is right begins to be sent, its step in RFOUND, and no memory changes. Both
are refused with RERR 0xA while the polder is busy and with 1 where no shard stands at RSRC, without a write to memory.
LOAD: a load that need not wait is made at once; an accepted image is placed, another is reported in LERR. Commands that
complete in it: COW_COPY_DONE, GRANULE_COPY, ABANDON, RESTORE, SEND, LOAD. The model's choices in it: log entries 20 and
23. -/
def Obligations.StaitheAndLoaderAct : Prop :=
  (∀ (s : State) (p : PolderId), s.still = false → (s.polder p).cutDue = false → (s.snap p).active = true →
    (s.snapEnds p = true → ∀ hw, exec (.granuleCopy p hw) s = .next (s.snapOver p)) ∧
    (s.snapEnds p = false →
      (∀ i, s.nextUncopied p = some i → exec (.granuleCopy p .none) s = .next ((s.copyGranule p i).snapSend p)) ∧
      (s.nextUncopied p = none → exec (.granuleCopy p .none) s = .next (s.snapSend p)))) ∧
  (∀ (s : State) (hw : HwErr), s.frozen = false → s.hold.now = some .cow → s.stalled ≠ [] →
    exec (.cowCopyDone hw) s = .next (s.cowDone hw).collsTryEnd.settleIngest.sluiceAccepted ∧
      (s.cowDone hw).hold.done = true) ∧
  (∀ (s : State) (p : PolderId), Serving s → s.gather = [] →
    (s.runState p = 3 → exec (.abandon p) s = .next (s.markFault p [])) ∧
    (s.runState p ≠ 3 → exec (.abandon p) s = .next s)) ∧
  (∀ (s : State) (p : PolderId), Serving s → s.gather = [] → s.moves = [] → s.cxlUp = true →
    s.rd (Pg.staithe p) Reg.Staithe.SBUSY = 0 →
    let g := Pg.staithe p
    let a := s.rsrc p
    let n := s.numAt (a + 0x10) 4
    let u := s.wr g Reg.Staithe.RFOUND [] n
    (s.runState p = 2 → s.restoreCheck p a false = 0 →
      ∃ t, exec (.restore p .none) s = .next t ∧ t = (u.restoreShard p a).endRestore p 0 ∧
        t.rd g Reg.Staithe.RERR = 0 ∧ t.stepNo p = n) ∧
    (s.populated a 4096 = true → s.shardMagic a = true → s.blocksOk a 4096 = true → s.staleTag a = false →
      let x := { SendJob.none with
        src := a, dst := s.rd2 g Reg.Staithe.SDST_LO Reg.Staithe.SDST_HI, nbody := s.numAt (a + 0x1C) 4 }
      ∃ t, exec (.send p .none) s = .next t ∧ t = ((u.setSendJob p x).wr g Reg.Staithe.SBUSY [] 1).sendMore p 128 ∧
        t.rd g Reg.Staithe.RFOUND = n ∧ t.mem = s.mem ∧ t.words32 = s.words32)) ∧
  (∀ (s : State) (p : PolderId) (hw : HwErr), Serving s → s.gather = [] → s.moves = [] → s.cxlUp = true →
    let g := Pg.staithe p
    let ends := fun (i : Instr) (e : Nat) => ∃ t, exec i s = .next t ∧ t.rd g Reg.Staithe.RERR = e ∧
      t.hostOut = s.hostOut ++ [.msix (s.vecOf g)] ∧ t.mem = s.mem ∧ t.words32 = s.words32 ∧ t.landings = s.landings
    (s.rd g Reg.Staithe.SBUSY = 1 ∨ s.runState p = 1 ∨ s.runState p = 3 → ends (.restore p hw) 0xA) ∧
    (s.rd g Reg.Staithe.SBUSY = 1 → ends (.send p hw) 0xA) ∧
    (s.rd g Reg.Staithe.SBUSY = 0 → s.shardMagic (s.rsrc p) = false →
      ends (.send p hw) 1 ∧ (s.runState p = 0 ∨ s.runState p = 2 → ends (.restore p hw) 1))) ∧
  (∀ (s : State) (p : PolderId), Serving s → s.gather = [] → p.val < s.npolders → s.loads = [] →
    let g := Pg.program p
    let u := s.hostStage g 0x110 (s.word g 0x810)
    u.loadFree p = true → u.loads = [] →
    let t := u.startLoad p
    exec (.load p) s = .next ((t.loads.filter (·.started)).foldl State.stageLoad t)) ∧
  (∀ (s : State) (p : PolderId),
    let g := Pg.program p
    let a := s.rd2 g Reg.Program.IMG_LO Reg.Program.IMG_HI
    let b := s.rd2 g Reg.Program.PARAM_LO Reg.Program.PARAM_HI
    let n := s.numAt (a + 8) 8
    let m := 0x20 + 8 * s.numAt (b + 0x10) 4
    s.populated a 16 = true → s.populated a n = true → s.populated b 0x20 = true → s.populated b m = true →
    s.staleIn [(a, n), (b, m)] = none →
    let img := s.bytesAt a n
    let digest := sha256 (img.take 0x20 ++ (List.replicate 32 0).take (img.length - 0x20) ++ img.drop 0x40)
    let q : LoadParam := ⟨s.numAt b 4, s.numAt (b + 4) 4 % 8192, s.numAt (b + 8) 8, s.numAt (b + 0x10) 4⟩
    (leAt img 0 4 ≠ 0xA110D724 →
      (s.startLoad p).rd g Reg.Program.LERR = 1 ∧ (s.startLoad p).runState p = 0 ∧ (s.startLoad p).mem = s.mem ∧
        (s.startLoad p).engines = s.engines ∧ (s.startLoad p).windows = s.windows) ∧
    (s.loadErr p img digest q = 0 → (∀ x ∈ sectsOf img, x.placed = false) →
      (s.startLoad p).rd g Reg.Program.LERR = 0 ∧ (s.startLoad p).runState p = 1 ∧ (s.startLoad p).mem = s.mem ∧
        (∀ i, i < 8 → (s.startLoad p).rd g Reg.Program.PROGRAM_DIGEST [i] = leAt digest (4 * i) 4) ∧
        (s.startLoad p).windows = s.windows ∧
        ∃ ws counts, (s.startLoad p).loads = s.loads ++ [⟨p, true, ws, (entriesOf img 4 16).map (windowOf p q), counts⟩]))

/-! Reliability and polders. -/

/-- R387, R389, R391, R395, R396: soundings, ageing, shadows and moves. SOUNDING_CYCLE: a cycle of a core that may be
sounded is counted and moves the core through the wear states of R396. AGE_SAMPLE: a sample that falls below AGE_TH
makes an OK core SUSPECT. SHADOW_COPY: the copier copies one row of the shadowed bank into the spare and nothing else,
and stops at an SST error. MOVE_COMPLETE: a move is finished, in the substitution hold where a polder ran, whose end and
cuts follow the last; one without errors places the bytes it carries in the banks of the incoming core, outside which no
byte changes. Commands that complete in it: SOUNDING_CYCLE, AGE_SAMPLE, SHADOW_COPY, MOVE_COMPLETE. The model's choices
in it: log entries 18 and 36. -/
def Obligations.WearShadowsAndMoves : Prop :=
  (∀ (s : State) (c : ClusterId) (ph : PhysCore) (passed : Bool), s.still = false → s.mayAudition (.core c ph) = true →
    let g := Pg.clu c
    let w := s.wstate c ph
    let f := if passed then 0 else min 15 (s.rd g Reg.Clu.SFAILS [ph] + 1)
    let n := if passed then min 15 (s.rd g Reg.Clu.SPASS [ph] + 1) else 0
    let volt := s.rd Pg.reliab Reg.Reliab.POLICY = 1 ∧ s.rd Pg.reliab Reg.Reliab.REMEDY = 0
    ∃ t, exec (.soundingCycle (.core c ph) passed) s = .next t ∧
      t.rd g Reg.Clu.SFAILS [ph] = f ∧ t.rd g Reg.Clu.SPASS [ph] = n ∧
      t.rd Pg.reliab Reg.Reliab.SCYCLES = min (s.rd Pg.reliab Reg.Reliab.SCYCLES + 1) (2 ^ 32 - 1) ∧
      (passed = false →
        t.rd Pg.reliab Reg.Reliab.SFAILED = min (s.rd Pg.reliab Reg.Reliab.SFAILED + 1) (2 ^ 32 - 1)) ∧
      (w = 0 → t.wstate c ph = if passed then 0 else 1) ∧
      (w = 1 → passed = true → t.wstate c ph =
        if s.rd Pg.reliab Reg.Reliab.PASS_CLR ≤ n ∧ s.rd Pg.reliab Reg.Reliab.AGE_TH ≤ s.rd g Reg.Clu.AGE [ph] then 0 else 1) ∧
      (w = 1 → passed = false → volt → t.wstate c ph =
        if s.rd g Reg.Clu.VTRIM [ph] < s.rd Pg.reliab Reg.Reliab.VMAX then 1 else 2) ∧
      (w = 1 → passed = false → ¬ volt → t.wstate c ph = if s.rd Pg.reliab Reg.Reliab.FAIL_TH ≤ f then 2 else 1) ∧
      (w = 2 → t.wstate c ph = 2) ∧ t.mem = s.mem ∧ t.words32 = s.words32) ∧
  (∀ (s : State) (c : ClusterId) (ph : PhysCore) (age : Byte), s.frozen = false →
    ∃ t, exec (.ageSample c ph age) s = .next t ∧ t.rd (Pg.clu c) Reg.Clu.AGE [ph] = age.toNat ∧
      t.wstate c ph =
        (if s.wstate c ph = 0 ∧ age.toNat < s.rd Pg.reliab Reg.Reliab.AGE_TH then 1 else s.wstate c ph) ∧
      t.mem = s.mem ∧ t.words32 = s.words32) ∧
  (∀ (s : State) (d : DieId) (sr : SramId) (sp : SpareId), s.still = false →
    let a := sp.val = 0
    let g := Pg.die d
    let done := if a then Reg.Die.SHDONE_A else Reg.Die.SHDONE_B
    let err := if a then Reg.Die.SHERR_A else Reg.Die.SHERR_B
    let bank := s.rd g (if a then Reg.Die.SHADOW_A else Reg.Die.SHADOW_B) [sr]
    let r := sget (fun _ => 0) s.shadowRow (4 * d.val + 2 * sr.val + sp.val)
    let from_ := bankRow d sr (s.sstBank d sr bank) r
    let to_ := bankRow d sr (64 + sp.val) r
    bank < 64 → s.rd g done [sr] = 0 → s.rd g err [sr] = 0 →
    (∃ t, exec (.shadowCopy d sr sp .none) s = .next t ∧ (∀ i, i < 64 → t.peek (to_ + i) = s.peek (from_ + i)) ∧
      (∀ b, (∀ i, i < 64 → b ≠ to_ + i) → t.peek b = s.peek b) ∧ t.rd g done [sr] = (if r + 1 = 524288 then 1 else 0) ∧
      sget (fun _ => 0) t.shadowRow (4 * d.val + 2 * sr.val + sp.val) = r + 1 ∧ t.words32 = s.words32) ∧
    (∀ line side, exec (.shadowCopy d sr sp (.sst line side)) s = .next (s.wr g err [sr] 1))) ∧
  (∀ (s : State) (c : CoreId) (m : Move) (errs : List Nat), s.frozen = false → (s.moves.find? fun m => m.core == c.val) = some m →
    let t := (s.finishMove m errs).loadsRun
    (m.held = false → exec (.moveComplete c errs) s = .next t) ∧
    (m.held = true → s.hold.now ≠ some .substitution → exec (.moveComplete c errs) s = .next s) ∧
    (m.held = true → s.hold.now = some .substitution →
      (t.moves.any (·.held) = true → exec (.moveComplete c errs) s = .next t) ∧
      (t.moves.any (·.held) = false → exec (.moveComplete c errs) s =
        .next ((List.range 4).foldl (fun u p => if (u.polder p).cutDue then u.takeCut p else u)
          { t with hold := { t.hold with done := true } }))) ∧
    (m.carry = true →
      let a := physArea 3 (m.core / 8) m.dst
      let t := s.finishMove m []
      (∀ b, ¬ (a ≤ b ∧ b < a + 2 ^ 24 ∧ (b - a) / 2 ^ 18 ∈ m.banks) → (∀ e ∈ m.data, e.1 ≠ b) → t.peek b = s.peek b) ∧
      (∀ b v, m.data = [(b, v)] → t.peek b = v) ∧ (∀ x ∈ t.moves, x ≠ m)))

/-- R401 to R409: draining, admission and the shutdown self-test. DRAIN puts a running polder into DRAINING and any
other into DRAINED; an admission of a polder that is not drained answers 6, and one of a drained polder leaves it ready
exactly if the answer is 0; SHUTDOWN begins the test where every polder is drained or idle, is refused otherwise, and
CANCEL ends it with a record; ENG_EN can be written in BLANK and RETURN only. Commands that complete in it:
DRAIN_POLDER, ADMIT, SHUTDOWN, CANCEL, ENG_EN. The model's choices in it: log entry 37. -/
def Obligations.DrainAdmitAndSelfTest : Prop :=
  (∀ (s : State) (p : PolderId), Serving s → s.gather = [] → p.val < s.npolders →
    (s.rd Pg.polders Reg.Polders.PSTATE [p] = 0 → s.runState p = 3 →
      exec (.drainPolder p) s = .next (s.wr Pg.polders Reg.Polders.PSTATE [p] 1)) ∧
    (s.rd Pg.polders Reg.Polders.PSTATE [p] = 0 → s.runState p ≠ 3 →
      ∃ t, exec (.drainPolder p) s = .next t ∧ t.rd Pg.polders Reg.Polders.PSTATE [p] = 2 ∧ t.mem = s.mem ∧
        t.words32 = s.words32) ∧
    (s.rd Pg.polders Reg.Polders.PSTATE [p] ≠ 0 → exec (.drainPolder p) s = .next s)) ∧
  (∀ (s : State) (p : PolderId) (fails : List SoundUnit), Serving s → s.gather = [] → p.val < s.npolders →
    (s.rd Pg.polders Reg.Polders.PSTATE [p] ≠ 2 →
      exec (.admission p fails) s = .next (s.wr Pg.polders Reg.Polders.ARES [p] 6)) ∧
    (s.rd Pg.polders Reg.Polders.PSTATE [p] = 2 →
      ∃ t, exec (.admission p fails) s = .next t ∧ t.rd Pg.polders Reg.Polders.ARES [p] ≤ 5 ∧
        t.rd Pg.polders Reg.Polders.PSTATE [p] = (if t.rd Pg.polders Reg.Polders.ARES [p] = 0 then 0 else 2) ∧
        (t.rd Pg.polders Reg.Polders.ARES [p] = 0 → t.runState p = 0) ∧ t.mem = s.mem ∧ t.words32 = s.words32)) ∧
  (∀ (s : State) (rep : TestReport), Serving s → s.gather = [] →
    let g := Pg.selfTest
    (s.rd g Reg.SelfTest.STSTATE = 1 → exec (.shutdown rep) s = .next s) ∧
    (s.rd g Reg.SelfTest.STSTATE ≠ 1 → s.allIdle = false →
      exec (.shutdown rep) s = .next (s.wr g Reg.SelfTest.STSTATE [] 5)) ∧
    (s.rd g Reg.SelfTest.STSTATE ≠ 1 → s.allIdle = true → s.lc ≠ 4 →
      ∃ t, exec (.shutdown rep) s = .next t ∧ t.rd g Reg.SelfTest.STSTATE = 1 ∧ t.rd g Reg.SelfTest.REGION = 0 ∧
        t.selfTest = some ⟨rep, 0⟩ ∧ t.mem = s.mem)) ∧
  (∀ s : State, Serving s → s.gather = [] →
    let g := Pg.selfTest
    (s.selfTest = none → exec .cancel s = .next s) ∧
    (∀ j, s.selfTest = some j → ∃ t rec_, exec .cancel s = .next t ∧ t.selfTest = none ∧ t.rd g Reg.SelfTest.STSTATE = 4 ∧
      t.rd g Reg.SelfTest.LOGSEQ = (s.rd g Reg.SelfTest.LOGSEQ + 1) % 2 ^ 32 ∧ t.flash.log = s.flash.log ++ [.test rec_] ∧
      t.fresh = s.fresh + 16 ∧ t.mem = s.mem)) ∧
  (∀ (s : State) (v : Word), Serving s → s.gather = [] →
    (s.lc = 0 ∨ s.lc = 3 → exec (.engEn v) s = .next (s.wr Pg.selfTest Reg.SelfTest.ENG_EN [] (v.toNat % 2))) ∧
    (s.lc ≠ 0 → s.lc ≠ 3 → exec (.engEn v) s = .next s))

/-! The host port, firmware and identity, power, Slack. -/

/-- R414 to R425, R463, R464: the host's memory accesses and the resets of its port. A read of an enabled, populated
line without errors answers its 64 bytes as a host sees them; one of any other line answers poison and counts
HOST_UNMAPPED; during a freeze with RO_EN a read answers the readout space; an access waits while the link is down. A
write of module memory is gathered and can be read back at once, a write of a pool arrives there, and a gather buffer
that is written moves no byte the host sees. A CXL reset stops every program and disables every queue; a conventional
reset takes the link down and drops what the module knew of the host's signal lines; the link comes back at the mode it
trained to. Commands that complete in it: CXL_MEM_READ, CXL_MEM_WRITE, GATHER_FLUSH, CXL_RESET, CONVENTIONAL_RESET,
CXL_LINK_RETURN. The model's choices in it: log entries 34, 35 and 55. -/
def Obligations.HostAccessesAndResets : Prop :=
  (∀ (s : State) (off : Nat) (hw : HwErr), s.hostWaits = false → s.readingOut = false → s.selfTesting = false →
    let a := (s.hdmAddr off).1
    (s.hdmOk off = true → s.loneError a 5 15 hw = none → (isModMem a = false ∨ s.verify (blockOf a) = .ok) →
      ∃ t, exec (.cxlMemRead off hw) s = .next t ∧ t.outLine = (List.range 64).map (fun i => s.hostByte (a + i)) ∧
        t.outPoison = false ∧ t.mem = s.mem ∧ t.words32 = s.words32) ∧
    (s.hdmOk off = true →
      ((s.loneError a 5 15 hw).isSome = true ∨ (isModMem a = true ∧ s.verify (blockOf a) ≠ .ok)) →
      ∃ t, exec (.cxlMemRead off hw) s = .next t ∧ t.outLine = [] ∧ t.outPoison = true ∧ t.mem = s.mem) ∧
    (s.hdmOk off = false →
      ∃ t, exec (.cxlMemRead off hw) s = .next t ∧ t.outLine = [] ∧ t.outPoison = true ∧ t.mem = s.mem ∧
        t.rd Pg.cxl Reg.Cxl.HOST_UNMAPPED = min (s.rd Pg.cxl Reg.Cxl.HOST_UNMAPPED + 1) (2 ^ 32 - 1))) ∧
  (∀ (s : State) (off : Nat) (hw : HwErr), (s.hostWaits = true → exec (.cxlMemRead off hw) s = .next s) ∧
    (s.cxlUp = true → s.readingOut = true →
      ∃ t, exec (.cxlMemRead off hw) s = .next t ∧ t.outPoison = false ∧ t.mem = s.mem ∧ t.regs = s.regs ∧
        t.outLine = (List.range 64).map fun i =>
          s.readout (s.rd Pg.slack Reg.Slack.RO_BASE * 2 ^ 30 + off / 64 * 64 + i))) ∧
  (∀ (s : State) (off : Nat) (be : BitVec 64) (data : BitVec 512), s.hostWaits = false → s.readingOut = false →
    s.selfTesting = false → s.hdmOk off = true → s.livePolders (s.hdmAddr off).1 = [] →
    let a := (s.hdmAddr off).1
    (isModMem a = true → s.gather = [] →
      ∃ t, exec (.cxlMemWrite off be data) s = .next t ∧ t.mem = s.mem ∧ t.words32 = s.words32 ∧
        (∀ i, i < 64 → be.getLsbD i = true → t.hostByte (a + i) = data.extractLsb' (8 * i) 8) ∧
        (∀ x, (∀ i, i < 64 → be.getLsbD i = true → x ≠ a + i) → t.hostByte x = s.hostByte x)) ∧
    (isModMem a = false → s.uncopied = [] → s.stalled = [] →
      ∃ t, exec (.cxlMemWrite off be data) s = .next t ∧ t.words32 = s.words32 ∧ t.gather = s.gather ∧
        (∀ i, i < 64 → be.getLsbD i = true → t.byteAt (a + i) = data.extractLsb' (8 * i) 8) ∧
        (∀ b, (∀ i, i < 64 → be.getLsbD i = true → b ∉ s.physAll (a + i)) → t.peek b = s.peek b))) ∧
  (∀ (s : State) (buf : GatherId) (b : GatherBuf), s.still = false → (s.gather.find? fun b => b.buf == buf.val) = some b →
    s.livePolders b.block = [] → s.uncopied = [] → s.stalled = [] → regionOf b.block = .lpddr → b.block % 4096 = 0 →
    (s.phys b.block).isSome = true → b.data ≠ [] → b.data.Pairwise (fun x y => x.1 < y.1) → (∀ e ∈ b.data, e.1 < 4096) →
    (s.verify b.block ≠ .mismatch ∨ b.data.length = 4096) →
    ∃ t, exec (.gatherFlush buf) s = .next t ∧ t.gather = s.gather.filter (fun x => x.buf != buf.val) ∧
      (∀ e ∈ b.data, t.byteAt (b.block + e.1) = e.2) ∧ (∀ x, ¬ s.reaches b.block 4096 x → t.peek x = s.peek x) ∧
      t.words32 = s.words32) ∧
  (∀ s : State, s.frozen = false →
    ∃ t, exec .cxlReset s = .next t ∧ t.loads = [] ∧ t.imaged = [] ∧ t.mem = s.mem ∧ t.words32 = s.words32 ∧
      (∀ p, p < 4 → t.rd (Pg.program p) Reg.Program.RUN = 0 ∧ t.rd (Pg.program p) Reg.Program.STATE = 0) ∧
      (∀ q, q < 32 → t.rd Pg.workQ Reg.WorkQ.QEN [q] = 0) ∧ (∀ q, q < 8 → t.rd Pg.sluiceQ Reg.SluiceQ.QEN [q] = 0)) ∧
  (∀ s : State, ∃ t, exec .conventionalReset s = .next t ∧ t.cxlUp = false ∧ t.hdm = s.rd Pg.cxl Reg.Cxl.HDM_SEGS ∧
      t.rd Pg.landings Reg.Landings.HOST_EN = 0 ∧ t.rd Pg.cxl Reg.Cxl.RATE = 0 ∧ t.rd Pg.cxl Reg.Cxl.WIDTH = 0 ∧
      (∀ e ∈ t.hostLines, e.2.based = false ∧ e.2.cached = false) ∧ t.mem = s.mem ∧ t.words32 = s.words32 ∧
      t.engines = s.engines ∧ t.landings = s.landings ∧ t.polders = s.polders) ∧
  (∀ (s : State) (m : LinkMode), s.cxlUp = false → s.recovery = false → s.power.rails = true → linkOk m = true →
    ∃ t, exec (.cxlLinkReturn m) s = .next t ∧ t.cxlUp = true ∧ t.rd Pg.cxl Reg.Cxl.RATE = m.rate.toNat ∧
      t.rd Pg.cxl Reg.Cxl.WIDTH = m.width.toNat ∧ t.rd Pg.cxl Reg.Cxl.FLIT256 = bit m.flit256 ∧ t.mem = s.mem ∧
      t.engines = s.engines)

/-- R436, R438, R441 to R443, R450, R451: firmware, fuses and the lifecycle. An image that a check refuses changes no
flash and leaves the check's number in FWU_ERR; an accepted one goes into the bank that did not boot, and the other bank
stays; FWU_START does what the same image over PLDM does; SVN_COMMIT raises the fuse counters to the running images' and
never revokes the last slot; PROVISION and an accepted token advance LC by fuses alone, so that the state in force
stays. Commands that complete in it: PLDM_FIRMWARE_UPDATE, FWU_START, SVN_COMMIT, PROVISION, LC_GO. The model's choices
in it: log entries 38 and 39. -/
def Obligations.FirmwareFusesAndLifecycle : Prop :=
  (∀ (s : State) (die : Bool) (image : List Byte), s.frozen = false → s.power.rails = true →
    s.rd Pg.security Reg.Security.FWU_BUSY = 0 →
    let img := image.take (0x100 + bodyLen image)
    let e := s.imageErr (if die then 2 else 1) img
    ∃ t, exec (.pldmFirmwareUpdate (if die then .die else .hub) image) s = .next t ∧
      t.rd Pg.security Reg.Security.FWU_ERR = e ∧ t.fuses = s.fuses ∧ t.mem = s.mem ∧ t.running.hub = s.running.hub ∧
      (e ≠ 0 → t.flash = s.flash) ∧
      (e = 0 → t.flash.bank s.bootBank = s.flash.bank s.bootBank ∧
        (if die then (t.flash.bank (1 - s.bootBank)).die = img ∧
          (t.flash.bank (1 - s.bootBank)).hub = (s.flash.bank (1 - s.bootBank)).hub
        else (t.flash.bank (1 - s.bootBank)).hub = img ∧
          (t.flash.bank (1 - s.bootBank)).die = (s.flash.bank (1 - s.bootBank)).die))) ∧
  (∀ (s : State) (cert : List Byte), s.frozen = false → s.power.rails = true → s.rd Pg.security Reg.Security.FWU_BUSY = 0 →
    ∃ t, exec (.pldmFirmwareUpdate .cert cert) s = .next t ∧ t.fuses = s.fuses ∧ t.mem = s.mem ∧
      (s.certAccepted cert = true → t.flash = { s.flash with cert := cert } ∧ t.rd Pg.security Reg.Security.CERT_OK = 1 ∧
        t.rd Pg.security Reg.Security.FWU_ERR = 0) ∧
      (s.certAccepted cert = false → t.flash = s.flash)) ∧
  (∀ (s : State) (tgt : FwTarget), Serving s → s.gather = [] →
    s.rd Pg.security Reg.Security.FWU_TARGET = (match tgt with
      | .hub => 0
      | .die => 1
      | .cert => 2) →
    let a := s.rd2 Pg.security Reg.Security.FWU_SRC_LO Reg.Security.FWU_SRC_HI
    let n := if tgt = .cert then min 2049 (certLen (s.bytesAt a 6)) else 0x100 + min (2 ^ 24) (s.numAt (a + 0xC) 4)
    (s.populated a 256 = true → s.populated a n = true →
      exec .fwuStart s = exec (.pldmFirmwareUpdate tgt (s.bytesAt a n)) s) ∧
    (s.populated a n = false → ∃ t, exec .fwuStart s = .next t ∧ t.flash = s.flash ∧
      t.rd Pg.security Reg.Security.FWU_ERR = 1)) ∧
  (∀ s : State, Serving s → s.gather = [] → s.running.hub ≠ [] →
    (∀ x ∈ s.running.dies, x ≠ [] → x = imageDigest (s.flash.bank s.bootBank).die) →
    ∃ t, exec .svnCommit s = .next t ∧ t.fuses.svnHub = max s.fuses.svnHub (s.rd Pg.security Reg.Security.RUN_SVN_HUB) ∧
      t.fuses.svnDie = max s.fuses.svnDie (s.rd Pg.security Reg.Security.RUN_SVN_DIE) ∧
      (∀ k, s.fuses.revoked.testBit k = true → t.fuses.revoked.testBit k = true) ∧
      (s.fuses.revoked % 16 ≠ 15 → t.fuses.revoked % 16 ≠ 15) ∧ t.fuses.lc = s.fuses.lc ∧ t.fuses.keys = s.fuses.keys ∧
      t.fuses.secret = s.fuses.secret ∧ t.mem = s.mem) ∧
  (∀ s : State, Serving s → s.gather = [] →
    (s.lc = 0 → s.fuses.lc = 0 → ∃ t, exec .provision s = .next t ∧ t.fuses.lc = 1 ∧ t.lc = 0 ∧
      t.rd Pg.security Reg.Security.PROVISION = 1 ∧
      (∀ i, i < 16 → t.rd Pg.security Reg.Security.DIK_PUB [i] = leAt t.dikPub (4 * i) 4) ∧ t.fuses.keys = s.fuses.keys ∧ t.fuses.revoked = s.fuses.revoked ∧ t.mem = s.mem) ∧
    (s.lc = 0 → s.fuses.lc ≠ 0 → exec .provision s = .next (s.wr Pg.security Reg.Security.PROVISION [] 1)) ∧
    (s.lc ≠ 0 → exec .provision s = .next s)) ∧
  (∀ s : State, Serving s → s.gather = [] →
    let a := s.rd2 Pg.security Reg.Security.LC_SRC_LO Reg.Security.LC_SRC_HI
    let b := s.bytesAt a 192
    ∃ t, exec .lcGo s = .next t ∧ t.lc = s.lc ∧ t.mem = s.mem ∧ t.fuses.keys = s.fuses.keys ∧
      (s.populated a 192 = true → s.tokenOk b = true →
        t.rd Pg.security Reg.Security.LC_RES = 1 ∧ t.fuses.lc = leAt b 4 1 ∧ s.fuses.lc < t.fuses.lc) ∧
      (s.populated a 192 = false ∨ s.tokenOk b = false →
        t.rd Pg.security Reg.Security.LC_RES = 2 ∧ t.fuses = s.fuses ∧ t.flash = s.flash))

/-- R445 to R447, R449: attestation. A responder that serves the transport answers GET_VERSION always and the requests
after it in the order of the connection, every other request with an error; the signed answers carry a signature of the
alias key; no request changes more than the connection, the answers sent and the position in the random source. Commands
that complete in it: GET_VERSION, GET_CAPABILITIES, NEGOTIATE_ALGORITHMS, GET_DIGESTS, GET_CERTIFICATE, CHALLENGE,
GET_MEASUREMENTS. The model's choices in it: log entry 48. -/
def Obligations.AttestationAnswersInOrder : Prop :=
  (∀ (s : State) (tr : Transport), s.responds tr true = true →
    (∃ t, exec (.getVersion tr) s = .next t ∧ t.conn tr = 1 ∧ t.spdmOut = s.spdmOut ++ [(tr, .version)] ∧
      { t with spdm := s.spdm, spdmOut := s.spdmOut } = s) ∧
    (s.conn tr = 1 ∨ s.conn tr = 2 → ∃ t, exec (.getCapabilities tr) s = .next t ∧ t.conn tr = 2 ∧
      t.spdmOut = s.spdmOut ++ [(tr, .capabilities)] ∧ { t with spdm := s.spdm, spdmOut := s.spdmOut } = s) ∧
    (s.conn tr ≠ 1 → s.conn tr ≠ 2 → exec (.getCapabilities tr) s = .next (s.reply tr .error))) ∧
  (∀ (s : State) (tr : Transport), s.responds tr false = true →
    (2 ≤ s.conn tr → ∃ t, exec (.negotiateAlgorithms tr) s = .next t ∧ t.conn tr = 3 ∧
      t.spdmOut = s.spdmOut ++ [(tr, .algorithms)] ∧ { t with spdm := s.spdm, spdmOut := s.spdmOut } = s) ∧
    (s.conn tr < 2 → exec (.negotiateAlgorithms tr) s = .next (s.reply tr .error))) ∧
  (∀ (s : State) (tr : Transport) (off len : Nat) (nonce : List Byte) (sign : Bool), s.responds tr false = true →
    s.conn tr ≠ 3 → ∀ c ∈ [Instr.getDigests tr, .getCertificate tr off len, .challenge tr nonce, .getMeasurements tr sign nonce],
      exec c s = .next (s.reply tr .error)) ∧
  (∀ (s : State) (tr : Transport), s.responds tr false = true → s.conn tr = 3 →
    exec (.getDigests tr) s = .next (s.reply tr (.digests (sha256 s.chain))) ∧
    (∀ off len, off < s.chain.length →
      exec (.getCertificate tr off len) s =
        .next (s.reply tr (.certificate ((s.chain.drop off).take len) (s.chain.length - off - len)))) ∧
    (∀ nonce, ∃ t n, exec (.challenge tr nonce) s = .next t ∧ n.length = 32 ∧
      t.spdmOut = s.spdmOut ++ [(tr, .challengeAuth (sha256 s.chain) n (s.spdmSign tr nonce (sha256 s.chain ++ n)))] ∧
      t.fresh = s.fresh + 8 ∧ { t with spdmOut := s.spdmOut, fresh := s.fresh } = s) ∧
    (∀ nonce, exec (.getMeasurements tr false nonce) s = .next (s.reply tr (.measurements s.blocks [] []))) ∧
    (∀ nonce, ∃ t n, exec (.getMeasurements tr true nonce) s = .next t ∧ n.length = 32 ∧
      t.spdmOut = s.spdmOut ++ [(tr, .measurements s.blocks n (s.spdmSign tr nonce (s.blocks.flatten ++ n)))] ∧
      t.fresh = s.fresh + 8 ∧ { t with spdmOut := s.spdmOut, fresh := s.fresh } = s)) ∧
  (∀ s : State, s.recovery = false → s.lc = 0 → ∀ tr off len sign nonce,
    ∀ c ∈ [Instr.getVersion tr, .getCapabilities tr, .negotiateAlgorithms tr, .getDigests tr, .getCertificate tr off len,
      .challenge tr nonce, .getMeasurements tr sign nonce], exec c s = .next s)

/-- R453, R457, R458, R460: resets. Every module reset leaves the machine as after reset with its cause shown, the
fuses, the flash, the pins and what was sent outside kept; the rails go down on the three shutdowns and on PWR_EN, the
thermal trip leaving its log entry, and come up on PWR_EN and, after an undervoltage, on VIN; the root PLL's lock starts
the wheels and TIMESTAMP. Commands that complete in it: MRST_N, MODULE_RESET, WATCHDOG_EXPIRY, PWR_EN_ASSERT,
PWR_EN_DEASSERT, UNDERVOLTAGE, OVERVOLTAGE, THERMAL_TRIP, PLL_LOCK, LOSS_OF_LOCK, REFCLK_PRESENT, VIN_RISE. The model's
choices in it: log entry 49. -/
def Obligations.ResetsAndPowerSequence : Prop :=
  (∀ s : State, s.power.rails = true →
    (∃ t, exec .mrstN s = .next t ∧ FreshFrom s t 1 ∧ t.flash = s.flash ∧ t.power = s.power) ∧
    (s.recovery = false → s.frozen = false → s.gather = [] →
      ∃ t, exec .moduleReset s = .next t ∧ FreshFrom s t 2 ∧ t.flash = s.flash ∧ t.power = s.power) ∧
    (s.locked = true → s.frozen = false →
      ∃ t, exec .watchdogExpiry s = .next t ∧ FreshFrom s t 3 ∧ t.flash = s.flash ∧ t.power = s.power) ∧
    (∃ t, exec .pwrEnDeassert s = .next t ∧ FreshFrom s t 0 ∧ t.flash = s.flash ∧ t.power.rails = false ∧
      t.power.en = false) ∧
    (∃ t, exec .undervoltage s = .next t ∧ FreshFrom s t 0 ∧ t.flash = s.flash ∧ t.power.rails = false ∧
      t.power.under = true) ∧
    (∃ t, exec .overvoltage s = .next t ∧ FreshFrom s t 0 ∧ t.flash = s.flash ∧ t.power.rails = false ∧
      t.power.cycle = true) ∧
    (∃ t, exec .thermalTrip s = .next t ∧ FreshFrom s t 0 ∧ t.flash = { s.flash with log := s.flash.log ++ [.trip] } ∧
      t.power.rails = false ∧ t.power.trip = true) ∧
    exec .refclkPresent s = .next { s with power := { s.power with ref := true } } ∧
    (s.locked = false →
      ∃ t, exec .pllLock s = .next t ∧ t.locked = true ∧ t.timestamp = 0 ∧ t.wheel = ⟨0, true⟩ ∧ t.mem = s.mem ∧
        t.engines = s.engines ∧ t.landings = s.landings)) ∧
  (∀ s : State, s.locked = true →
    ∃ t, exec .lossOfLock s = .next t ∧ FreshFrom s t 4 ∧ t.flash = s.flash ∧ t.power = s.power) ∧
  (∀ s : State, s.power.en = false →
    ∃ t, exec .pwrEnAssert s = .next t ∧ FreshFrom s t 0 ∧ t.flash = { s.flash with ons := s.flash.ons + 1 } ∧
      t.power.rails = true ∧ t.power.en = true ∧ t.power.lc = none) ∧
  (∀ s : State, s.power.en = true → s.power.rails = false →
    (s.power.under = true →
      ∃ t, exec .vinRise s = .next t ∧ FreshFrom s t 0 ∧ t.flash = { s.flash with ons := s.flash.ons + 1 } ∧
        t.power.rails = true ∧ t.power.under = false) ∧
    (s.power.under = false → exec .vinRise s = .next s))

/-- R432, R439, R440, R456, R459, R461, R471, R521: boot, the watchdog's kick, throttling, the glide and energy. The
boot ROM runs the bank that its checks choose, or stays in recovery; the root's target is the greatest code that is
asked for; the root passes one code at a time; energy is counted in whole millijoules, and no microjoule is lost.
Commands that complete in it: BOOT, WDOG_KICK, THROTTLE_EVAL, THROTTLE_N, GLIDE, ENERGY_REPORT. The model's choices in
it: log entries 49 and 50. -/
def Obligations.BootClocksAndEnergy : Prop :=
  (∀ (s : State) (fails : List SoundUnit), s.power.rails = true → s.locked = true → s.recovery = false → s.running.hub = [] →
    let lc := s.power.lc.getD s.fuses.lc
    lc ≤ 4 →
    let u : State := { s with power := { s.power with lc := some lc } }
    let u := u.wr Pg.security Reg.Security.LCSTATE [] lc
    ∃ t, exec (.boot fails) s = .next t ∧ t.power.lc = some lc ∧ t.rd Pg.security Reg.Security.LCSTATE = lc ∧
      t.fuses = s.fuses ∧ t.mem = s.mem ∧
      (lc = 4 ∨ u.pickBank = none → t.recovery = true ∧ t.heldDies = [0, 1, 2, 3] ∧ t.running = s.running) ∧
      (∀ b, lc ≠ 4 → u.pickBank = some b → t.recovery = false ∧
        t.running.hub = imageDigest (s.flash.bank b).hub ∧
        (u.imageErr 2 (s.flash.bank b).die = 0 → t.heldDies = [] ∧
          t.running.dies = List.replicate 4 (imageDigest (s.flash.bank b).die)) ∧
        (u.imageErr 2 (s.flash.bank b).die ≠ 0 → t.heldDies = [0, 1, 2, 3]))) ∧
  (∀ s : State, Serving s → s.gather = [] → exec .wdogKick s = .next { s with wdog := 0 }) ∧
  (∀ s : State,
    s.rootTarget.1 = max (s.rd Pg.clocks Reg.Clocks.ROOT_TARGET)
      (max s.throttle.pwr (max s.throttle.tmp (if s.throttle.pin then s.rd Pg.clocks Reg.Clocks.THROTTLE_FLOOR else 0)))) ∧
  (∀ (s : State) (rep : PowerReport), s.frozen = false → s.power.rails = true → rep.tj < 256 →
    let g := Pg.clocks
    let root := s.rd g Reg.Clocks.ROOT_TARGET
    ∃ t, exec (.throttleEval rep) s = .next t ∧ t.rd g Reg.Clocks.TJ_MAX = rep.tj ∧
      (s.rd g Reg.Clocks.TJ_THROTTLE ≤ rep.tj → t.throttle.tmp = min 30 (max s.throttle.tmp root + 1)) ∧
      (rep.tj < s.rd g Reg.Clocks.TJ_THROTTLE → t.throttle.tmp ≤ s.throttle.tmp) ∧
      (s.powerLimit rep < 100 * rep.power → t.throttle.pwr = min 30 (max s.throttle.pwr root + 1)) ∧
      (100 * rep.power ≤ s.powerLimit rep → t.throttle.pwr ≤ s.throttle.pwr) ∧
      t.rd g Reg.Clocks.GLIDING = bit (t.rd g Reg.Clocks.ROOT_NOW != t.rootTarget.1) ∧
      t.rd g Reg.Clocks.THROTTLE_CAUSE = t.rootTarget.2 ∧ t.rd g Reg.Clocks.ROOT_NOW = s.rd g Reg.Clocks.ROOT_NOW ∧
      t.mem = s.mem ∧ t.engines = s.engines) ∧
  (∀ (s : State) (low : Bool), s.power.rails = true →
    ∃ t, exec (.throttleN low) s = .next t ∧ t.throttle = { s.throttle with pin := low } ∧
      t.rd Pg.clocks Reg.Clocks.GLIDING = bit (t.rd Pg.clocks Reg.Clocks.ROOT_NOW != t.rootTarget.1) ∧
      t.rd Pg.clocks Reg.Clocks.THROTTLE_CAUSE = t.rootTarget.2 ∧ t.mem = s.mem ∧ t.engines = s.engines) ∧
  (∀ s : State, s.rd Pg.clocks Reg.Clocks.GLIDING = 1 → s.throttle.pwr < 32 → s.throttle.tmp < 32 →
    let now := s.rd Pg.clocks Reg.Clocks.ROOT_NOW
    let to_ := s.rootTarget.1
    let next := if now < to_ then now + 1 else if to_ < now then now - 1 else now
    ∃ t, exec .glide s = .next t ∧ t.rd Pg.clocks Reg.Clocks.ROOT_NOW = next ∧ t.rootTarget = s.rootTarget ∧
      t.rd Pg.clocks Reg.Clocks.GLIDING = bit (next != to_) ∧ t.mem = s.mem ∧ t.engines = s.engines) ∧
  (∀ (s : State) (rep : EnergyReport), s.frozen = false → s.power.rails = true →
    ∃ t, exec (.energyReport rep) s = .next t ∧ t.mem = s.mem ∧ t.engines = s.engines ∧
      (∀ p, p < s.npolders →
        let uj := sget (fun _ => 0) s.energy p + ((s.diesOf p).map (energyOf rep)).sum
        sget (fun _ => 0) t.energy p = uj % 1000 ∧
        t.rd2 (Pg.acct p) Reg.Acct.CNT_LO Reg.Acct.CNT_HI [50] =
          (s.rd2 (Pg.acct p) Reg.Acct.CNT_LO Reg.Acct.CNT_HI [50] + uj / 1000) % 2 ^ 64) ∧
      sget (fun _ => 0) t.energy 4 = (sget (fun _ => 0) s.energy 4 + rep.hub) % 1000 ∧
      t.rd2 Pg.hubAcct Reg.HubAcct.HUB_ENERGY_LO Reg.HubAcct.HUB_ENERGY_HI =
        (s.rd2 Pg.hubAcct Reg.HubAcct.HUB_ENERGY_LO Reg.HubAcct.HUB_ENERGY_HI +
          (sget (fun _ => 0) s.energy 4 + rep.hub) / 1000) % 2 ^ 64)

/-- R462 to R470: Slack. A freeze is requested by the pin or the register, at most once for each, sends its crossing
through every port that is up, and takes effect at an even edge 40 SCLK or more after the request, with its time stamped
and FROZEN shown in every page, memory and engines standing as they were; THAW sends the thaw, and the restart ends the
freeze; a scan changes nothing; the sync input is stamped. Commands that complete in it: FREEZE_N, FREEZE, SYNC_EDGE,
FREEZE_EDGE, THAW, THAW_RESTART, SLACK_SCAN. The model's choices in it: log entries 28 and 51. -/
def Obligations.FreezeAndThaw : Prop :=
  (∀ s : State, s.power.rails = true →
    (exec (.freezeN false) s = .next { s with freeze := { s.freeze with pinUsed := false } }) ∧
    (s.rd Pg.slack Reg.Slack.PIN_FN ≠ 0 ∨ s.freeze.pinUsed = true → exec (.freezeN true) s = .next s) ∧
    (s.rd Pg.slack Reg.Slack.PIN_FN = 0 → s.freeze.pinUsed = false → s.frozen = false → FreezeAsked s (.freezeN true) 0 true) ∧
    (s.recovery = false → s.frozen = false → s.gather = [] → FreezeAsked s .freeze 1 s.freeze.pinUsed)) ∧
  (∀ s : State, s.frozen = false → s.power.rails = true → s.rd Pg.slack Reg.Slack.PIN_FN = 1 →
    s.rd Pg.trace Reg.Trace.SNAP_SYNC ≠ 1 →
    ∃ t, exec .syncEdge s = .next t ∧ t.rd2 Pg.slack Reg.Slack.SYNC_STAMP_LO Reg.Slack.SYNC_STAMP_HI = s.timestamp ∧
      t.mem = s.mem ∧ t.engines = s.engines ∧ t.polders = s.polders) ∧
  (∀ s : State, s.rd Pg.slack Reg.Slack.FSTATE = 1 → s.frozen = false → s.wheel.turns = true → s.timestamp % 2 = 0 →
    (∀ a, s.freeze.asked = some a → a + 40 ≤ s.timestamp) → s.freeze.asked.isSome = true →
    ∃ t, exec .freezeEdge s = .next t ∧ t.frozen = true ∧ t.rd Pg.slack Reg.Slack.FSTATE = 2 ∧
      t.rd2 Pg.slack Reg.Slack.FRZ_STAMP_LO Reg.Slack.FRZ_STAMP_HI = s.timestamp ∧
      (∀ n ∈ allPages, t.rd n Reg.Common.FROZEN = 1) ∧ (∀ b, b / 2 ^ 44 ≠ 6 → t.peek b = s.peek b) ∧
      t.words32 = s.words32 ∧ t.engines = s.engines ∧ t.landings = s.landings ∧ t.polders = s.polders ∧
      (s.rd Pg.slack Reg.Slack.FRZ_MODE = 1 → t.ports = s.ports)) ∧
  (∀ s : State, s.rd Pg.slack Reg.Slack.FSTATE ≠ 1 → exec .freezeEdge s = .next s) ∧
  (∀ s : State, s.frozen = true → s.rd Pg.slack Reg.Slack.FSTATE = 2 →
    (s.rd Pg.slack Reg.Slack.FRZ_MODE ≠ 1 → exec .thaw s = .next s) ∧
    (s.rd Pg.slack Reg.Slack.FRZ_MODE = 1 → s.ports.length = 16 →
      let x := freezeCross 2 (s.rd Pg.slack Reg.Slack.FGEN) (s.rd Pg.slack Reg.Slack.FINIT) s.modId
      ∃ t, exec .thaw s = .next t ∧ t.rd Pg.slack Reg.Slack.FSTATE = 3 ∧ t.mem = s.mem ∧ t.engines = s.engines ∧
        ∀ p, p < 16 → (t.port p).out = if s.portUp p then x :: (s.port p).out else (s.port p).out)) ∧
  (∀ (s : State) (qclk : Nat), s.frozen = true → s.rd Pg.slack Reg.Slack.FSTATE = 3 →
    ∃ u, exec (.thawRestart qclk) s = .next (if u.hold.now.isSome then u else u.drainRxAll.drainIngest) ∧
      u.frozen = false ∧ u.rd Pg.slack Reg.Slack.FSTATE = 0 ∧ u.rd Pg.slack Reg.Slack.FROZEN_QCLK = min qclk (2 ^ 32 - 1) ∧
      (∀ n ∈ allPages, u.rd n Reg.Common.FROZEN = 0) ∧ u.mem = s.mem ∧ u.words32 = s.words32 ∧ u.engines = s.engines ∧
      u.landings = s.landings ∧ u.polders = s.polders ∧ u.ports = s.ports) ∧
  (∀ (s : State) (chain : BitVec 16), exec (.slackScan chain) s = .next s)

/-! Commits and registers. -/

/-- R505 to R510: a commit. CHECK and APPLY start a check unless one runs or a commit is armed; the check reports the
first inconsistency by page, word, bit and reason, or arms the APPLY; the apply edge makes the ST fields of every dirty
page what was staged and no other field; ABORT and a timeout end an armed commit with the staged images kept; DISCARD
makes a staged image follow the live fields again; a step boundary is not needed for an edge in the past. Commands that
complete in it: CHECK, CHECK_DONE, APPLY, APPLY_EDGE, ABORT, ATIMEOUT_EXPIRY, DISCARD_ALL, DISCARD. The model's choices
in it: log entries 16 and 17. -/
def Obligations.CommitChecksArmsAndApplies : Prop :=
  (∀ (s : State) (apply : Bool), Serving s → s.gather = [] →
    let c := if apply then Instr.apply else .check
    (s.commitLocked = false → ∃ t k, exec c s = .next t ∧ t.commit = some k ∧ k.apply = apply ∧
      t.rd Pg.commit Reg.Commit.CSTATE = 1 ∧ t.dirtyPages = s.dirtyPages ∧ { t with regs := s.regs, commit := s.commit } = s) ∧
    (s.commitLocked = true → ∃ t, exec c s = .next t ∧ t.commit = s.commit ∧ t.mem = s.mem ∧
      t.rd Pg.commit Reg.Commit.CSTATE = s.rd Pg.commit Reg.Commit.CSTATE ∧
      t.rd Pg.commit Reg.Commit.LOCKED_WRITES = min (s.rd Pg.commit Reg.Commit.LOCKED_WRITES + 1) (2 ^ 32 - 1))) ∧
  (∀ (s : State) (c : Commit), s.frozen = false → s.commit = some c → s.rd Pg.commit Reg.Commit.CSTATE = 1 →
    let g := Pg.commit
    (s.firstBad s.afterApply s.dirtyPages = none → c.apply = false →
      ∃ t, exec .checkDone s = .next t ∧ t.rd g Reg.Commit.CSTATE = 2 ∧ t.commit = none ∧ t.mem = s.mem) ∧
    (s.firstBad s.afterApply s.dirtyPages = none → c.apply = true → s.rd g Reg.Commit.AMODE ≠ 2 →
      ∃ t k, exec .checkDone s = .next t ∧ t.rd g Reg.Commit.CSTATE = 4 ∧ t.commit = some k ∧ t.mem = s.mem) ∧
    (∀ n o b r, s.firstBad s.afterApply s.dirtyPages = some (n, o, b, r) →
      ∃ t, exec .checkDone s = .next t ∧ t.rd g Reg.Commit.CSTATE = 3 ∧ t.commit = none ∧ t.mem = s.mem ∧
        t.rd g Reg.Commit.CPAGE = n ∧ t.rd g Reg.Commit.CWORD = o / 4 ∧ t.rd g Reg.Commit.CBIT = b ∧
        t.rd g Reg.Commit.CREASON = r ∧ t.rd n Reg.Common.CHECKFAIL = 1)) ∧
  (∀ (s : State) (n o : Nat), o < 4096 → o % 4 = 0 →
    (n ∈ s.dirtyPages → o ∈ stOffsOf n → s.afterApply.word n o = maskedPut (s.word n o) (stMask n o) (s.word n (o + 0x700))) ∧
    (n ∉ s.dirtyPages ∨ o ∉ stOffsOf n → s.afterApply.word n o = s.word n o)) ∧
  (∀ (s : State) (c : Commit), s.frozen = false → s.commit = some c → s.rd Pg.commit Reg.Commit.CSTATE = 4 →
    (s.edgeCome c = true → ∃ u : State, exec .applyEdge s = .next u.loadsRun ∧ u.rd Pg.commit Reg.Commit.CSTATE = 5 ∧
      u.rd2 Pg.commit Reg.Commit.APPLY_STAMP_LO Reg.Commit.APPLY_STAMP_HI = s.timestamp) ∧
    (s.edgeCome c = false → exec .applyEdge s = .next s)) ∧
  (∀ s : State, Serving s → s.gather = [] →
    (s.rd Pg.commit Reg.Commit.CSTATE = 4 → s.loads = [] →
      ∃ t, exec .abort s = .next t ∧ t.rd Pg.commit Reg.Commit.CSTATE = 6 ∧ t.commit = none ∧
        t.stagedWritten = s.stagedWritten ∧ t.mem = s.mem ∧ t.engines = s.engines) ∧
    (s.rd Pg.commit Reg.Commit.CSTATE ≠ 4 → exec .abort s = .next s)) ∧
  (∀ (s : State) (n : Nat) (w : Nat × Waiter), s.still = false → s.rd Pg.commit Reg.Commit.CSTATE = 4 → s.loads = [] →
    (s.landings.findSome? fun e => (e.2.waiters.find? fun w => w.2.who == .commit).map fun w => (e.1, w)) = some (n, w) →
    (s.releasedNow n w.1 = true → exec .atimeoutExpiry s = .next s) ∧
    (s.releasedNow n w.1 = false → ∃ t, exec .atimeoutExpiry s = .next t ∧ t.rd Pg.commit Reg.Commit.CSTATE = 7 ∧ t.commit = none ∧
      (∀ e ∈ (t.landing n).waiters, e.1 ≠ w.1) ∧ t.stagedWritten = s.stagedWritten ∧ t.mem = s.mem)) ∧
  (∀ s : State, Serving s → s.gather = [] → s.commitLocked = false →
    (∃ t, exec .discardAll s = .next t ∧ t.mem = s.mem ∧ t.engines = s.engines ∧
      ∀ n ∈ s.dirtyPages, t.rd n Reg.Common.DIRTY = 0 ∧ ∀ o ∈ stOffsOf n,
        t.word n (o + 0x700) = s.word n o &&& stMask n o ∧ t.word n o = s.word n o) ∧
    (∀ page : PageId, (pageKind page).isSome = true → ∃ t, exec (.discard page) s = .next t ∧ t.mem = s.mem ∧
      t.engines = s.engines ∧ t.rd page Reg.Common.DIRTY = 0 ∧ ∀ o ∈ stOffsOf page,
        t.word page (o + 0x700) = s.word page o &&& stMask page o ∧ t.word page o = s.word page o))

/-- R17, R180, R267, R272, R416, R423, R463, R473, R499, R500, R502, R504: reads and writes of registers. A read answers
the word as a read sees it and clears its RC fields alone; a read of a counter's LO word latches its HI word, which the
next read of it answers; CLR and CLR_ALL zero their counters and nothing else; a write of a staged word changes the
staged word alone, is ignored and counted while a commit is armed, and a page-map entry translates only when its write
has taken effect; during a freeze no write but the Slack page's acts. A read beyond the pages answers a page-map entry
as last written, a word of a landing object, or zero. Every command that writes a register acts once the gather buffers
are written. Commands that complete in it: CLR_ALL, EVSEL_CLR, PAGE_MAP_EFFECT, READ_CLEAR, COUNTER_LO_READ,
REGISTER_WRITE. The model's choices in it: log entries 52 and 53. -/
def Obligations.RegistersReadAndWrite : Prop :=
  (∀ (s : State) (page : PageId), Serving s → s.gather = [] → (pageKind page).isSome = true →
    (∃ t, exec (.clrAll page) s = .next t ∧ (∀ i, i < 16 → t.rd page Reg.Common.EVCNT [i] = 0) ∧
      (∀ n o, o < 4096 → o % 4 = 0 → ¬ (n = page.val ∧ 0x40 ≤ o ∧ o < 0x80) → t.word n o = s.word n o) ∧
      { t with regs := s.regs } = s) ∧
    (∀ e : EvId, ∃ t, exec (.evselClr page e) s = .next t ∧ t.rd page Reg.Common.EVCNT [2 * e.val] = 0 ∧
      t.rd page Reg.Common.EVCNT [2 * e.val + 1] = 0 ∧
      (∀ n o, o < 4096 → o % 4 = 0 → ¬ (n = page.val ∧ 0x40 + 8 * e.val ≤ o ∧ o < 0x48 + 8 * e.val) →
        t.word n o = s.word n o) ∧ { t with regs := s.regs } = s)) ∧
  (∀ (s : State) (c : Instr), Serving s → writesRegister c = true →
    exec c s = exec c s.drainGather ∧ s.drainGather.gather = [] ∧ Serving s.drainGather) ∧
  (∀ (s : State) (e : Nat) (w : Word) (r : List (Nat × Word × Nat)), s.frozen = false →
    (s.pmapPend = (e, w, 0) :: r →
      ∃ t, exec .pageMapEffect s = .next t ∧ sget (fun _ => 0) t.pmapEff e = w ∧
        (∀ x, x ≠ e → sget (fun _ => 0) t.pmapEff x = sget (fun _ => 0) s.pmapEff x) ∧ t.pmapPend = r ∧
        { t with pmapEff := s.pmapEff, pmapPend := s.pmapPend } = s) ∧
    (∀ k, s.pmapPend = (e, w, k + 1) :: r → exec .pageMapEffect s = .next s)) ∧
  (∀ (s : State) (n : BarPage) (o : PageByte), s.power.rails = true → s.recovery = false →
    let off := 4096 * n.val + o.val
    (o.val % 4 ≠ 0 → exec (.readClear n o) s = .next s) ∧
    (o.val % 4 = 0 → off < 0x800000 → s.serves n = true →
      (s.hiLatch.find? fun e => e.1 == regKey n o) = none →
      ∃ t, exec (.readClear n o) s = .next t ∧ t.outWord = s.seen n o ∧
        t.word n o = s.word n o &&& ~~~(maskOf n o (·.acc == .rc)) ∧
        (∀ m x, x < 4096 → x % 4 = 0 → ¬ (m = n.val ∧ x = o.val) → t.word m x = s.word m x) ∧
        { t with regs := s.regs, hiLatch := s.hiLatch, outWord := s.outWord } = s) ∧
    (o.val % 4 = 0 → off < 0x800000 → s.serves n = false →
      exec (.readClear n o) s = .next { s with outWord := s.seen n o }) ∧
    (o.val % 4 = 0 → 0x800000 ≤ off →
      ∃ t, exec (.readClear n o) s = .next t ∧ { t with outWord := s.outWord } = s ∧
        (off < 0xA00000 → t.outWord = sget (fun _ => 0) s.pmap ((off - 0x800000) / 4)) ∧
        (0xA00000 ≤ off → off < 0x1000000 ∨ 0x1080000 ≤ off → t.outWord = 0) ∧
        (∀ k w, k < 8192 → w < 16 → off = 0x1000000 + 64 * k + 4 * w →
          t.outWord = BitVec.ofNat 32 (dword (s.landing k).bytes (4 * w))))) ∧
  (∀ (s : State) (page : PageId) (word h : WordId), s.power.rails = true → s.recovery = false →
    let o := 4 * word.val
    s.serves page = true → hiOf page o = some (4 * h.val) → (s.hiLatch.find? fun e => e.1 == regKey page o) = none →
      ∃ t, exec (.counterLoRead page word) s = .next t ∧ t.outWord = s.seen page o ∧
        ∀ u : State, u.power.rails = true → u.recovery = false → u.serves page = true → u.hiLatch = t.hiLatch →
          ∃ v, exec (.readClear (page.castLE (by decide)) ⟨4 * h.val, by omega⟩) u = .next v ∧
            v.outWord = s.seen page (4 * h.val) ∧
            (v.hiLatch.find? fun e => e.1 == regKey page (4 * h.val)) = none) ∧
  (∀ (s : State) (off : BitVec 25) (v : Word), Serving s → s.gather = [] →
    let n := off.toNat / 4096
    let o := off.toNat % 4096
    (off.toNat % 4 ≠ 0 ∨ 0xA00000 ≤ off.toNat → exec (.registerWrite off v) s = .next s) ∧
    (off.toNat % 4 = 0 → 0x800000 ≤ off.toNat → off.toNat < 0xA00000 →
      let e := (off.toNat - 0x800000) / 4
      let w := v &&& 0x1FFFFF
      ∃ t, exec (.registerWrite off v) s = .next t ∧ sget (fun _ => 0) t.pmap e = w ∧
        (∀ x, x ≠ e → sget (fun _ => 0) t.pmap x = sget (fun _ => 0) s.pmap x) ∧ t.pmapPend = s.pmapPend ++ [(e, w, 64)] ∧
        { t with pmap := s.pmap, pmapPend := s.pmapPend } = s) ∧
    (off.toNat % 4 = 0 → off.toNat < 0x800000 → (pageKind n).isSome = true →
      (0x800 ≤ o → o < 0xF00 → stMask n (o - 0x700) ≠ 0 → s.rd Pg.commit Reg.Commit.CSTATE ≠ 4 →
        ∃ t, exec (.registerWrite off v) s = .next t ∧ t.word n o = v &&& stMask n (o - 0x700) ∧
          t.rd n Reg.Common.DIRTY = 1 ∧ regKey n (o - 0x700) ∈ t.stagedWritten ∧
          (∀ m x, x < 4096 → x % 4 = 0 → ¬ (m = n ∧ (x = o ∨ x = 0x008)) → ¬ (m = Pg.commit ∧ x = 0x120) →
            t.word m x = s.word m x) ∧
          { t with regs := s.regs, stagedWritten := s.stagedWritten } = s) ∧
      (0x800 ≤ o → o < 0xF00 → stMask n (o - 0x700) ≠ 0 → s.rd Pg.commit Reg.Commit.CSTATE = 4 →
        ∃ t, exec (.registerWrite off v) s = .next t ∧ t.word n o = s.word n o ∧ t.mem = s.mem ∧
          t.rd Pg.commit Reg.Commit.LOCKED_WRITES = min (s.rd Pg.commit Reg.Commit.LOCKED_WRITES + 1) (2 ^ 32 - 1)) ∧
      (∀ k, pageKind n = some k → k ∈ [.holds, .landings, .reliab, .cxl, .hubAcct, .routing, .workQ, .sluiceQ, .ingest,
          .dieLink, .ferry, .phase, .acct, .die, .cluster] → 0x100 ≤ o → o < 0x800 → stMask n o = 0 →
        exec (.registerWrite off v) s = .next (s.setWord n o
          (maskedPut (s.word n o) (s.writable n o) v &&& ~~~(maskOf n o (·.acc == .w1c) &&& v)))) ∧
      (o = 0x010 → v.getLsbD 31 = true →
        ∃ t, exec (.registerWrite off v) s = .next t ∧ t.rd n Reg.Common.FC_VALID = 0 ∧ t.word n 0x014 = 0 ∧ t.word n 0x018 = 0 ∧
          t.word n 0x01C = 0 ∧ t.rd n Reg.Common.FAULT_008 = 0 ∧ t.rd n Reg.Common.FAULT_080 = 0 ∧
          { t with regs := s.regs } = s))) ∧
  (∀ (s : State) (off : BitVec 25) (v : Word), s.frozen = true →
    (off.toNat ≠ 4096 * Pg.slack + 0x10C → off.toNat ≠ 4096 * Pg.slack + 0x128 →
      exec (.registerWrite off v) s = .next s) ∧
    (off.toNat = 4096 * Pg.slack + 0x128 →
      ∃ t, exec (.registerWrite off v) s = .next t ∧ t.rd Pg.slack Reg.Slack.RO_BASE = v.toNat % 2 ^ 18 ∧
        (∀ n o, o < 4096 → o % 4 = 0 → ¬ (n = Pg.slack ∧ o = 0x128) → t.word n o = s.word n o) ∧
        { t with regs := s.regs } = s))

/-! Reset, and what every step keeps. -/

/-- R267, R412, R417, R452, R460, R461, R471, R499, R512: the machine after reset. Fields that the spec gives a reset
value read that value, nothing is listed in memory, in registers or in any queue, the links are down, no freeze is in
force; and both invariants hold. The model's choices in it: log entries 4 and 6. -/
def Obligations.ResetIsAsSpecified : Prop :=
  let s := State.reset
  s.canonical = true ∧ s.pending = [] ∧ s.frozen = false ∧ s.cxlUp = false ∧ s.recovery = false ∧ s.timestamp = 0 ∧
    s.locked = false ∧ s.hdm = 64 ∧
    s.rd Pg.cxl Reg.Cxl.HDM_SEGS = 64 ∧ s.rd Pg.commit Reg.Commit.ATIMEOUT = 0xFFFFF ∧ s.rd Pg.commit Reg.Commit.CSTATE = 0 ∧
    s.rd Pg.clocks Reg.Clocks.ROOT_TARGET = 0 ∧ s.rd Pg.clocks Reg.Clocks.POWER_LIMIT = 2900 ∧
    s.rd Pg.clocks Reg.Clocks.THROTTLE_FLOOR = 20 ∧ s.rd Pg.clocks Reg.Clocks.TJ_THROTTLE = 105 ∧
    s.rd Pg.clocks Reg.Clocks.TJ_TRIP = 115 ∧ s.rd Pg.clocks Reg.Clocks.RESET_CAUSE = 0 ∧
    s.rd Pg.slack Reg.Slack.FSTATE = 0 ∧ s.rd Pg.slack Reg.Slack.FRZ_MODE = 0 ∧
    (∀ p, p < 16 → s.portUp p = false) ∧ (∀ p, p < 4 → s.runState p = 0 ∧ s.rd (Pg.program p) Reg.Program.RUN = 0) ∧
    (∀ k, s.engine k = Engine.idle) ∧ (∀ n, s.landing n = Landing.reset) ∧ s.fuses.lc = 0

/-- R436: "No fuse can be unblown." For every command and every state, a step that answers a next state leaves each fuse
at least as blown as it was: the lifecycle count and the anti-rollback counters do not fall, a revoke fuse that is blown
stays blown, the key slots' hashes do not change, and the device secret changes only as LC advances. -/
def Obligations.NoStepUnblowsAFuse : Prop :=
  ∀ s t : State, step s = .next t →
    s.fuses.lc ≤ t.fuses.lc ∧ s.fuses.svnHub ≤ t.fuses.svnHub ∧ s.fuses.svnDie ≤ t.fuses.svnDie ∧
      (∀ k, s.fuses.revoked.testBit k = true → t.fuses.revoked.testBit k = true) ∧ t.fuses.keys = s.fuses.keys ∧
      (t.fuses.lc = s.fuses.lc → t.fuses.secret = s.fuses.secret)

/-- R464, R497: registers and memory keep their canonical form. Whatever state a step begins in, if its registers and
its memory list rising indices and nothing that an unlisted index reads as, then so do those of the next state: equal
contents are equal data. The model's choices in it: log entry 4. -/
def Obligations.EveryStepKeepsCanonicalForm : Prop :=
  ∀ s t : State, s.canonical = true → step s = .next t → t.canonical = true
end

