-- ==== Sys2Proof/Decode.lean ====
section
/-! DEFINITION. Commands spelled by words: the table gives no row any bits. -/

namespace Sys2Proof

/-- The command that the low `nbits` bits `w` spell. No row of spec/opcode_table.json has bits, so that no word spells one
(log entry 3). -/
def decodeTableWord (_nbits _w : Nat) : Option Instr := none

end Sys2Proof
end

