-- ==== Sys2Proof/Laws/Sparse.lean ====
section
/-! SUPPORT. Sparse arrays: a read after a write, and the canonical form kept by every write. -/

namespace Sys2Proof.Laws

open Sys2Proof.Machine

variable {α : Type}

@[simp] theorem sget_nil (d : Nat → α) (k : Nat) : sget d [] k = d k := rfl

theorem sget_sdrop (d : Nat → α) (l : Sparse α) (k j : Nat) :
    sget d (sdrop l k) j = if j = k then d j else sget d l j := by
  induction l with
  | nil => by_cases h : j = k <;> simp [sdrop, sget, h]
  | cons e r ih =>
    simp only [sdrop, sget]
    split
    · rename_i hk
      subst hk
      rw [ih]
      by_cases hj : j = e.1
      · simp [hj]
      · simp [hj, Ne.symm hj]
    · rename_i hk
      simp only [sget, ih]
      by_cases hj : e.1 = j
      · simp [hj, show ¬ j = k from fun h => hk (hj.trans h)]
      · simp [hj]

theorem sget_sins_same (d : Nat → α) (l : Sparse α) (k : Nat) (v : α)
    (hk : ∀ e ∈ l, e.1 ≠ k) : sget d (sins k v l) k = v := by
  induction l with
  | nil => simp [sins, sget]
  | cons e r ih =>
    have he : e.1 ≠ k := hk e (by simp)
    by_cases hl : k < e.1
    · simp [sins, sget, hl]
    · simp [sins, sget, hl, he, ih fun x hx => hk x (by simp [hx])]

theorem sget_sins_ne (d : Nat → α) (l : Sparse α) (k j : Nat) (v : α) (h : j ≠ k) :
    sget d (sins k v l) j = sget d l j := by
  have hk : ¬ k = j := fun e => h e.symm
  induction l with
  | nil => simp [sins, sget, hk]
  | cons e r ih =>
    simp only [sins]
    split
    · simp [sget, hk]
    · simp [sget, ih]

theorem sdrop_no_key (l : Sparse α) (k : Nat) : ∀ e ∈ sdrop l k, e.1 ≠ k := by
  induction l with
  | nil => simp [sdrop]
  | cons e r ih =>
    by_cases hk : e.1 = k
    · simpa [sdrop, hk] using ih
    · intro x hx
      simp only [sdrop, hk, if_false, List.mem_cons] at hx
      rcases hx with rfl | hx
      · exact hk
      · exact ih x hx

/-- A read after a write, of any index. -/
theorem sget_sset [DecidableEq α] (d : Nat → α) (l : Sparse α) (k j : Nat) (v : α) :
    sget d (sset d l k v) j = if j = k then v else sget d l j := by
  unfold sset
  by_cases hv : v = d k
  · by_cases hj : j = k <;> simp [hv, sget_sdrop, hj]
  · by_cases hj : j = k
    · subst hj
      simp [hv, sget_sins_same d _ j v (sdrop_no_key l j)]
    · simp [hv, sget_sins_ne d _ k j v hj, sget_sdrop, hj]

@[simp] theorem sget_sset_self [DecidableEq α] (d : Nat → α) (l : Sparse α) (k : Nat) (v : α) :
    sget d (sset d l k v) k = v := by simp [sget_sset]

@[simp] theorem sget_sset_ne [DecidableEq α] (d : Nat → α) (l : Sparse α) (k j : Nat) (v : α) (h : j ≠ k) :
    sget d (sset d l k v) j = sget d l j := by simp [sget_sset, h]

/-- Writing what is there leaves every read as it was; a list of writes leaves every other index alone. -/
theorem sget_ssetMany_ne [DecidableEq α] (d : Nat → α) (us : List (Nat × α)) (l : Sparse α) (j : Nat)
    (h : ∀ u ∈ us, u.1 ≠ j) : sget d (ssetMany d l us) j = sget d l j := by
  unfold ssetMany
  induction us generalizing l with
  | nil => rfl
  | cons u r ih =>
    simp only [List.foldl_cons]
    rw [ih _ fun x hx => h x (by simp [hx]), sget_sset_ne d l u.1 j u.2 fun e => h u (by simp) e.symm]

/-! The canonical form. -/

theorem sabove_mono {j k : Nat} (h : j ≤ k) : ∀ {l : Sparse α}, sabove k l = true → sabove j l = true
  | [], _ => rfl
  | e :: r, hl => by
    simp only [sabove, Bool.and_eq_true, decide_eq_true_eq] at hl ⊢
    exact ⟨by omega, sabove_mono h hl.2⟩

theorem sabove_sdrop {k j : Nat} : ∀ {l : Sparse α}, sabove k l = true → sabove k (sdrop l j) = true
  | [], _ => rfl
  | e :: r, hl => by
    simp only [sabove, Bool.and_eq_true, decide_eq_true_eq] at hl
    by_cases he : e.1 = j
    · simp [sdrop, he, sabove_sdrop hl.2]
    · simp [sdrop, he, sabove, hl.1, sabove_sdrop hl.2]

theorem swf_sdrop [DecidableEq α] (d : Nat → α) (k : Nat) : ∀ {l : Sparse α}, swf d l = true → swf d (sdrop l k) = true
  | [], _ => rfl
  | e :: r, hl => by
    simp only [swf, Bool.and_eq_true] at hl
    by_cases he : e.1 = k
    · simp [sdrop, he, swf_sdrop d k hl.2]
    · simp [sdrop, he, swf, sabove_sdrop hl.1.1, swf_sdrop d k hl.2]
      simpa using hl.1.2

theorem sabove_sins {j k : Nat} {v : α} (h : j < k) :
    ∀ {l : Sparse α}, sabove j l = true → sabove j (sins k v l) = true
  | [], _ => by simp [sins, sabove, h]
  | e :: r, hl => by
    have hl' := hl
    simp only [sabove, Bool.and_eq_true, decide_eq_true_eq] at hl'
    by_cases hk : k < e.1
    · simp [sins, hk, sabove, h, hl'.1, hl'.2]
    · simp [sins, hk, sabove, hl'.1, sabove_sins h hl'.2]

theorem swf_sins [DecidableEq α] (d : Nat → α) {k : Nat} {v : α} (hv : v ≠ d k) :
    ∀ {l : Sparse α}, (∀ e ∈ l, e.1 ≠ k) → swf d l = true → swf d (sins k v l) = true
  | [], _, _ => by simp [sins, swf, sabove, hv]
  | e :: r, hk, hl => by
    have hl' := hl
    simp only [swf, Bool.and_eq_true] at hl'
    have he : e.1 ≠ k := hk e (by simp)
    by_cases h : k < e.1
    · have : sabove k r = true := sabove_mono (Nat.le_of_lt h) hl'.1.1
      simp [sins, h, swf, sabove, hv, hl'.1.1, hl'.2, this]
      simpa using hl'.1.2
    · have hlt : e.1 < k := by omega
      have ih := swf_sins d hv (fun x hx => hk x (by simp [hx])) hl'.2
      simp [sins, h, swf, ih, sabove_sins hlt hl'.1.1]
      simpa using hl'.1.2

/-- A write keeps the canonical form. -/
theorem swf_sset [DecidableEq α] (d : Nat → α) (l : Sparse α) (k : Nat) (v : α) (h : swf d l = true) :
    swf d (sset d l k v) = true := by
  unfold sset
  by_cases hv : v = d k
  · simp [hv, swf_sdrop d k h]
  · simp [hv, swf_sins d hv (sdrop_no_key l k) (swf_sdrop d k h)]

/-- Any list of writes keeps the canonical form. -/
theorem swf_ssetMany [DecidableEq α] (d : Nat → α) (us : List (Nat × α)) (l : Sparse α) (h : swf d l = true) :
    swf d (ssetMany d l us) = true := by
  unfold ssetMany
  induction us generalizing l with
  | nil => exact h
  | cons u r ih => exact ih _ (swf_sset d l u.1 u.2 h)

/-- Filtering keeps the canonical form. -/
theorem sabove_filter (p : Nat × α → Bool) {k : Nat} :
    ∀ {l : Sparse α}, sabove k l = true → sabove k (l.filter p) = true
  | [], _ => rfl
  | e :: r, hl => by
    simp only [sabove, Bool.and_eq_true, decide_eq_true_eq] at hl
    by_cases hp : p e = true
    · simp [hp, sabove, hl.1, sabove_filter p hl.2]
    · simp [hp, sabove_filter p hl.2]

theorem swf_filter [DecidableEq α] (d : Nat → α) (p : Nat × α → Bool) :
    ∀ {l : Sparse α}, swf d l = true → swf d (l.filter p) = true
  | [], _ => rfl
  | e :: r, hl => by
    simp only [swf, Bool.and_eq_true] at hl
    by_cases hp : p e = true
    · simp [hp, swf, sabove_filter p hl.1.1, swf_filter d p hl.2]
      simpa using hl.1.2
    · simp [hp, swf_filter d p hl.2]

end Sys2Proof.Laws
end

