-- ==== Sys2Proof/Laws/State.lean ====
section
/-! SUPPORT. What each single-field update leaves: every other field of the state, one lemma each. -/

namespace Sys2Proof.Laws

open Sys2Proof.Machine

variable (s : State)

/-! setWord changes `regs` only. -/

@[simp] theorem setWord_pending (p o : Nat) (v : Word) : (s.setWord p o v).pending = s.pending := rfl
@[simp] theorem setWord_mem (p o : Nat) (v : Word) : (s.setWord p o v).mem = s.mem := rfl
@[simp] theorem setWord_words32 (p o : Nat) (v : Word) : (s.setWord p o v).words32 = s.words32 := rfl
@[simp] theorem setWord_pmap (p o : Nat) (v : Word) : (s.setWord p o v).pmap = s.pmap := rfl
@[simp] theorem setWord_pmapEff (p o : Nat) (v : Word) : (s.setWord p o v).pmapEff = s.pmapEff := rfl
@[simp] theorem setWord_pmapPend (p o : Nat) (v : Word) : (s.setWord p o v).pmapPend = s.pmapPend := rfl
@[simp] theorem setWord_engines (p o : Nat) (v : Word) : (s.setWord p o v).engines = s.engines := rfl
@[simp] theorem setWord_jobs (p o : Nat) (v : Word) : (s.setWord p o v).jobs = s.jobs := rfl
@[simp] theorem setWord_inflight (p o : Nat) (v : Word) : (s.setWord p o v).inflight = s.inflight := rfl
@[simp] theorem setWord_reqs (p o : Nat) (v : Word) : (s.setWord p o v).reqs = s.reqs := rfl
@[simp] theorem setWord_windows (p o : Nat) (v : Word) : (s.setWord p o v).windows = s.windows := rfl
@[simp] theorem setWord_streams (p o : Nat) (v : Word) : (s.setWord p o v).streams = s.streams := rfl
@[simp] theorem setWord_meOpened (p o : Nat) (v : Word) : (s.setWord p o v).meOpened = s.meOpened := rfl
@[simp] theorem setWord_mvpBuf (p o : Nat) (v : Word) : (s.setWord p o v).mvpBuf = s.mvpBuf := rfl
@[simp] theorem setWord_wqueue (p o : Nat) (v : Word) : (s.setWord p o v).wqueue = s.wqueue := rfl
@[simp] theorem setWord_zmap (p o : Nat) (v : Word) : (s.setWord p o v).zmap = s.zmap := rfl
@[simp] theorem setWord_silt (p o : Nat) (v : Word) : (s.setWord p o v).silt = s.silt := rfl
@[simp] theorem setWord_wheel (p o : Nat) (v : Word) : (s.setWord p o v).wheel = s.wheel := rfl
@[simp] theorem setWord_sstNow (p o : Nat) (v : Word) : (s.setWord p o v).sstNow = s.sstNow := rfl
@[simp] theorem setWord_lpChan (p o : Nat) (v : Word) : (s.setWord p o v).lpChan = s.lpChan := rfl
@[simp] theorem setWord_lpBank (p o : Nat) (v : Word) : (s.setWord p o v).lpBank = s.lpBank := rfl
@[simp] theorem setWord_lpQueue (p o : Nat) (v : Word) : (s.setWord p o v).lpQueue = s.lpQueue := rfl
@[simp] theorem setWord_delivery (p o : Nat) (v : Word) : (s.setWord p o v).delivery = s.delivery := rfl
@[simp] theorem setWord_cel (p o : Nat) (v : Word) : (s.setWord p o v).cel = s.cel := rfl
@[simp] theorem setWord_hold (p o : Nat) (v : Word) : (s.setWord p o v).hold = s.hold := rfl
@[simp] theorem setWord_hotDevs (p o : Nat) (v : Word) : (s.setWord p o v).hotDevs = s.hotDevs := rfl
@[simp] theorem setWord_polders (p o : Nat) (v : Word) : (s.setWord p o v).polders = s.polders := rfl
@[simp] theorem setWord_hubCmp (p o : Nat) (v : Word) : (s.setWord p o v).hubCmp = s.hubCmp := rfl
@[simp] theorem setWord_stalled (p o : Nat) (v : Word) : (s.setWord p o v).stalled = s.stalled := rfl
@[simp] theorem setWord_uncopied (p o : Nat) (v : Word) : (s.setWord p o v).uncopied = s.uncopied := rfl
@[simp] theorem setWord_hostOut (p o : Nat) (v : Word) : (s.setWord p o v).hostOut = s.hostOut := rfl
@[simp] theorem setWord_cxlUp (p o : Nat) (v : Word) : (s.setWord p o v).cxlUp = s.cxlUp := rfl
@[simp] theorem setWord_hdm (p o : Nat) (v : Word) : (s.setWord p o v).hdm = s.hdm := rfl
@[simp] theorem setWord_frozen (p o : Nat) (v : Word) : (s.setWord p o v).frozen = s.frozen := rfl
@[simp] theorem setWord_stagedWritten (p o : Nat) (v : Word) : (s.setWord p o v).stagedWritten = s.stagedWritten := rfl
@[simp] theorem setWord_agentWrites (p o : Nat) (v : Word) : (s.setWord p o v).agentWrites = s.agentWrites := rfl
@[simp] theorem setWord_landings (p o : Nat) (v : Word) : (s.setWord p o v).landings = s.landings := rfl
@[simp] theorem setWord_landingQ (p o : Nat) (v : Word) : (s.setWord p o v).landingQ = s.landingQ := rfl
@[simp] theorem setWord_releases (p o : Nat) (v : Word) : (s.setWord p o v).releases = s.releases := rfl
@[simp] theorem setWord_landingDone (p o : Nat) (v : Word) : (s.setWord p o v).landingDone = s.landingDone := rfl
@[simp] theorem setWord_granted (p o : Nat) (v : Word) : (s.setWord p o v).granted = s.granted := rfl
@[simp] theorem setWord_haltedQ (p o : Nat) (v : Word) : (s.setWord p o v).haltedQ = s.haltedQ := rfl
@[simp] theorem setWord_gates (p o : Nat) (v : Word) : (s.setWord p o v).gates = s.gates := rfl
@[simp] theorem setWord_tags (p o : Nat) (v : Word) : (s.setWord p o v).tags = s.tags := rfl
@[simp] theorem setWord_hostLines (p o : Nat) (v : Word) : (s.setWord p o v).hostLines = s.hostLines := rfl
@[simp] theorem setWord_faultAt (p o : Nat) (v : Word) : (s.setWord p o v).faultAt = s.faultAt := rfl
@[simp] theorem setWord_hiLatch (p o : Nat) (v : Word) : (s.setWord p o v).hiLatch = s.hiLatch := rfl
@[simp] theorem setWord_outWord (p o : Nat) (v : Word) : (s.setWord p o v).outWord = s.outWord := rfl
@[simp] theorem setWord_outLine (p o : Nat) (v : Word) : (s.setWord p o v).outLine = s.outLine := rfl
@[simp] theorem setWord_outPoison (p o : Nat) (v : Word) : (s.setWord p o v).outPoison = s.outPoison := rfl
@[simp] theorem setWord_ports (p o : Nat) (v : Word) : (s.setWord p o v).ports = s.ports := rfl
@[simp] theorem setWord_rxStreams (p o : Nat) (v : Word) : (s.setWord p o v).rxStreams = s.rxStreams := rfl
@[simp] theorem setWord_rxWait (p o : Nat) (v : Word) : (s.setWord p o v).rxWait = s.rxWait := rfl
@[simp] theorem setWord_workqs (p o : Nat) (v : Word) : (s.setWord p o v).workqs = s.workqs := rfl
@[simp] theorem setWord_barriers (p o : Nat) (v : Word) : (s.setWord p o v).barriers = s.barriers := rfl
@[simp] theorem setWord_batches (p o : Nat) (v : Word) : (s.setWord p o v).batches = s.batches := rfl
@[simp] theorem setWord_chans (p o : Nat) (v : Word) : (s.setWord p o v).chans = s.chans := rfl
@[simp] theorem setWord_ingestRx (p o : Nat) (v : Word) : (s.setWord p o v).ingestRx = s.ingestRx := rfl
@[simp] theorem setWord_netOut (p o : Nat) (v : Word) : (s.setWord p o v).netOut = s.netOut := rfl
@[simp] theorem setWord_wharfTag (p o : Nat) (v : Word) : (s.setWord p o v).wharfTag = s.wharfTag := rfl
@[simp] theorem setWord_entropyAt (p o : Nat) (v : Word) : (s.setWord p o v).entropyAt = s.entropyAt := rfl
@[simp] theorem setWord_sluice (p o : Nat) (v : Word) : (s.setWord p o v).sluice = s.sluice := rfl
@[simp] theorem setWord_sluiceEv (p o : Nat) (v : Word) : (s.setWord p o v).sluiceEv = s.sluiceEv := rfl
@[simp] theorem setWord_trace (p o : Nat) (v : Word) : (s.setWord p o v).trace = s.trace := rfl
@[simp] theorem setWord_traceSeq (p o : Nat) (v : Word) : (s.setWord p o v).traceSeq = s.traceSeq := rfl
@[simp] theorem setWord_towpath (p o : Nat) (v : Word) : (s.setWord p o v).towpath = s.towpath := rfl
@[simp] theorem setWord_snapTrig (p o : Nat) (v : Word) : (s.setWord p o v).snapTrig = s.snapTrig := rfl
@[simp] theorem setWord_freeze (p o : Nat) (v : Word) : (s.setWord p o v).freeze = s.freeze := rfl
@[simp] theorem setWord_snaps (p o : Nat) (v : Word) : (s.setWord p o v).snaps = s.snaps := rfl
@[simp] theorem setWord_stPuts (p o : Nat) (v : Word) : (s.setWord p o v).stPuts = s.stPuts := rfl
@[simp] theorem setWord_stSent (p o : Nat) (v : Word) : (s.setWord p o v).stSent = s.stSent := rfl
@[simp] theorem setWord_sends (p o : Nat) (v : Word) : (s.setWord p o v).sends = s.sends := rfl
@[simp] theorem setWord_commit (p o : Nat) (v : Word) : (s.setWord p o v).commit = s.commit := rfl
@[simp] theorem setWord_moves (p o : Nat) (v : Word) : (s.setWord p o v).moves = s.moves := rfl
@[simp] theorem setWord_repairs (p o : Nat) (v : Word) : (s.setWord p o v).repairs = s.repairs := rfl
@[simp] theorem setWord_badSpares (p o : Nat) (v : Word) : (s.setWord p o v).badSpares = s.badSpares := rfl
@[simp] theorem setWord_sounded (p o : Nat) (v : Word) : (s.setWord p o v).sounded = s.sounded := rfl
@[simp] theorem setWord_soundOk (p o : Nat) (v : Word) : (s.setWord p o v).soundOk = s.soundOk := rfl
@[simp] theorem setWord_shadowRow (p o : Nat) (v : Word) : (s.setWord p o v).shadowRow = s.shadowRow := rfl
@[simp] theorem setWord_loads (p o : Nat) (v : Word) : (s.setWord p o v).loads = s.loads := rfl
@[simp] theorem setWord_imaged (p o : Nat) (v : Word) : (s.setWord p o v).imaged = s.imaged := rfl
@[simp] theorem setWord_gather (p o : Nat) (v : Word) : (s.setWord p o v).gather = s.gather := rfl
@[simp] theorem setWord_fuses (p o : Nat) (v : Word) : (s.setWord p o v).fuses = s.fuses := rfl
@[simp] theorem setWord_flash (p o : Nat) (v : Word) : (s.setWord p o v).flash = s.flash := rfl
@[simp] theorem setWord_running (p o : Nat) (v : Word) : (s.setWord p o v).running = s.running := rfl
@[simp] theorem setWord_recovery (p o : Nat) (v : Word) : (s.setWord p o v).recovery = s.recovery := rfl
@[simp] theorem setWord_heldDies (p o : Nat) (v : Word) : (s.setWord p o v).heldDies = s.heldDies := rfl
@[simp] theorem setWord_power (p o : Nat) (v : Word) : (s.setWord p o v).power = s.power := rfl
@[simp] theorem setWord_throttle (p o : Nat) (v : Word) : (s.setWord p o v).throttle = s.throttle := rfl
@[simp] theorem setWord_wdog (p o : Nat) (v : Word) : (s.setWord p o v).wdog = s.wdog := rfl
@[simp] theorem setWord_selfTest (p o : Nat) (v : Word) : (s.setWord p o v).selfTest = s.selfTest := rfl
@[simp] theorem setWord_rbPass (p o : Nat) (v : Word) : (s.setWord p o v).rbPass = s.rbPass := rfl
@[simp] theorem setWord_spdm (p o : Nat) (v : Word) : (s.setWord p o v).spdm = s.spdm := rfl
@[simp] theorem setWord_spdmOut (p o : Nat) (v : Word) : (s.setWord p o v).spdmOut = s.spdmOut := rfl
@[simp] theorem setWord_mfJobs (p o : Nat) (v : Word) : (s.setWord p o v).mfJobs = s.mfJobs := rfl
@[simp] theorem setWord_ringRecs (p o : Nat) (v : Word) : (s.setWord p o v).ringRecs = s.ringRecs := rfl
@[simp] theorem setWord_ringHead (p o : Nat) (v : Word) : (s.setWord p o v).ringHead = s.ringHead := rfl
@[simp] theorem setWord_energy (p o : Nat) (v : Word) : (s.setWord p o v).energy = s.energy := rfl
@[simp] theorem setWord_ids (p o : Nat) (v : Word) : (s.setWord p o v).ids = s.ids := rfl
@[simp] theorem setWord_fresh (p o : Nat) (v : Word) : (s.setWord p o v).fresh = s.fresh := rfl

/-! wr changes `regs` only. -/

@[simp] theorem wr_pending (p : Nat) (f : FieldSpec) (ix : List Nat) (v : Nat) : (s.wr p f ix v).pending = s.pending := rfl
@[simp] theorem wr_mem (p : Nat) (f : FieldSpec) (ix : List Nat) (v : Nat) : (s.wr p f ix v).mem = s.mem := rfl
@[simp] theorem wr_words32 (p : Nat) (f : FieldSpec) (ix : List Nat) (v : Nat) : (s.wr p f ix v).words32 = s.words32 := rfl
@[simp] theorem wr_pmap (p : Nat) (f : FieldSpec) (ix : List Nat) (v : Nat) : (s.wr p f ix v).pmap = s.pmap := rfl
@[simp] theorem wr_pmapEff (p : Nat) (f : FieldSpec) (ix : List Nat) (v : Nat) : (s.wr p f ix v).pmapEff = s.pmapEff := rfl
@[simp] theorem wr_pmapPend (p : Nat) (f : FieldSpec) (ix : List Nat) (v : Nat) : (s.wr p f ix v).pmapPend = s.pmapPend := rfl
@[simp] theorem wr_engines (p : Nat) (f : FieldSpec) (ix : List Nat) (v : Nat) : (s.wr p f ix v).engines = s.engines := rfl
@[simp] theorem wr_jobs (p : Nat) (f : FieldSpec) (ix : List Nat) (v : Nat) : (s.wr p f ix v).jobs = s.jobs := rfl
@[simp] theorem wr_inflight (p : Nat) (f : FieldSpec) (ix : List Nat) (v : Nat) : (s.wr p f ix v).inflight = s.inflight := rfl
@[simp] theorem wr_reqs (p : Nat) (f : FieldSpec) (ix : List Nat) (v : Nat) : (s.wr p f ix v).reqs = s.reqs := rfl
@[simp] theorem wr_windows (p : Nat) (f : FieldSpec) (ix : List Nat) (v : Nat) : (s.wr p f ix v).windows = s.windows := rfl
@[simp] theorem wr_streams (p : Nat) (f : FieldSpec) (ix : List Nat) (v : Nat) : (s.wr p f ix v).streams = s.streams := rfl
@[simp] theorem wr_meOpened (p : Nat) (f : FieldSpec) (ix : List Nat) (v : Nat) : (s.wr p f ix v).meOpened = s.meOpened := rfl
@[simp] theorem wr_mvpBuf (p : Nat) (f : FieldSpec) (ix : List Nat) (v : Nat) : (s.wr p f ix v).mvpBuf = s.mvpBuf := rfl
@[simp] theorem wr_wqueue (p : Nat) (f : FieldSpec) (ix : List Nat) (v : Nat) : (s.wr p f ix v).wqueue = s.wqueue := rfl
@[simp] theorem wr_zmap (p : Nat) (f : FieldSpec) (ix : List Nat) (v : Nat) : (s.wr p f ix v).zmap = s.zmap := rfl
@[simp] theorem wr_silt (p : Nat) (f : FieldSpec) (ix : List Nat) (v : Nat) : (s.wr p f ix v).silt = s.silt := rfl
@[simp] theorem wr_wheel (p : Nat) (f : FieldSpec) (ix : List Nat) (v : Nat) : (s.wr p f ix v).wheel = s.wheel := rfl
@[simp] theorem wr_sstNow (p : Nat) (f : FieldSpec) (ix : List Nat) (v : Nat) : (s.wr p f ix v).sstNow = s.sstNow := rfl
@[simp] theorem wr_lpChan (p : Nat) (f : FieldSpec) (ix : List Nat) (v : Nat) : (s.wr p f ix v).lpChan = s.lpChan := rfl
@[simp] theorem wr_lpBank (p : Nat) (f : FieldSpec) (ix : List Nat) (v : Nat) : (s.wr p f ix v).lpBank = s.lpBank := rfl
@[simp] theorem wr_lpQueue (p : Nat) (f : FieldSpec) (ix : List Nat) (v : Nat) : (s.wr p f ix v).lpQueue = s.lpQueue := rfl
@[simp] theorem wr_delivery (p : Nat) (f : FieldSpec) (ix : List Nat) (v : Nat) : (s.wr p f ix v).delivery = s.delivery := rfl
@[simp] theorem wr_cel (p : Nat) (f : FieldSpec) (ix : List Nat) (v : Nat) : (s.wr p f ix v).cel = s.cel := rfl
@[simp] theorem wr_hold (p : Nat) (f : FieldSpec) (ix : List Nat) (v : Nat) : (s.wr p f ix v).hold = s.hold := rfl
@[simp] theorem wr_hotDevs (p : Nat) (f : FieldSpec) (ix : List Nat) (v : Nat) : (s.wr p f ix v).hotDevs = s.hotDevs := rfl
@[simp] theorem wr_polders (p : Nat) (f : FieldSpec) (ix : List Nat) (v : Nat) : (s.wr p f ix v).polders = s.polders := rfl
@[simp] theorem wr_hubCmp (p : Nat) (f : FieldSpec) (ix : List Nat) (v : Nat) : (s.wr p f ix v).hubCmp = s.hubCmp := rfl
@[simp] theorem wr_stalled (p : Nat) (f : FieldSpec) (ix : List Nat) (v : Nat) : (s.wr p f ix v).stalled = s.stalled := rfl
@[simp] theorem wr_uncopied (p : Nat) (f : FieldSpec) (ix : List Nat) (v : Nat) : (s.wr p f ix v).uncopied = s.uncopied := rfl
@[simp] theorem wr_hostOut (p : Nat) (f : FieldSpec) (ix : List Nat) (v : Nat) : (s.wr p f ix v).hostOut = s.hostOut := rfl
@[simp] theorem wr_cxlUp (p : Nat) (f : FieldSpec) (ix : List Nat) (v : Nat) : (s.wr p f ix v).cxlUp = s.cxlUp := rfl
@[simp] theorem wr_hdm (p : Nat) (f : FieldSpec) (ix : List Nat) (v : Nat) : (s.wr p f ix v).hdm = s.hdm := rfl
@[simp] theorem wr_frozen (p : Nat) (f : FieldSpec) (ix : List Nat) (v : Nat) : (s.wr p f ix v).frozen = s.frozen := rfl
@[simp] theorem wr_stagedWritten (p : Nat) (f : FieldSpec) (ix : List Nat) (v : Nat) : (s.wr p f ix v).stagedWritten = s.stagedWritten := rfl
@[simp] theorem wr_agentWrites (p : Nat) (f : FieldSpec) (ix : List Nat) (v : Nat) : (s.wr p f ix v).agentWrites = s.agentWrites := rfl
@[simp] theorem wr_landings (p : Nat) (f : FieldSpec) (ix : List Nat) (v : Nat) : (s.wr p f ix v).landings = s.landings := rfl
@[simp] theorem wr_landingQ (p : Nat) (f : FieldSpec) (ix : List Nat) (v : Nat) : (s.wr p f ix v).landingQ = s.landingQ := rfl
@[simp] theorem wr_releases (p : Nat) (f : FieldSpec) (ix : List Nat) (v : Nat) : (s.wr p f ix v).releases = s.releases := rfl
@[simp] theorem wr_landingDone (p : Nat) (f : FieldSpec) (ix : List Nat) (v : Nat) : (s.wr p f ix v).landingDone = s.landingDone := rfl
@[simp] theorem wr_granted (p : Nat) (f : FieldSpec) (ix : List Nat) (v : Nat) : (s.wr p f ix v).granted = s.granted := rfl
@[simp] theorem wr_haltedQ (p : Nat) (f : FieldSpec) (ix : List Nat) (v : Nat) : (s.wr p f ix v).haltedQ = s.haltedQ := rfl
@[simp] theorem wr_gates (p : Nat) (f : FieldSpec) (ix : List Nat) (v : Nat) : (s.wr p f ix v).gates = s.gates := rfl
@[simp] theorem wr_tags (p : Nat) (f : FieldSpec) (ix : List Nat) (v : Nat) : (s.wr p f ix v).tags = s.tags := rfl
@[simp] theorem wr_hostLines (p : Nat) (f : FieldSpec) (ix : List Nat) (v : Nat) : (s.wr p f ix v).hostLines = s.hostLines := rfl
@[simp] theorem wr_faultAt (p : Nat) (f : FieldSpec) (ix : List Nat) (v : Nat) : (s.wr p f ix v).faultAt = s.faultAt := rfl
@[simp] theorem wr_hiLatch (p : Nat) (f : FieldSpec) (ix : List Nat) (v : Nat) : (s.wr p f ix v).hiLatch = s.hiLatch := rfl
@[simp] theorem wr_outWord (p : Nat) (f : FieldSpec) (ix : List Nat) (v : Nat) : (s.wr p f ix v).outWord = s.outWord := rfl
@[simp] theorem wr_outLine (p : Nat) (f : FieldSpec) (ix : List Nat) (v : Nat) : (s.wr p f ix v).outLine = s.outLine := rfl
@[simp] theorem wr_outPoison (p : Nat) (f : FieldSpec) (ix : List Nat) (v : Nat) : (s.wr p f ix v).outPoison = s.outPoison := rfl
@[simp] theorem wr_ports (p : Nat) (f : FieldSpec) (ix : List Nat) (v : Nat) : (s.wr p f ix v).ports = s.ports := rfl
@[simp] theorem wr_rxStreams (p : Nat) (f : FieldSpec) (ix : List Nat) (v : Nat) : (s.wr p f ix v).rxStreams = s.rxStreams := rfl
@[simp] theorem wr_rxWait (p : Nat) (f : FieldSpec) (ix : List Nat) (v : Nat) : (s.wr p f ix v).rxWait = s.rxWait := rfl
@[simp] theorem wr_workqs (p : Nat) (f : FieldSpec) (ix : List Nat) (v : Nat) : (s.wr p f ix v).workqs = s.workqs := rfl
@[simp] theorem wr_barriers (p : Nat) (f : FieldSpec) (ix : List Nat) (v : Nat) : (s.wr p f ix v).barriers = s.barriers := rfl
@[simp] theorem wr_batches (p : Nat) (f : FieldSpec) (ix : List Nat) (v : Nat) : (s.wr p f ix v).batches = s.batches := rfl
@[simp] theorem wr_chans (p : Nat) (f : FieldSpec) (ix : List Nat) (v : Nat) : (s.wr p f ix v).chans = s.chans := rfl
@[simp] theorem wr_ingestRx (p : Nat) (f : FieldSpec) (ix : List Nat) (v : Nat) : (s.wr p f ix v).ingestRx = s.ingestRx := rfl
@[simp] theorem wr_netOut (p : Nat) (f : FieldSpec) (ix : List Nat) (v : Nat) : (s.wr p f ix v).netOut = s.netOut := rfl
@[simp] theorem wr_wharfTag (p : Nat) (f : FieldSpec) (ix : List Nat) (v : Nat) : (s.wr p f ix v).wharfTag = s.wharfTag := rfl
@[simp] theorem wr_entropyAt (p : Nat) (f : FieldSpec) (ix : List Nat) (v : Nat) : (s.wr p f ix v).entropyAt = s.entropyAt := rfl
@[simp] theorem wr_sluice (p : Nat) (f : FieldSpec) (ix : List Nat) (v : Nat) : (s.wr p f ix v).sluice = s.sluice := rfl
@[simp] theorem wr_sluiceEv (p : Nat) (f : FieldSpec) (ix : List Nat) (v : Nat) : (s.wr p f ix v).sluiceEv = s.sluiceEv := rfl
@[simp] theorem wr_trace (p : Nat) (f : FieldSpec) (ix : List Nat) (v : Nat) : (s.wr p f ix v).trace = s.trace := rfl
@[simp] theorem wr_traceSeq (p : Nat) (f : FieldSpec) (ix : List Nat) (v : Nat) : (s.wr p f ix v).traceSeq = s.traceSeq := rfl
@[simp] theorem wr_towpath (p : Nat) (f : FieldSpec) (ix : List Nat) (v : Nat) : (s.wr p f ix v).towpath = s.towpath := rfl
@[simp] theorem wr_snapTrig (p : Nat) (f : FieldSpec) (ix : List Nat) (v : Nat) : (s.wr p f ix v).snapTrig = s.snapTrig := rfl
@[simp] theorem wr_freeze (p : Nat) (f : FieldSpec) (ix : List Nat) (v : Nat) : (s.wr p f ix v).freeze = s.freeze := rfl
@[simp] theorem wr_snaps (p : Nat) (f : FieldSpec) (ix : List Nat) (v : Nat) : (s.wr p f ix v).snaps = s.snaps := rfl
@[simp] theorem wr_stPuts (p : Nat) (f : FieldSpec) (ix : List Nat) (v : Nat) : (s.wr p f ix v).stPuts = s.stPuts := rfl
@[simp] theorem wr_stSent (p : Nat) (f : FieldSpec) (ix : List Nat) (v : Nat) : (s.wr p f ix v).stSent = s.stSent := rfl
@[simp] theorem wr_sends (p : Nat) (f : FieldSpec) (ix : List Nat) (v : Nat) : (s.wr p f ix v).sends = s.sends := rfl
@[simp] theorem wr_commit (p : Nat) (f : FieldSpec) (ix : List Nat) (v : Nat) : (s.wr p f ix v).commit = s.commit := rfl
@[simp] theorem wr_moves (p : Nat) (f : FieldSpec) (ix : List Nat) (v : Nat) : (s.wr p f ix v).moves = s.moves := rfl
@[simp] theorem wr_repairs (p : Nat) (f : FieldSpec) (ix : List Nat) (v : Nat) : (s.wr p f ix v).repairs = s.repairs := rfl
@[simp] theorem wr_badSpares (p : Nat) (f : FieldSpec) (ix : List Nat) (v : Nat) : (s.wr p f ix v).badSpares = s.badSpares := rfl
@[simp] theorem wr_sounded (p : Nat) (f : FieldSpec) (ix : List Nat) (v : Nat) : (s.wr p f ix v).sounded = s.sounded := rfl
@[simp] theorem wr_soundOk (p : Nat) (f : FieldSpec) (ix : List Nat) (v : Nat) : (s.wr p f ix v).soundOk = s.soundOk := rfl
@[simp] theorem wr_shadowRow (p : Nat) (f : FieldSpec) (ix : List Nat) (v : Nat) : (s.wr p f ix v).shadowRow = s.shadowRow := rfl
@[simp] theorem wr_loads (p : Nat) (f : FieldSpec) (ix : List Nat) (v : Nat) : (s.wr p f ix v).loads = s.loads := rfl
@[simp] theorem wr_imaged (p : Nat) (f : FieldSpec) (ix : List Nat) (v : Nat) : (s.wr p f ix v).imaged = s.imaged := rfl
@[simp] theorem wr_gather (p : Nat) (f : FieldSpec) (ix : List Nat) (v : Nat) : (s.wr p f ix v).gather = s.gather := rfl
@[simp] theorem wr_fuses (p : Nat) (f : FieldSpec) (ix : List Nat) (v : Nat) : (s.wr p f ix v).fuses = s.fuses := rfl
@[simp] theorem wr_flash (p : Nat) (f : FieldSpec) (ix : List Nat) (v : Nat) : (s.wr p f ix v).flash = s.flash := rfl
@[simp] theorem wr_running (p : Nat) (f : FieldSpec) (ix : List Nat) (v : Nat) : (s.wr p f ix v).running = s.running := rfl
@[simp] theorem wr_recovery (p : Nat) (f : FieldSpec) (ix : List Nat) (v : Nat) : (s.wr p f ix v).recovery = s.recovery := rfl
@[simp] theorem wr_heldDies (p : Nat) (f : FieldSpec) (ix : List Nat) (v : Nat) : (s.wr p f ix v).heldDies = s.heldDies := rfl
@[simp] theorem wr_power (p : Nat) (f : FieldSpec) (ix : List Nat) (v : Nat) : (s.wr p f ix v).power = s.power := rfl
@[simp] theorem wr_throttle (p : Nat) (f : FieldSpec) (ix : List Nat) (v : Nat) : (s.wr p f ix v).throttle = s.throttle := rfl
@[simp] theorem wr_wdog (p : Nat) (f : FieldSpec) (ix : List Nat) (v : Nat) : (s.wr p f ix v).wdog = s.wdog := rfl
@[simp] theorem wr_selfTest (p : Nat) (f : FieldSpec) (ix : List Nat) (v : Nat) : (s.wr p f ix v).selfTest = s.selfTest := rfl
@[simp] theorem wr_rbPass (p : Nat) (f : FieldSpec) (ix : List Nat) (v : Nat) : (s.wr p f ix v).rbPass = s.rbPass := rfl
@[simp] theorem wr_spdm (p : Nat) (f : FieldSpec) (ix : List Nat) (v : Nat) : (s.wr p f ix v).spdm = s.spdm := rfl
@[simp] theorem wr_spdmOut (p : Nat) (f : FieldSpec) (ix : List Nat) (v : Nat) : (s.wr p f ix v).spdmOut = s.spdmOut := rfl
@[simp] theorem wr_mfJobs (p : Nat) (f : FieldSpec) (ix : List Nat) (v : Nat) : (s.wr p f ix v).mfJobs = s.mfJobs := rfl
@[simp] theorem wr_ringRecs (p : Nat) (f : FieldSpec) (ix : List Nat) (v : Nat) : (s.wr p f ix v).ringRecs = s.ringRecs := rfl
@[simp] theorem wr_ringHead (p : Nat) (f : FieldSpec) (ix : List Nat) (v : Nat) : (s.wr p f ix v).ringHead = s.ringHead := rfl
@[simp] theorem wr_energy (p : Nat) (f : FieldSpec) (ix : List Nat) (v : Nat) : (s.wr p f ix v).energy = s.energy := rfl
@[simp] theorem wr_ids (p : Nat) (f : FieldSpec) (ix : List Nat) (v : Nat) : (s.wr p f ix v).ids = s.ids := rfl
@[simp] theorem wr_fresh (p : Nat) (f : FieldSpec) (ix : List Nat) (v : Nat) : (s.wr p f ix v).fresh = s.fresh := rfl

/-! poke changes `mem` only. -/

@[simp] theorem poke_pending (us : List (Nat × Byte)) : (s.poke us).pending = s.pending := rfl
@[simp] theorem poke_regs (us : List (Nat × Byte)) : (s.poke us).regs = s.regs := rfl
@[simp] theorem poke_words32 (us : List (Nat × Byte)) : (s.poke us).words32 = s.words32 := rfl
@[simp] theorem poke_pmap (us : List (Nat × Byte)) : (s.poke us).pmap = s.pmap := rfl
@[simp] theorem poke_pmapEff (us : List (Nat × Byte)) : (s.poke us).pmapEff = s.pmapEff := rfl
@[simp] theorem poke_pmapPend (us : List (Nat × Byte)) : (s.poke us).pmapPend = s.pmapPend := rfl
@[simp] theorem poke_engines (us : List (Nat × Byte)) : (s.poke us).engines = s.engines := rfl
@[simp] theorem poke_jobs (us : List (Nat × Byte)) : (s.poke us).jobs = s.jobs := rfl
@[simp] theorem poke_inflight (us : List (Nat × Byte)) : (s.poke us).inflight = s.inflight := rfl
@[simp] theorem poke_reqs (us : List (Nat × Byte)) : (s.poke us).reqs = s.reqs := rfl
@[simp] theorem poke_windows (us : List (Nat × Byte)) : (s.poke us).windows = s.windows := rfl
@[simp] theorem poke_streams (us : List (Nat × Byte)) : (s.poke us).streams = s.streams := rfl
@[simp] theorem poke_meOpened (us : List (Nat × Byte)) : (s.poke us).meOpened = s.meOpened := rfl
@[simp] theorem poke_mvpBuf (us : List (Nat × Byte)) : (s.poke us).mvpBuf = s.mvpBuf := rfl
@[simp] theorem poke_wqueue (us : List (Nat × Byte)) : (s.poke us).wqueue = s.wqueue := rfl
@[simp] theorem poke_zmap (us : List (Nat × Byte)) : (s.poke us).zmap = s.zmap := rfl
@[simp] theorem poke_silt (us : List (Nat × Byte)) : (s.poke us).silt = s.silt := rfl
@[simp] theorem poke_wheel (us : List (Nat × Byte)) : (s.poke us).wheel = s.wheel := rfl
@[simp] theorem poke_sstNow (us : List (Nat × Byte)) : (s.poke us).sstNow = s.sstNow := rfl
@[simp] theorem poke_lpChan (us : List (Nat × Byte)) : (s.poke us).lpChan = s.lpChan := rfl
@[simp] theorem poke_lpBank (us : List (Nat × Byte)) : (s.poke us).lpBank = s.lpBank := rfl
@[simp] theorem poke_lpQueue (us : List (Nat × Byte)) : (s.poke us).lpQueue = s.lpQueue := rfl
@[simp] theorem poke_delivery (us : List (Nat × Byte)) : (s.poke us).delivery = s.delivery := rfl
@[simp] theorem poke_cel (us : List (Nat × Byte)) : (s.poke us).cel = s.cel := rfl
@[simp] theorem poke_hold (us : List (Nat × Byte)) : (s.poke us).hold = s.hold := rfl
@[simp] theorem poke_hotDevs (us : List (Nat × Byte)) : (s.poke us).hotDevs = s.hotDevs := rfl
@[simp] theorem poke_polders (us : List (Nat × Byte)) : (s.poke us).polders = s.polders := rfl
@[simp] theorem poke_hubCmp (us : List (Nat × Byte)) : (s.poke us).hubCmp = s.hubCmp := rfl
@[simp] theorem poke_stalled (us : List (Nat × Byte)) : (s.poke us).stalled = s.stalled := rfl
@[simp] theorem poke_uncopied (us : List (Nat × Byte)) : (s.poke us).uncopied = s.uncopied := rfl
@[simp] theorem poke_hostOut (us : List (Nat × Byte)) : (s.poke us).hostOut = s.hostOut := rfl
@[simp] theorem poke_cxlUp (us : List (Nat × Byte)) : (s.poke us).cxlUp = s.cxlUp := rfl
@[simp] theorem poke_hdm (us : List (Nat × Byte)) : (s.poke us).hdm = s.hdm := rfl
@[simp] theorem poke_frozen (us : List (Nat × Byte)) : (s.poke us).frozen = s.frozen := rfl
@[simp] theorem poke_stagedWritten (us : List (Nat × Byte)) : (s.poke us).stagedWritten = s.stagedWritten := rfl
@[simp] theorem poke_agentWrites (us : List (Nat × Byte)) : (s.poke us).agentWrites = s.agentWrites := rfl
@[simp] theorem poke_landings (us : List (Nat × Byte)) : (s.poke us).landings = s.landings := rfl
@[simp] theorem poke_landingQ (us : List (Nat × Byte)) : (s.poke us).landingQ = s.landingQ := rfl
@[simp] theorem poke_releases (us : List (Nat × Byte)) : (s.poke us).releases = s.releases := rfl
@[simp] theorem poke_landingDone (us : List (Nat × Byte)) : (s.poke us).landingDone = s.landingDone := rfl
@[simp] theorem poke_granted (us : List (Nat × Byte)) : (s.poke us).granted = s.granted := rfl
@[simp] theorem poke_haltedQ (us : List (Nat × Byte)) : (s.poke us).haltedQ = s.haltedQ := rfl
@[simp] theorem poke_gates (us : List (Nat × Byte)) : (s.poke us).gates = s.gates := rfl
@[simp] theorem poke_tags (us : List (Nat × Byte)) : (s.poke us).tags = s.tags := rfl
@[simp] theorem poke_hostLines (us : List (Nat × Byte)) : (s.poke us).hostLines = s.hostLines := rfl
@[simp] theorem poke_faultAt (us : List (Nat × Byte)) : (s.poke us).faultAt = s.faultAt := rfl
@[simp] theorem poke_hiLatch (us : List (Nat × Byte)) : (s.poke us).hiLatch = s.hiLatch := rfl
@[simp] theorem poke_outWord (us : List (Nat × Byte)) : (s.poke us).outWord = s.outWord := rfl
@[simp] theorem poke_outLine (us : List (Nat × Byte)) : (s.poke us).outLine = s.outLine := rfl
@[simp] theorem poke_outPoison (us : List (Nat × Byte)) : (s.poke us).outPoison = s.outPoison := rfl
@[simp] theorem poke_ports (us : List (Nat × Byte)) : (s.poke us).ports = s.ports := rfl
@[simp] theorem poke_rxStreams (us : List (Nat × Byte)) : (s.poke us).rxStreams = s.rxStreams := rfl
@[simp] theorem poke_rxWait (us : List (Nat × Byte)) : (s.poke us).rxWait = s.rxWait := rfl
@[simp] theorem poke_workqs (us : List (Nat × Byte)) : (s.poke us).workqs = s.workqs := rfl
@[simp] theorem poke_barriers (us : List (Nat × Byte)) : (s.poke us).barriers = s.barriers := rfl
@[simp] theorem poke_batches (us : List (Nat × Byte)) : (s.poke us).batches = s.batches := rfl
@[simp] theorem poke_chans (us : List (Nat × Byte)) : (s.poke us).chans = s.chans := rfl
@[simp] theorem poke_ingestRx (us : List (Nat × Byte)) : (s.poke us).ingestRx = s.ingestRx := rfl
@[simp] theorem poke_netOut (us : List (Nat × Byte)) : (s.poke us).netOut = s.netOut := rfl
@[simp] theorem poke_wharfTag (us : List (Nat × Byte)) : (s.poke us).wharfTag = s.wharfTag := rfl
@[simp] theorem poke_entropyAt (us : List (Nat × Byte)) : (s.poke us).entropyAt = s.entropyAt := rfl
@[simp] theorem poke_sluice (us : List (Nat × Byte)) : (s.poke us).sluice = s.sluice := rfl
@[simp] theorem poke_sluiceEv (us : List (Nat × Byte)) : (s.poke us).sluiceEv = s.sluiceEv := rfl
@[simp] theorem poke_trace (us : List (Nat × Byte)) : (s.poke us).trace = s.trace := rfl
@[simp] theorem poke_traceSeq (us : List (Nat × Byte)) : (s.poke us).traceSeq = s.traceSeq := rfl
@[simp] theorem poke_towpath (us : List (Nat × Byte)) : (s.poke us).towpath = s.towpath := rfl
@[simp] theorem poke_snapTrig (us : List (Nat × Byte)) : (s.poke us).snapTrig = s.snapTrig := rfl
@[simp] theorem poke_freeze (us : List (Nat × Byte)) : (s.poke us).freeze = s.freeze := rfl
@[simp] theorem poke_snaps (us : List (Nat × Byte)) : (s.poke us).snaps = s.snaps := rfl
@[simp] theorem poke_stPuts (us : List (Nat × Byte)) : (s.poke us).stPuts = s.stPuts := rfl
@[simp] theorem poke_stSent (us : List (Nat × Byte)) : (s.poke us).stSent = s.stSent := rfl
@[simp] theorem poke_sends (us : List (Nat × Byte)) : (s.poke us).sends = s.sends := rfl
@[simp] theorem poke_commit (us : List (Nat × Byte)) : (s.poke us).commit = s.commit := rfl
@[simp] theorem poke_moves (us : List (Nat × Byte)) : (s.poke us).moves = s.moves := rfl
@[simp] theorem poke_repairs (us : List (Nat × Byte)) : (s.poke us).repairs = s.repairs := rfl
@[simp] theorem poke_badSpares (us : List (Nat × Byte)) : (s.poke us).badSpares = s.badSpares := rfl
@[simp] theorem poke_sounded (us : List (Nat × Byte)) : (s.poke us).sounded = s.sounded := rfl
@[simp] theorem poke_soundOk (us : List (Nat × Byte)) : (s.poke us).soundOk = s.soundOk := rfl
@[simp] theorem poke_shadowRow (us : List (Nat × Byte)) : (s.poke us).shadowRow = s.shadowRow := rfl
@[simp] theorem poke_loads (us : List (Nat × Byte)) : (s.poke us).loads = s.loads := rfl
@[simp] theorem poke_imaged (us : List (Nat × Byte)) : (s.poke us).imaged = s.imaged := rfl
@[simp] theorem poke_gather (us : List (Nat × Byte)) : (s.poke us).gather = s.gather := rfl
@[simp] theorem poke_fuses (us : List (Nat × Byte)) : (s.poke us).fuses = s.fuses := rfl
@[simp] theorem poke_flash (us : List (Nat × Byte)) : (s.poke us).flash = s.flash := rfl
@[simp] theorem poke_running (us : List (Nat × Byte)) : (s.poke us).running = s.running := rfl
@[simp] theorem poke_recovery (us : List (Nat × Byte)) : (s.poke us).recovery = s.recovery := rfl
@[simp] theorem poke_heldDies (us : List (Nat × Byte)) : (s.poke us).heldDies = s.heldDies := rfl
@[simp] theorem poke_power (us : List (Nat × Byte)) : (s.poke us).power = s.power := rfl
@[simp] theorem poke_throttle (us : List (Nat × Byte)) : (s.poke us).throttle = s.throttle := rfl
@[simp] theorem poke_wdog (us : List (Nat × Byte)) : (s.poke us).wdog = s.wdog := rfl
@[simp] theorem poke_selfTest (us : List (Nat × Byte)) : (s.poke us).selfTest = s.selfTest := rfl
@[simp] theorem poke_rbPass (us : List (Nat × Byte)) : (s.poke us).rbPass = s.rbPass := rfl
@[simp] theorem poke_spdm (us : List (Nat × Byte)) : (s.poke us).spdm = s.spdm := rfl
@[simp] theorem poke_spdmOut (us : List (Nat × Byte)) : (s.poke us).spdmOut = s.spdmOut := rfl
@[simp] theorem poke_mfJobs (us : List (Nat × Byte)) : (s.poke us).mfJobs = s.mfJobs := rfl
@[simp] theorem poke_ringRecs (us : List (Nat × Byte)) : (s.poke us).ringRecs = s.ringRecs := rfl
@[simp] theorem poke_ringHead (us : List (Nat × Byte)) : (s.poke us).ringHead = s.ringHead := rfl
@[simp] theorem poke_energy (us : List (Nat × Byte)) : (s.poke us).energy = s.energy := rfl
@[simp] theorem poke_ids (us : List (Nat × Byte)) : (s.poke us).ids = s.ids := rfl
@[simp] theorem poke_fresh (us : List (Nat × Byte)) : (s.poke us).fresh = s.fresh := rfl

/-! setPolder changes `polders` only. -/

@[simp] theorem setPolder_pending (p : Nat) (x : Polder) : (s.setPolder p x).pending = s.pending := rfl
@[simp] theorem setPolder_regs (p : Nat) (x : Polder) : (s.setPolder p x).regs = s.regs := rfl
@[simp] theorem setPolder_mem (p : Nat) (x : Polder) : (s.setPolder p x).mem = s.mem := rfl
@[simp] theorem setPolder_words32 (p : Nat) (x : Polder) : (s.setPolder p x).words32 = s.words32 := rfl
@[simp] theorem setPolder_pmap (p : Nat) (x : Polder) : (s.setPolder p x).pmap = s.pmap := rfl
@[simp] theorem setPolder_pmapEff (p : Nat) (x : Polder) : (s.setPolder p x).pmapEff = s.pmapEff := rfl
@[simp] theorem setPolder_pmapPend (p : Nat) (x : Polder) : (s.setPolder p x).pmapPend = s.pmapPend := rfl
@[simp] theorem setPolder_engines (p : Nat) (x : Polder) : (s.setPolder p x).engines = s.engines := rfl
@[simp] theorem setPolder_jobs (p : Nat) (x : Polder) : (s.setPolder p x).jobs = s.jobs := rfl
@[simp] theorem setPolder_inflight (p : Nat) (x : Polder) : (s.setPolder p x).inflight = s.inflight := rfl
@[simp] theorem setPolder_reqs (p : Nat) (x : Polder) : (s.setPolder p x).reqs = s.reqs := rfl
@[simp] theorem setPolder_windows (p : Nat) (x : Polder) : (s.setPolder p x).windows = s.windows := rfl
@[simp] theorem setPolder_streams (p : Nat) (x : Polder) : (s.setPolder p x).streams = s.streams := rfl
@[simp] theorem setPolder_meOpened (p : Nat) (x : Polder) : (s.setPolder p x).meOpened = s.meOpened := rfl
@[simp] theorem setPolder_mvpBuf (p : Nat) (x : Polder) : (s.setPolder p x).mvpBuf = s.mvpBuf := rfl
@[simp] theorem setPolder_wqueue (p : Nat) (x : Polder) : (s.setPolder p x).wqueue = s.wqueue := rfl
@[simp] theorem setPolder_zmap (p : Nat) (x : Polder) : (s.setPolder p x).zmap = s.zmap := rfl
@[simp] theorem setPolder_silt (p : Nat) (x : Polder) : (s.setPolder p x).silt = s.silt := rfl
@[simp] theorem setPolder_wheel (p : Nat) (x : Polder) : (s.setPolder p x).wheel = s.wheel := rfl
@[simp] theorem setPolder_sstNow (p : Nat) (x : Polder) : (s.setPolder p x).sstNow = s.sstNow := rfl
@[simp] theorem setPolder_lpChan (p : Nat) (x : Polder) : (s.setPolder p x).lpChan = s.lpChan := rfl
@[simp] theorem setPolder_lpBank (p : Nat) (x : Polder) : (s.setPolder p x).lpBank = s.lpBank := rfl
@[simp] theorem setPolder_lpQueue (p : Nat) (x : Polder) : (s.setPolder p x).lpQueue = s.lpQueue := rfl
@[simp] theorem setPolder_delivery (p : Nat) (x : Polder) : (s.setPolder p x).delivery = s.delivery := rfl
@[simp] theorem setPolder_cel (p : Nat) (x : Polder) : (s.setPolder p x).cel = s.cel := rfl
@[simp] theorem setPolder_hold (p : Nat) (x : Polder) : (s.setPolder p x).hold = s.hold := rfl
@[simp] theorem setPolder_hotDevs (p : Nat) (x : Polder) : (s.setPolder p x).hotDevs = s.hotDevs := rfl
@[simp] theorem setPolder_hubCmp (p : Nat) (x : Polder) : (s.setPolder p x).hubCmp = s.hubCmp := rfl
@[simp] theorem setPolder_stalled (p : Nat) (x : Polder) : (s.setPolder p x).stalled = s.stalled := rfl
@[simp] theorem setPolder_uncopied (p : Nat) (x : Polder) : (s.setPolder p x).uncopied = s.uncopied := rfl
@[simp] theorem setPolder_hostOut (p : Nat) (x : Polder) : (s.setPolder p x).hostOut = s.hostOut := rfl
@[simp] theorem setPolder_cxlUp (p : Nat) (x : Polder) : (s.setPolder p x).cxlUp = s.cxlUp := rfl
@[simp] theorem setPolder_hdm (p : Nat) (x : Polder) : (s.setPolder p x).hdm = s.hdm := rfl
@[simp] theorem setPolder_frozen (p : Nat) (x : Polder) : (s.setPolder p x).frozen = s.frozen := rfl
@[simp] theorem setPolder_stagedWritten (p : Nat) (x : Polder) : (s.setPolder p x).stagedWritten = s.stagedWritten := rfl
@[simp] theorem setPolder_agentWrites (p : Nat) (x : Polder) : (s.setPolder p x).agentWrites = s.agentWrites := rfl
@[simp] theorem setPolder_landings (p : Nat) (x : Polder) : (s.setPolder p x).landings = s.landings := rfl
@[simp] theorem setPolder_landingQ (p : Nat) (x : Polder) : (s.setPolder p x).landingQ = s.landingQ := rfl
@[simp] theorem setPolder_releases (p : Nat) (x : Polder) : (s.setPolder p x).releases = s.releases := rfl
@[simp] theorem setPolder_landingDone (p : Nat) (x : Polder) : (s.setPolder p x).landingDone = s.landingDone := rfl
@[simp] theorem setPolder_granted (p : Nat) (x : Polder) : (s.setPolder p x).granted = s.granted := rfl
@[simp] theorem setPolder_haltedQ (p : Nat) (x : Polder) : (s.setPolder p x).haltedQ = s.haltedQ := rfl
@[simp] theorem setPolder_gates (p : Nat) (x : Polder) : (s.setPolder p x).gates = s.gates := rfl
@[simp] theorem setPolder_tags (p : Nat) (x : Polder) : (s.setPolder p x).tags = s.tags := rfl
@[simp] theorem setPolder_hostLines (p : Nat) (x : Polder) : (s.setPolder p x).hostLines = s.hostLines := rfl
@[simp] theorem setPolder_faultAt (p : Nat) (x : Polder) : (s.setPolder p x).faultAt = s.faultAt := rfl
@[simp] theorem setPolder_hiLatch (p : Nat) (x : Polder) : (s.setPolder p x).hiLatch = s.hiLatch := rfl
@[simp] theorem setPolder_outWord (p : Nat) (x : Polder) : (s.setPolder p x).outWord = s.outWord := rfl
@[simp] theorem setPolder_outLine (p : Nat) (x : Polder) : (s.setPolder p x).outLine = s.outLine := rfl
@[simp] theorem setPolder_outPoison (p : Nat) (x : Polder) : (s.setPolder p x).outPoison = s.outPoison := rfl
@[simp] theorem setPolder_ports (p : Nat) (x : Polder) : (s.setPolder p x).ports = s.ports := rfl
@[simp] theorem setPolder_rxStreams (p : Nat) (x : Polder) : (s.setPolder p x).rxStreams = s.rxStreams := rfl
@[simp] theorem setPolder_rxWait (p : Nat) (x : Polder) : (s.setPolder p x).rxWait = s.rxWait := rfl
@[simp] theorem setPolder_workqs (p : Nat) (x : Polder) : (s.setPolder p x).workqs = s.workqs := rfl
@[simp] theorem setPolder_barriers (p : Nat) (x : Polder) : (s.setPolder p x).barriers = s.barriers := rfl
@[simp] theorem setPolder_batches (p : Nat) (x : Polder) : (s.setPolder p x).batches = s.batches := rfl
@[simp] theorem setPolder_chans (p : Nat) (x : Polder) : (s.setPolder p x).chans = s.chans := rfl
@[simp] theorem setPolder_ingestRx (p : Nat) (x : Polder) : (s.setPolder p x).ingestRx = s.ingestRx := rfl
@[simp] theorem setPolder_netOut (p : Nat) (x : Polder) : (s.setPolder p x).netOut = s.netOut := rfl
@[simp] theorem setPolder_wharfTag (p : Nat) (x : Polder) : (s.setPolder p x).wharfTag = s.wharfTag := rfl
@[simp] theorem setPolder_entropyAt (p : Nat) (x : Polder) : (s.setPolder p x).entropyAt = s.entropyAt := rfl
@[simp] theorem setPolder_sluice (p : Nat) (x : Polder) : (s.setPolder p x).sluice = s.sluice := rfl
@[simp] theorem setPolder_sluiceEv (p : Nat) (x : Polder) : (s.setPolder p x).sluiceEv = s.sluiceEv := rfl
@[simp] theorem setPolder_trace (p : Nat) (x : Polder) : (s.setPolder p x).trace = s.trace := rfl
@[simp] theorem setPolder_traceSeq (p : Nat) (x : Polder) : (s.setPolder p x).traceSeq = s.traceSeq := rfl
@[simp] theorem setPolder_towpath (p : Nat) (x : Polder) : (s.setPolder p x).towpath = s.towpath := rfl
@[simp] theorem setPolder_snapTrig (p : Nat) (x : Polder) : (s.setPolder p x).snapTrig = s.snapTrig := rfl
@[simp] theorem setPolder_freeze (p : Nat) (x : Polder) : (s.setPolder p x).freeze = s.freeze := rfl
@[simp] theorem setPolder_snaps (p : Nat) (x : Polder) : (s.setPolder p x).snaps = s.snaps := rfl
@[simp] theorem setPolder_stPuts (p : Nat) (x : Polder) : (s.setPolder p x).stPuts = s.stPuts := rfl
@[simp] theorem setPolder_stSent (p : Nat) (x : Polder) : (s.setPolder p x).stSent = s.stSent := rfl
@[simp] theorem setPolder_sends (p : Nat) (x : Polder) : (s.setPolder p x).sends = s.sends := rfl
@[simp] theorem setPolder_commit (p : Nat) (x : Polder) : (s.setPolder p x).commit = s.commit := rfl
@[simp] theorem setPolder_moves (p : Nat) (x : Polder) : (s.setPolder p x).moves = s.moves := rfl
@[simp] theorem setPolder_repairs (p : Nat) (x : Polder) : (s.setPolder p x).repairs = s.repairs := rfl
@[simp] theorem setPolder_badSpares (p : Nat) (x : Polder) : (s.setPolder p x).badSpares = s.badSpares := rfl
@[simp] theorem setPolder_sounded (p : Nat) (x : Polder) : (s.setPolder p x).sounded = s.sounded := rfl
@[simp] theorem setPolder_soundOk (p : Nat) (x : Polder) : (s.setPolder p x).soundOk = s.soundOk := rfl
@[simp] theorem setPolder_shadowRow (p : Nat) (x : Polder) : (s.setPolder p x).shadowRow = s.shadowRow := rfl
@[simp] theorem setPolder_loads (p : Nat) (x : Polder) : (s.setPolder p x).loads = s.loads := rfl
@[simp] theorem setPolder_imaged (p : Nat) (x : Polder) : (s.setPolder p x).imaged = s.imaged := rfl
@[simp] theorem setPolder_gather (p : Nat) (x : Polder) : (s.setPolder p x).gather = s.gather := rfl
@[simp] theorem setPolder_fuses (p : Nat) (x : Polder) : (s.setPolder p x).fuses = s.fuses := rfl
@[simp] theorem setPolder_flash (p : Nat) (x : Polder) : (s.setPolder p x).flash = s.flash := rfl
@[simp] theorem setPolder_running (p : Nat) (x : Polder) : (s.setPolder p x).running = s.running := rfl
@[simp] theorem setPolder_recovery (p : Nat) (x : Polder) : (s.setPolder p x).recovery = s.recovery := rfl
@[simp] theorem setPolder_heldDies (p : Nat) (x : Polder) : (s.setPolder p x).heldDies = s.heldDies := rfl
@[simp] theorem setPolder_power (p : Nat) (x : Polder) : (s.setPolder p x).power = s.power := rfl
@[simp] theorem setPolder_throttle (p : Nat) (x : Polder) : (s.setPolder p x).throttle = s.throttle := rfl
@[simp] theorem setPolder_wdog (p : Nat) (x : Polder) : (s.setPolder p x).wdog = s.wdog := rfl
@[simp] theorem setPolder_selfTest (p : Nat) (x : Polder) : (s.setPolder p x).selfTest = s.selfTest := rfl
@[simp] theorem setPolder_rbPass (p : Nat) (x : Polder) : (s.setPolder p x).rbPass = s.rbPass := rfl
@[simp] theorem setPolder_spdm (p : Nat) (x : Polder) : (s.setPolder p x).spdm = s.spdm := rfl
@[simp] theorem setPolder_spdmOut (p : Nat) (x : Polder) : (s.setPolder p x).spdmOut = s.spdmOut := rfl
@[simp] theorem setPolder_mfJobs (p : Nat) (x : Polder) : (s.setPolder p x).mfJobs = s.mfJobs := rfl
@[simp] theorem setPolder_ringRecs (p : Nat) (x : Polder) : (s.setPolder p x).ringRecs = s.ringRecs := rfl
@[simp] theorem setPolder_ringHead (p : Nat) (x : Polder) : (s.setPolder p x).ringHead = s.ringHead := rfl
@[simp] theorem setPolder_energy (p : Nat) (x : Polder) : (s.setPolder p x).energy = s.energy := rfl
@[simp] theorem setPolder_ids (p : Nat) (x : Polder) : (s.setPolder p x).ids = s.ids := rfl
@[simp] theorem setPolder_fresh (p : Nat) (x : Polder) : (s.setPolder p x).fresh = s.fresh := rfl

/-! setWords32 changes `words32` only. -/

@[simp] theorem setWords32_pending (us : List (Nat × Word)) : (s.setWords32 us).pending = s.pending := rfl
@[simp] theorem setWords32_regs (us : List (Nat × Word)) : (s.setWords32 us).regs = s.regs := rfl
@[simp] theorem setWords32_mem (us : List (Nat × Word)) : (s.setWords32 us).mem = s.mem := rfl
@[simp] theorem setWords32_pmap (us : List (Nat × Word)) : (s.setWords32 us).pmap = s.pmap := rfl
@[simp] theorem setWords32_pmapEff (us : List (Nat × Word)) : (s.setWords32 us).pmapEff = s.pmapEff := rfl
@[simp] theorem setWords32_pmapPend (us : List (Nat × Word)) : (s.setWords32 us).pmapPend = s.pmapPend := rfl
@[simp] theorem setWords32_engines (us : List (Nat × Word)) : (s.setWords32 us).engines = s.engines := rfl
@[simp] theorem setWords32_jobs (us : List (Nat × Word)) : (s.setWords32 us).jobs = s.jobs := rfl
@[simp] theorem setWords32_inflight (us : List (Nat × Word)) : (s.setWords32 us).inflight = s.inflight := rfl
@[simp] theorem setWords32_reqs (us : List (Nat × Word)) : (s.setWords32 us).reqs = s.reqs := rfl
@[simp] theorem setWords32_windows (us : List (Nat × Word)) : (s.setWords32 us).windows = s.windows := rfl
@[simp] theorem setWords32_streams (us : List (Nat × Word)) : (s.setWords32 us).streams = s.streams := rfl
@[simp] theorem setWords32_meOpened (us : List (Nat × Word)) : (s.setWords32 us).meOpened = s.meOpened := rfl
@[simp] theorem setWords32_mvpBuf (us : List (Nat × Word)) : (s.setWords32 us).mvpBuf = s.mvpBuf := rfl
@[simp] theorem setWords32_wqueue (us : List (Nat × Word)) : (s.setWords32 us).wqueue = s.wqueue := rfl
@[simp] theorem setWords32_zmap (us : List (Nat × Word)) : (s.setWords32 us).zmap = s.zmap := rfl
@[simp] theorem setWords32_silt (us : List (Nat × Word)) : (s.setWords32 us).silt = s.silt := rfl
@[simp] theorem setWords32_wheel (us : List (Nat × Word)) : (s.setWords32 us).wheel = s.wheel := rfl
@[simp] theorem setWords32_sstNow (us : List (Nat × Word)) : (s.setWords32 us).sstNow = s.sstNow := rfl
@[simp] theorem setWords32_lpChan (us : List (Nat × Word)) : (s.setWords32 us).lpChan = s.lpChan := rfl
@[simp] theorem setWords32_lpBank (us : List (Nat × Word)) : (s.setWords32 us).lpBank = s.lpBank := rfl
@[simp] theorem setWords32_lpQueue (us : List (Nat × Word)) : (s.setWords32 us).lpQueue = s.lpQueue := rfl
@[simp] theorem setWords32_delivery (us : List (Nat × Word)) : (s.setWords32 us).delivery = s.delivery := rfl
@[simp] theorem setWords32_cel (us : List (Nat × Word)) : (s.setWords32 us).cel = s.cel := rfl
@[simp] theorem setWords32_hold (us : List (Nat × Word)) : (s.setWords32 us).hold = s.hold := rfl
@[simp] theorem setWords32_hotDevs (us : List (Nat × Word)) : (s.setWords32 us).hotDevs = s.hotDevs := rfl
@[simp] theorem setWords32_polders (us : List (Nat × Word)) : (s.setWords32 us).polders = s.polders := rfl
@[simp] theorem setWords32_hubCmp (us : List (Nat × Word)) : (s.setWords32 us).hubCmp = s.hubCmp := rfl
@[simp] theorem setWords32_stalled (us : List (Nat × Word)) : (s.setWords32 us).stalled = s.stalled := rfl
@[simp] theorem setWords32_uncopied (us : List (Nat × Word)) : (s.setWords32 us).uncopied = s.uncopied := rfl
@[simp] theorem setWords32_hostOut (us : List (Nat × Word)) : (s.setWords32 us).hostOut = s.hostOut := rfl
@[simp] theorem setWords32_cxlUp (us : List (Nat × Word)) : (s.setWords32 us).cxlUp = s.cxlUp := rfl
@[simp] theorem setWords32_hdm (us : List (Nat × Word)) : (s.setWords32 us).hdm = s.hdm := rfl
@[simp] theorem setWords32_frozen (us : List (Nat × Word)) : (s.setWords32 us).frozen = s.frozen := rfl
@[simp] theorem setWords32_stagedWritten (us : List (Nat × Word)) : (s.setWords32 us).stagedWritten = s.stagedWritten := rfl
@[simp] theorem setWords32_agentWrites (us : List (Nat × Word)) : (s.setWords32 us).agentWrites = s.agentWrites := rfl
@[simp] theorem setWords32_landings (us : List (Nat × Word)) : (s.setWords32 us).landings = s.landings := rfl
@[simp] theorem setWords32_landingQ (us : List (Nat × Word)) : (s.setWords32 us).landingQ = s.landingQ := rfl
@[simp] theorem setWords32_releases (us : List (Nat × Word)) : (s.setWords32 us).releases = s.releases := rfl
@[simp] theorem setWords32_landingDone (us : List (Nat × Word)) : (s.setWords32 us).landingDone = s.landingDone := rfl
@[simp] theorem setWords32_granted (us : List (Nat × Word)) : (s.setWords32 us).granted = s.granted := rfl
@[simp] theorem setWords32_haltedQ (us : List (Nat × Word)) : (s.setWords32 us).haltedQ = s.haltedQ := rfl
@[simp] theorem setWords32_gates (us : List (Nat × Word)) : (s.setWords32 us).gates = s.gates := rfl
@[simp] theorem setWords32_tags (us : List (Nat × Word)) : (s.setWords32 us).tags = s.tags := rfl
@[simp] theorem setWords32_hostLines (us : List (Nat × Word)) : (s.setWords32 us).hostLines = s.hostLines := rfl
@[simp] theorem setWords32_faultAt (us : List (Nat × Word)) : (s.setWords32 us).faultAt = s.faultAt := rfl
@[simp] theorem setWords32_hiLatch (us : List (Nat × Word)) : (s.setWords32 us).hiLatch = s.hiLatch := rfl
@[simp] theorem setWords32_outWord (us : List (Nat × Word)) : (s.setWords32 us).outWord = s.outWord := rfl
@[simp] theorem setWords32_outLine (us : List (Nat × Word)) : (s.setWords32 us).outLine = s.outLine := rfl
@[simp] theorem setWords32_outPoison (us : List (Nat × Word)) : (s.setWords32 us).outPoison = s.outPoison := rfl
@[simp] theorem setWords32_ports (us : List (Nat × Word)) : (s.setWords32 us).ports = s.ports := rfl
@[simp] theorem setWords32_rxStreams (us : List (Nat × Word)) : (s.setWords32 us).rxStreams = s.rxStreams := rfl
@[simp] theorem setWords32_rxWait (us : List (Nat × Word)) : (s.setWords32 us).rxWait = s.rxWait := rfl
@[simp] theorem setWords32_workqs (us : List (Nat × Word)) : (s.setWords32 us).workqs = s.workqs := rfl
@[simp] theorem setWords32_barriers (us : List (Nat × Word)) : (s.setWords32 us).barriers = s.barriers := rfl
@[simp] theorem setWords32_batches (us : List (Nat × Word)) : (s.setWords32 us).batches = s.batches := rfl
@[simp] theorem setWords32_chans (us : List (Nat × Word)) : (s.setWords32 us).chans = s.chans := rfl
@[simp] theorem setWords32_ingestRx (us : List (Nat × Word)) : (s.setWords32 us).ingestRx = s.ingestRx := rfl
@[simp] theorem setWords32_netOut (us : List (Nat × Word)) : (s.setWords32 us).netOut = s.netOut := rfl
@[simp] theorem setWords32_wharfTag (us : List (Nat × Word)) : (s.setWords32 us).wharfTag = s.wharfTag := rfl
@[simp] theorem setWords32_entropyAt (us : List (Nat × Word)) : (s.setWords32 us).entropyAt = s.entropyAt := rfl
@[simp] theorem setWords32_sluice (us : List (Nat × Word)) : (s.setWords32 us).sluice = s.sluice := rfl
@[simp] theorem setWords32_sluiceEv (us : List (Nat × Word)) : (s.setWords32 us).sluiceEv = s.sluiceEv := rfl
@[simp] theorem setWords32_trace (us : List (Nat × Word)) : (s.setWords32 us).trace = s.trace := rfl
@[simp] theorem setWords32_traceSeq (us : List (Nat × Word)) : (s.setWords32 us).traceSeq = s.traceSeq := rfl
@[simp] theorem setWords32_towpath (us : List (Nat × Word)) : (s.setWords32 us).towpath = s.towpath := rfl
@[simp] theorem setWords32_snapTrig (us : List (Nat × Word)) : (s.setWords32 us).snapTrig = s.snapTrig := rfl
@[simp] theorem setWords32_freeze (us : List (Nat × Word)) : (s.setWords32 us).freeze = s.freeze := rfl
@[simp] theorem setWords32_snaps (us : List (Nat × Word)) : (s.setWords32 us).snaps = s.snaps := rfl
@[simp] theorem setWords32_stPuts (us : List (Nat × Word)) : (s.setWords32 us).stPuts = s.stPuts := rfl
@[simp] theorem setWords32_stSent (us : List (Nat × Word)) : (s.setWords32 us).stSent = s.stSent := rfl
@[simp] theorem setWords32_sends (us : List (Nat × Word)) : (s.setWords32 us).sends = s.sends := rfl
@[simp] theorem setWords32_commit (us : List (Nat × Word)) : (s.setWords32 us).commit = s.commit := rfl
@[simp] theorem setWords32_moves (us : List (Nat × Word)) : (s.setWords32 us).moves = s.moves := rfl
@[simp] theorem setWords32_repairs (us : List (Nat × Word)) : (s.setWords32 us).repairs = s.repairs := rfl
@[simp] theorem setWords32_badSpares (us : List (Nat × Word)) : (s.setWords32 us).badSpares = s.badSpares := rfl
@[simp] theorem setWords32_sounded (us : List (Nat × Word)) : (s.setWords32 us).sounded = s.sounded := rfl
@[simp] theorem setWords32_soundOk (us : List (Nat × Word)) : (s.setWords32 us).soundOk = s.soundOk := rfl
@[simp] theorem setWords32_shadowRow (us : List (Nat × Word)) : (s.setWords32 us).shadowRow = s.shadowRow := rfl
@[simp] theorem setWords32_loads (us : List (Nat × Word)) : (s.setWords32 us).loads = s.loads := rfl
@[simp] theorem setWords32_imaged (us : List (Nat × Word)) : (s.setWords32 us).imaged = s.imaged := rfl
@[simp] theorem setWords32_gather (us : List (Nat × Word)) : (s.setWords32 us).gather = s.gather := rfl
@[simp] theorem setWords32_fuses (us : List (Nat × Word)) : (s.setWords32 us).fuses = s.fuses := rfl
@[simp] theorem setWords32_flash (us : List (Nat × Word)) : (s.setWords32 us).flash = s.flash := rfl
@[simp] theorem setWords32_running (us : List (Nat × Word)) : (s.setWords32 us).running = s.running := rfl
@[simp] theorem setWords32_recovery (us : List (Nat × Word)) : (s.setWords32 us).recovery = s.recovery := rfl
@[simp] theorem setWords32_heldDies (us : List (Nat × Word)) : (s.setWords32 us).heldDies = s.heldDies := rfl
@[simp] theorem setWords32_power (us : List (Nat × Word)) : (s.setWords32 us).power = s.power := rfl
@[simp] theorem setWords32_throttle (us : List (Nat × Word)) : (s.setWords32 us).throttle = s.throttle := rfl
@[simp] theorem setWords32_wdog (us : List (Nat × Word)) : (s.setWords32 us).wdog = s.wdog := rfl
@[simp] theorem setWords32_selfTest (us : List (Nat × Word)) : (s.setWords32 us).selfTest = s.selfTest := rfl
@[simp] theorem setWords32_rbPass (us : List (Nat × Word)) : (s.setWords32 us).rbPass = s.rbPass := rfl
@[simp] theorem setWords32_spdm (us : List (Nat × Word)) : (s.setWords32 us).spdm = s.spdm := rfl
@[simp] theorem setWords32_spdmOut (us : List (Nat × Word)) : (s.setWords32 us).spdmOut = s.spdmOut := rfl
@[simp] theorem setWords32_mfJobs (us : List (Nat × Word)) : (s.setWords32 us).mfJobs = s.mfJobs := rfl
@[simp] theorem setWords32_ringRecs (us : List (Nat × Word)) : (s.setWords32 us).ringRecs = s.ringRecs := rfl
@[simp] theorem setWords32_ringHead (us : List (Nat × Word)) : (s.setWords32 us).ringHead = s.ringHead := rfl
@[simp] theorem setWords32_energy (us : List (Nat × Word)) : (s.setWords32 us).energy = s.energy := rfl
@[simp] theorem setWords32_ids (us : List (Nat × Word)) : (s.setWords32 us).ids = s.ids := rfl
@[simp] theorem setWords32_fresh (us : List (Nat × Word)) : (s.setWords32 us).fresh = s.fresh := rfl

/-! setEngine changes `engines` only. -/

@[simp] theorem setEngine_pending (k : Nat) (x : Engine) : (s.setEngine k x).pending = s.pending := rfl
@[simp] theorem setEngine_regs (k : Nat) (x : Engine) : (s.setEngine k x).regs = s.regs := rfl
@[simp] theorem setEngine_mem (k : Nat) (x : Engine) : (s.setEngine k x).mem = s.mem := rfl
@[simp] theorem setEngine_words32 (k : Nat) (x : Engine) : (s.setEngine k x).words32 = s.words32 := rfl
@[simp] theorem setEngine_pmap (k : Nat) (x : Engine) : (s.setEngine k x).pmap = s.pmap := rfl
@[simp] theorem setEngine_pmapEff (k : Nat) (x : Engine) : (s.setEngine k x).pmapEff = s.pmapEff := rfl
@[simp] theorem setEngine_pmapPend (k : Nat) (x : Engine) : (s.setEngine k x).pmapPend = s.pmapPend := rfl
@[simp] theorem setEngine_jobs (k : Nat) (x : Engine) : (s.setEngine k x).jobs = s.jobs := rfl
@[simp] theorem setEngine_inflight (k : Nat) (x : Engine) : (s.setEngine k x).inflight = s.inflight := rfl
@[simp] theorem setEngine_reqs (k : Nat) (x : Engine) : (s.setEngine k x).reqs = s.reqs := rfl
@[simp] theorem setEngine_windows (k : Nat) (x : Engine) : (s.setEngine k x).windows = s.windows := rfl
@[simp] theorem setEngine_streams (k : Nat) (x : Engine) : (s.setEngine k x).streams = s.streams := rfl
@[simp] theorem setEngine_meOpened (k : Nat) (x : Engine) : (s.setEngine k x).meOpened = s.meOpened := rfl
@[simp] theorem setEngine_mvpBuf (k : Nat) (x : Engine) : (s.setEngine k x).mvpBuf = s.mvpBuf := rfl
@[simp] theorem setEngine_wqueue (k : Nat) (x : Engine) : (s.setEngine k x).wqueue = s.wqueue := rfl
@[simp] theorem setEngine_zmap (k : Nat) (x : Engine) : (s.setEngine k x).zmap = s.zmap := rfl
@[simp] theorem setEngine_silt (k : Nat) (x : Engine) : (s.setEngine k x).silt = s.silt := rfl
@[simp] theorem setEngine_wheel (k : Nat) (x : Engine) : (s.setEngine k x).wheel = s.wheel := rfl
@[simp] theorem setEngine_sstNow (k : Nat) (x : Engine) : (s.setEngine k x).sstNow = s.sstNow := rfl
@[simp] theorem setEngine_lpChan (k : Nat) (x : Engine) : (s.setEngine k x).lpChan = s.lpChan := rfl
@[simp] theorem setEngine_lpBank (k : Nat) (x : Engine) : (s.setEngine k x).lpBank = s.lpBank := rfl
@[simp] theorem setEngine_lpQueue (k : Nat) (x : Engine) : (s.setEngine k x).lpQueue = s.lpQueue := rfl
@[simp] theorem setEngine_delivery (k : Nat) (x : Engine) : (s.setEngine k x).delivery = s.delivery := rfl
@[simp] theorem setEngine_cel (k : Nat) (x : Engine) : (s.setEngine k x).cel = s.cel := rfl
@[simp] theorem setEngine_hold (k : Nat) (x : Engine) : (s.setEngine k x).hold = s.hold := rfl
@[simp] theorem setEngine_hotDevs (k : Nat) (x : Engine) : (s.setEngine k x).hotDevs = s.hotDevs := rfl
@[simp] theorem setEngine_polders (k : Nat) (x : Engine) : (s.setEngine k x).polders = s.polders := rfl
@[simp] theorem setEngine_hubCmp (k : Nat) (x : Engine) : (s.setEngine k x).hubCmp = s.hubCmp := rfl
@[simp] theorem setEngine_stalled (k : Nat) (x : Engine) : (s.setEngine k x).stalled = s.stalled := rfl
@[simp] theorem setEngine_uncopied (k : Nat) (x : Engine) : (s.setEngine k x).uncopied = s.uncopied := rfl
@[simp] theorem setEngine_hostOut (k : Nat) (x : Engine) : (s.setEngine k x).hostOut = s.hostOut := rfl
@[simp] theorem setEngine_cxlUp (k : Nat) (x : Engine) : (s.setEngine k x).cxlUp = s.cxlUp := rfl
@[simp] theorem setEngine_hdm (k : Nat) (x : Engine) : (s.setEngine k x).hdm = s.hdm := rfl
@[simp] theorem setEngine_frozen (k : Nat) (x : Engine) : (s.setEngine k x).frozen = s.frozen := rfl
@[simp] theorem setEngine_stagedWritten (k : Nat) (x : Engine) : (s.setEngine k x).stagedWritten = s.stagedWritten := rfl
@[simp] theorem setEngine_agentWrites (k : Nat) (x : Engine) : (s.setEngine k x).agentWrites = s.agentWrites := rfl
@[simp] theorem setEngine_landings (k : Nat) (x : Engine) : (s.setEngine k x).landings = s.landings := rfl
@[simp] theorem setEngine_landingQ (k : Nat) (x : Engine) : (s.setEngine k x).landingQ = s.landingQ := rfl
@[simp] theorem setEngine_releases (k : Nat) (x : Engine) : (s.setEngine k x).releases = s.releases := rfl
@[simp] theorem setEngine_landingDone (k : Nat) (x : Engine) : (s.setEngine k x).landingDone = s.landingDone := rfl
@[simp] theorem setEngine_granted (k : Nat) (x : Engine) : (s.setEngine k x).granted = s.granted := rfl
@[simp] theorem setEngine_haltedQ (k : Nat) (x : Engine) : (s.setEngine k x).haltedQ = s.haltedQ := rfl
@[simp] theorem setEngine_gates (k : Nat) (x : Engine) : (s.setEngine k x).gates = s.gates := rfl
@[simp] theorem setEngine_tags (k : Nat) (x : Engine) : (s.setEngine k x).tags = s.tags := rfl
@[simp] theorem setEngine_hostLines (k : Nat) (x : Engine) : (s.setEngine k x).hostLines = s.hostLines := rfl
@[simp] theorem setEngine_faultAt (k : Nat) (x : Engine) : (s.setEngine k x).faultAt = s.faultAt := rfl
@[simp] theorem setEngine_hiLatch (k : Nat) (x : Engine) : (s.setEngine k x).hiLatch = s.hiLatch := rfl
@[simp] theorem setEngine_outWord (k : Nat) (x : Engine) : (s.setEngine k x).outWord = s.outWord := rfl
@[simp] theorem setEngine_outLine (k : Nat) (x : Engine) : (s.setEngine k x).outLine = s.outLine := rfl
@[simp] theorem setEngine_outPoison (k : Nat) (x : Engine) : (s.setEngine k x).outPoison = s.outPoison := rfl
@[simp] theorem setEngine_ports (k : Nat) (x : Engine) : (s.setEngine k x).ports = s.ports := rfl
@[simp] theorem setEngine_rxStreams (k : Nat) (x : Engine) : (s.setEngine k x).rxStreams = s.rxStreams := rfl
@[simp] theorem setEngine_rxWait (k : Nat) (x : Engine) : (s.setEngine k x).rxWait = s.rxWait := rfl
@[simp] theorem setEngine_workqs (k : Nat) (x : Engine) : (s.setEngine k x).workqs = s.workqs := rfl
@[simp] theorem setEngine_barriers (k : Nat) (x : Engine) : (s.setEngine k x).barriers = s.barriers := rfl
@[simp] theorem setEngine_batches (k : Nat) (x : Engine) : (s.setEngine k x).batches = s.batches := rfl
@[simp] theorem setEngine_chans (k : Nat) (x : Engine) : (s.setEngine k x).chans = s.chans := rfl
@[simp] theorem setEngine_ingestRx (k : Nat) (x : Engine) : (s.setEngine k x).ingestRx = s.ingestRx := rfl
@[simp] theorem setEngine_netOut (k : Nat) (x : Engine) : (s.setEngine k x).netOut = s.netOut := rfl
@[simp] theorem setEngine_wharfTag (k : Nat) (x : Engine) : (s.setEngine k x).wharfTag = s.wharfTag := rfl
@[simp] theorem setEngine_entropyAt (k : Nat) (x : Engine) : (s.setEngine k x).entropyAt = s.entropyAt := rfl
@[simp] theorem setEngine_sluice (k : Nat) (x : Engine) : (s.setEngine k x).sluice = s.sluice := rfl
@[simp] theorem setEngine_sluiceEv (k : Nat) (x : Engine) : (s.setEngine k x).sluiceEv = s.sluiceEv := rfl
@[simp] theorem setEngine_trace (k : Nat) (x : Engine) : (s.setEngine k x).trace = s.trace := rfl
@[simp] theorem setEngine_traceSeq (k : Nat) (x : Engine) : (s.setEngine k x).traceSeq = s.traceSeq := rfl
@[simp] theorem setEngine_towpath (k : Nat) (x : Engine) : (s.setEngine k x).towpath = s.towpath := rfl
@[simp] theorem setEngine_snapTrig (k : Nat) (x : Engine) : (s.setEngine k x).snapTrig = s.snapTrig := rfl
@[simp] theorem setEngine_freeze (k : Nat) (x : Engine) : (s.setEngine k x).freeze = s.freeze := rfl
@[simp] theorem setEngine_snaps (k : Nat) (x : Engine) : (s.setEngine k x).snaps = s.snaps := rfl
@[simp] theorem setEngine_stPuts (k : Nat) (x : Engine) : (s.setEngine k x).stPuts = s.stPuts := rfl
@[simp] theorem setEngine_stSent (k : Nat) (x : Engine) : (s.setEngine k x).stSent = s.stSent := rfl
@[simp] theorem setEngine_sends (k : Nat) (x : Engine) : (s.setEngine k x).sends = s.sends := rfl
@[simp] theorem setEngine_commit (k : Nat) (x : Engine) : (s.setEngine k x).commit = s.commit := rfl
@[simp] theorem setEngine_moves (k : Nat) (x : Engine) : (s.setEngine k x).moves = s.moves := rfl
@[simp] theorem setEngine_repairs (k : Nat) (x : Engine) : (s.setEngine k x).repairs = s.repairs := rfl
@[simp] theorem setEngine_badSpares (k : Nat) (x : Engine) : (s.setEngine k x).badSpares = s.badSpares := rfl
@[simp] theorem setEngine_sounded (k : Nat) (x : Engine) : (s.setEngine k x).sounded = s.sounded := rfl
@[simp] theorem setEngine_soundOk (k : Nat) (x : Engine) : (s.setEngine k x).soundOk = s.soundOk := rfl
@[simp] theorem setEngine_shadowRow (k : Nat) (x : Engine) : (s.setEngine k x).shadowRow = s.shadowRow := rfl
@[simp] theorem setEngine_loads (k : Nat) (x : Engine) : (s.setEngine k x).loads = s.loads := rfl
@[simp] theorem setEngine_imaged (k : Nat) (x : Engine) : (s.setEngine k x).imaged = s.imaged := rfl
@[simp] theorem setEngine_gather (k : Nat) (x : Engine) : (s.setEngine k x).gather = s.gather := rfl
@[simp] theorem setEngine_fuses (k : Nat) (x : Engine) : (s.setEngine k x).fuses = s.fuses := rfl
@[simp] theorem setEngine_flash (k : Nat) (x : Engine) : (s.setEngine k x).flash = s.flash := rfl
@[simp] theorem setEngine_running (k : Nat) (x : Engine) : (s.setEngine k x).running = s.running := rfl
@[simp] theorem setEngine_recovery (k : Nat) (x : Engine) : (s.setEngine k x).recovery = s.recovery := rfl
@[simp] theorem setEngine_heldDies (k : Nat) (x : Engine) : (s.setEngine k x).heldDies = s.heldDies := rfl
@[simp] theorem setEngine_power (k : Nat) (x : Engine) : (s.setEngine k x).power = s.power := rfl
@[simp] theorem setEngine_throttle (k : Nat) (x : Engine) : (s.setEngine k x).throttle = s.throttle := rfl
@[simp] theorem setEngine_wdog (k : Nat) (x : Engine) : (s.setEngine k x).wdog = s.wdog := rfl
@[simp] theorem setEngine_selfTest (k : Nat) (x : Engine) : (s.setEngine k x).selfTest = s.selfTest := rfl
@[simp] theorem setEngine_rbPass (k : Nat) (x : Engine) : (s.setEngine k x).rbPass = s.rbPass := rfl
@[simp] theorem setEngine_spdm (k : Nat) (x : Engine) : (s.setEngine k x).spdm = s.spdm := rfl
@[simp] theorem setEngine_spdmOut (k : Nat) (x : Engine) : (s.setEngine k x).spdmOut = s.spdmOut := rfl
@[simp] theorem setEngine_mfJobs (k : Nat) (x : Engine) : (s.setEngine k x).mfJobs = s.mfJobs := rfl
@[simp] theorem setEngine_ringRecs (k : Nat) (x : Engine) : (s.setEngine k x).ringRecs = s.ringRecs := rfl
@[simp] theorem setEngine_ringHead (k : Nat) (x : Engine) : (s.setEngine k x).ringHead = s.ringHead := rfl
@[simp] theorem setEngine_energy (k : Nat) (x : Engine) : (s.setEngine k x).energy = s.energy := rfl
@[simp] theorem setEngine_ids (k : Nat) (x : Engine) : (s.setEngine k x).ids = s.ids := rfl
@[simp] theorem setEngine_fresh (k : Nat) (x : Engine) : (s.setEngine k x).fresh = s.fresh := rfl

/-! setStream changes `streams` only. -/

@[simp] theorem setStream_pending (c n : Nat) (x : Stream) : (s.setStream c n x).pending = s.pending := rfl
@[simp] theorem setStream_regs (c n : Nat) (x : Stream) : (s.setStream c n x).regs = s.regs := rfl
@[simp] theorem setStream_mem (c n : Nat) (x : Stream) : (s.setStream c n x).mem = s.mem := rfl
@[simp] theorem setStream_words32 (c n : Nat) (x : Stream) : (s.setStream c n x).words32 = s.words32 := rfl
@[simp] theorem setStream_pmap (c n : Nat) (x : Stream) : (s.setStream c n x).pmap = s.pmap := rfl
@[simp] theorem setStream_pmapEff (c n : Nat) (x : Stream) : (s.setStream c n x).pmapEff = s.pmapEff := rfl
@[simp] theorem setStream_pmapPend (c n : Nat) (x : Stream) : (s.setStream c n x).pmapPend = s.pmapPend := rfl
@[simp] theorem setStream_engines (c n : Nat) (x : Stream) : (s.setStream c n x).engines = s.engines := rfl
@[simp] theorem setStream_jobs (c n : Nat) (x : Stream) : (s.setStream c n x).jobs = s.jobs := rfl
@[simp] theorem setStream_inflight (c n : Nat) (x : Stream) : (s.setStream c n x).inflight = s.inflight := rfl
@[simp] theorem setStream_reqs (c n : Nat) (x : Stream) : (s.setStream c n x).reqs = s.reqs := rfl
@[simp] theorem setStream_windows (c n : Nat) (x : Stream) : (s.setStream c n x).windows = s.windows := rfl
@[simp] theorem setStream_meOpened (c n : Nat) (x : Stream) : (s.setStream c n x).meOpened = s.meOpened := rfl
@[simp] theorem setStream_mvpBuf (c n : Nat) (x : Stream) : (s.setStream c n x).mvpBuf = s.mvpBuf := rfl
@[simp] theorem setStream_wqueue (c n : Nat) (x : Stream) : (s.setStream c n x).wqueue = s.wqueue := rfl
@[simp] theorem setStream_zmap (c n : Nat) (x : Stream) : (s.setStream c n x).zmap = s.zmap := rfl
@[simp] theorem setStream_silt (c n : Nat) (x : Stream) : (s.setStream c n x).silt = s.silt := rfl
@[simp] theorem setStream_wheel (c n : Nat) (x : Stream) : (s.setStream c n x).wheel = s.wheel := rfl
@[simp] theorem setStream_sstNow (c n : Nat) (x : Stream) : (s.setStream c n x).sstNow = s.sstNow := rfl
@[simp] theorem setStream_lpChan (c n : Nat) (x : Stream) : (s.setStream c n x).lpChan = s.lpChan := rfl
@[simp] theorem setStream_lpBank (c n : Nat) (x : Stream) : (s.setStream c n x).lpBank = s.lpBank := rfl
@[simp] theorem setStream_lpQueue (c n : Nat) (x : Stream) : (s.setStream c n x).lpQueue = s.lpQueue := rfl
@[simp] theorem setStream_delivery (c n : Nat) (x : Stream) : (s.setStream c n x).delivery = s.delivery := rfl
@[simp] theorem setStream_cel (c n : Nat) (x : Stream) : (s.setStream c n x).cel = s.cel := rfl
@[simp] theorem setStream_hold (c n : Nat) (x : Stream) : (s.setStream c n x).hold = s.hold := rfl
@[simp] theorem setStream_hotDevs (c n : Nat) (x : Stream) : (s.setStream c n x).hotDevs = s.hotDevs := rfl
@[simp] theorem setStream_polders (c n : Nat) (x : Stream) : (s.setStream c n x).polders = s.polders := rfl
@[simp] theorem setStream_hubCmp (c n : Nat) (x : Stream) : (s.setStream c n x).hubCmp = s.hubCmp := rfl
@[simp] theorem setStream_stalled (c n : Nat) (x : Stream) : (s.setStream c n x).stalled = s.stalled := rfl
@[simp] theorem setStream_uncopied (c n : Nat) (x : Stream) : (s.setStream c n x).uncopied = s.uncopied := rfl
@[simp] theorem setStream_hostOut (c n : Nat) (x : Stream) : (s.setStream c n x).hostOut = s.hostOut := rfl
@[simp] theorem setStream_cxlUp (c n : Nat) (x : Stream) : (s.setStream c n x).cxlUp = s.cxlUp := rfl
@[simp] theorem setStream_hdm (c n : Nat) (x : Stream) : (s.setStream c n x).hdm = s.hdm := rfl
@[simp] theorem setStream_frozen (c n : Nat) (x : Stream) : (s.setStream c n x).frozen = s.frozen := rfl
@[simp] theorem setStream_stagedWritten (c n : Nat) (x : Stream) : (s.setStream c n x).stagedWritten = s.stagedWritten := rfl
@[simp] theorem setStream_agentWrites (c n : Nat) (x : Stream) : (s.setStream c n x).agentWrites = s.agentWrites := rfl
@[simp] theorem setStream_landings (c n : Nat) (x : Stream) : (s.setStream c n x).landings = s.landings := rfl
@[simp] theorem setStream_landingQ (c n : Nat) (x : Stream) : (s.setStream c n x).landingQ = s.landingQ := rfl
@[simp] theorem setStream_releases (c n : Nat) (x : Stream) : (s.setStream c n x).releases = s.releases := rfl
@[simp] theorem setStream_landingDone (c n : Nat) (x : Stream) : (s.setStream c n x).landingDone = s.landingDone := rfl
@[simp] theorem setStream_granted (c n : Nat) (x : Stream) : (s.setStream c n x).granted = s.granted := rfl
@[simp] theorem setStream_haltedQ (c n : Nat) (x : Stream) : (s.setStream c n x).haltedQ = s.haltedQ := rfl
@[simp] theorem setStream_gates (c n : Nat) (x : Stream) : (s.setStream c n x).gates = s.gates := rfl
@[simp] theorem setStream_tags (c n : Nat) (x : Stream) : (s.setStream c n x).tags = s.tags := rfl
@[simp] theorem setStream_hostLines (c n : Nat) (x : Stream) : (s.setStream c n x).hostLines = s.hostLines := rfl
@[simp] theorem setStream_faultAt (c n : Nat) (x : Stream) : (s.setStream c n x).faultAt = s.faultAt := rfl
@[simp] theorem setStream_hiLatch (c n : Nat) (x : Stream) : (s.setStream c n x).hiLatch = s.hiLatch := rfl
@[simp] theorem setStream_outWord (c n : Nat) (x : Stream) : (s.setStream c n x).outWord = s.outWord := rfl
@[simp] theorem setStream_outLine (c n : Nat) (x : Stream) : (s.setStream c n x).outLine = s.outLine := rfl
@[simp] theorem setStream_outPoison (c n : Nat) (x : Stream) : (s.setStream c n x).outPoison = s.outPoison := rfl
@[simp] theorem setStream_ports (c n : Nat) (x : Stream) : (s.setStream c n x).ports = s.ports := rfl
@[simp] theorem setStream_rxStreams (c n : Nat) (x : Stream) : (s.setStream c n x).rxStreams = s.rxStreams := rfl
@[simp] theorem setStream_rxWait (c n : Nat) (x : Stream) : (s.setStream c n x).rxWait = s.rxWait := rfl
@[simp] theorem setStream_workqs (c n : Nat) (x : Stream) : (s.setStream c n x).workqs = s.workqs := rfl
@[simp] theorem setStream_barriers (c n : Nat) (x : Stream) : (s.setStream c n x).barriers = s.barriers := rfl
@[simp] theorem setStream_batches (c n : Nat) (x : Stream) : (s.setStream c n x).batches = s.batches := rfl
@[simp] theorem setStream_chans (c n : Nat) (x : Stream) : (s.setStream c n x).chans = s.chans := rfl
@[simp] theorem setStream_ingestRx (c n : Nat) (x : Stream) : (s.setStream c n x).ingestRx = s.ingestRx := rfl
@[simp] theorem setStream_netOut (c n : Nat) (x : Stream) : (s.setStream c n x).netOut = s.netOut := rfl
@[simp] theorem setStream_wharfTag (c n : Nat) (x : Stream) : (s.setStream c n x).wharfTag = s.wharfTag := rfl
@[simp] theorem setStream_entropyAt (c n : Nat) (x : Stream) : (s.setStream c n x).entropyAt = s.entropyAt := rfl
@[simp] theorem setStream_sluice (c n : Nat) (x : Stream) : (s.setStream c n x).sluice = s.sluice := rfl
@[simp] theorem setStream_sluiceEv (c n : Nat) (x : Stream) : (s.setStream c n x).sluiceEv = s.sluiceEv := rfl
@[simp] theorem setStream_trace (c n : Nat) (x : Stream) : (s.setStream c n x).trace = s.trace := rfl
@[simp] theorem setStream_traceSeq (c n : Nat) (x : Stream) : (s.setStream c n x).traceSeq = s.traceSeq := rfl
@[simp] theorem setStream_towpath (c n : Nat) (x : Stream) : (s.setStream c n x).towpath = s.towpath := rfl
@[simp] theorem setStream_snapTrig (c n : Nat) (x : Stream) : (s.setStream c n x).snapTrig = s.snapTrig := rfl
@[simp] theorem setStream_freeze (c n : Nat) (x : Stream) : (s.setStream c n x).freeze = s.freeze := rfl
@[simp] theorem setStream_snaps (c n : Nat) (x : Stream) : (s.setStream c n x).snaps = s.snaps := rfl
@[simp] theorem setStream_stPuts (c n : Nat) (x : Stream) : (s.setStream c n x).stPuts = s.stPuts := rfl
@[simp] theorem setStream_stSent (c n : Nat) (x : Stream) : (s.setStream c n x).stSent = s.stSent := rfl
@[simp] theorem setStream_sends (c n : Nat) (x : Stream) : (s.setStream c n x).sends = s.sends := rfl
@[simp] theorem setStream_commit (c n : Nat) (x : Stream) : (s.setStream c n x).commit = s.commit := rfl
@[simp] theorem setStream_moves (c n : Nat) (x : Stream) : (s.setStream c n x).moves = s.moves := rfl
@[simp] theorem setStream_repairs (c n : Nat) (x : Stream) : (s.setStream c n x).repairs = s.repairs := rfl
@[simp] theorem setStream_badSpares (c n : Nat) (x : Stream) : (s.setStream c n x).badSpares = s.badSpares := rfl
@[simp] theorem setStream_sounded (c n : Nat) (x : Stream) : (s.setStream c n x).sounded = s.sounded := rfl
@[simp] theorem setStream_soundOk (c n : Nat) (x : Stream) : (s.setStream c n x).soundOk = s.soundOk := rfl
@[simp] theorem setStream_shadowRow (c n : Nat) (x : Stream) : (s.setStream c n x).shadowRow = s.shadowRow := rfl
@[simp] theorem setStream_loads (c n : Nat) (x : Stream) : (s.setStream c n x).loads = s.loads := rfl
@[simp] theorem setStream_imaged (c n : Nat) (x : Stream) : (s.setStream c n x).imaged = s.imaged := rfl
@[simp] theorem setStream_gather (c n : Nat) (x : Stream) : (s.setStream c n x).gather = s.gather := rfl
@[simp] theorem setStream_fuses (c n : Nat) (x : Stream) : (s.setStream c n x).fuses = s.fuses := rfl
@[simp] theorem setStream_flash (c n : Nat) (x : Stream) : (s.setStream c n x).flash = s.flash := rfl
@[simp] theorem setStream_running (c n : Nat) (x : Stream) : (s.setStream c n x).running = s.running := rfl
@[simp] theorem setStream_recovery (c n : Nat) (x : Stream) : (s.setStream c n x).recovery = s.recovery := rfl
@[simp] theorem setStream_heldDies (c n : Nat) (x : Stream) : (s.setStream c n x).heldDies = s.heldDies := rfl
@[simp] theorem setStream_power (c n : Nat) (x : Stream) : (s.setStream c n x).power = s.power := rfl
@[simp] theorem setStream_throttle (c n : Nat) (x : Stream) : (s.setStream c n x).throttle = s.throttle := rfl
@[simp] theorem setStream_wdog (c n : Nat) (x : Stream) : (s.setStream c n x).wdog = s.wdog := rfl
@[simp] theorem setStream_selfTest (c n : Nat) (x : Stream) : (s.setStream c n x).selfTest = s.selfTest := rfl
@[simp] theorem setStream_rbPass (c n : Nat) (x : Stream) : (s.setStream c n x).rbPass = s.rbPass := rfl
@[simp] theorem setStream_spdm (c n : Nat) (x : Stream) : (s.setStream c n x).spdm = s.spdm := rfl
@[simp] theorem setStream_spdmOut (c n : Nat) (x : Stream) : (s.setStream c n x).spdmOut = s.spdmOut := rfl
@[simp] theorem setStream_mfJobs (c n : Nat) (x : Stream) : (s.setStream c n x).mfJobs = s.mfJobs := rfl
@[simp] theorem setStream_ringRecs (c n : Nat) (x : Stream) : (s.setStream c n x).ringRecs = s.ringRecs := rfl
@[simp] theorem setStream_ringHead (c n : Nat) (x : Stream) : (s.setStream c n x).ringHead = s.ringHead := rfl
@[simp] theorem setStream_energy (c n : Nat) (x : Stream) : (s.setStream c n x).energy = s.energy := rfl
@[simp] theorem setStream_ids (c n : Nat) (x : Stream) : (s.setStream c n x).ids = s.ids := rfl
@[simp] theorem setStream_fresh (c n : Nat) (x : Stream) : (s.setStream c n x).fresh = s.fresh := rfl

/-! setLanding changes `landings` only. -/

@[simp] theorem setLanding_pending (n : Nat) (x : Landing) : (s.setLanding n x).pending = s.pending := rfl
@[simp] theorem setLanding_regs (n : Nat) (x : Landing) : (s.setLanding n x).regs = s.regs := rfl
@[simp] theorem setLanding_mem (n : Nat) (x : Landing) : (s.setLanding n x).mem = s.mem := rfl
@[simp] theorem setLanding_words32 (n : Nat) (x : Landing) : (s.setLanding n x).words32 = s.words32 := rfl
@[simp] theorem setLanding_pmap (n : Nat) (x : Landing) : (s.setLanding n x).pmap = s.pmap := rfl
@[simp] theorem setLanding_pmapEff (n : Nat) (x : Landing) : (s.setLanding n x).pmapEff = s.pmapEff := rfl
@[simp] theorem setLanding_pmapPend (n : Nat) (x : Landing) : (s.setLanding n x).pmapPend = s.pmapPend := rfl
@[simp] theorem setLanding_engines (n : Nat) (x : Landing) : (s.setLanding n x).engines = s.engines := rfl
@[simp] theorem setLanding_jobs (n : Nat) (x : Landing) : (s.setLanding n x).jobs = s.jobs := rfl
@[simp] theorem setLanding_inflight (n : Nat) (x : Landing) : (s.setLanding n x).inflight = s.inflight := rfl
@[simp] theorem setLanding_reqs (n : Nat) (x : Landing) : (s.setLanding n x).reqs = s.reqs := rfl
@[simp] theorem setLanding_windows (n : Nat) (x : Landing) : (s.setLanding n x).windows = s.windows := rfl
@[simp] theorem setLanding_streams (n : Nat) (x : Landing) : (s.setLanding n x).streams = s.streams := rfl
@[simp] theorem setLanding_meOpened (n : Nat) (x : Landing) : (s.setLanding n x).meOpened = s.meOpened := rfl
@[simp] theorem setLanding_mvpBuf (n : Nat) (x : Landing) : (s.setLanding n x).mvpBuf = s.mvpBuf := rfl
@[simp] theorem setLanding_wqueue (n : Nat) (x : Landing) : (s.setLanding n x).wqueue = s.wqueue := rfl
@[simp] theorem setLanding_zmap (n : Nat) (x : Landing) : (s.setLanding n x).zmap = s.zmap := rfl
@[simp] theorem setLanding_silt (n : Nat) (x : Landing) : (s.setLanding n x).silt = s.silt := rfl
@[simp] theorem setLanding_wheel (n : Nat) (x : Landing) : (s.setLanding n x).wheel = s.wheel := rfl
@[simp] theorem setLanding_sstNow (n : Nat) (x : Landing) : (s.setLanding n x).sstNow = s.sstNow := rfl
@[simp] theorem setLanding_lpChan (n : Nat) (x : Landing) : (s.setLanding n x).lpChan = s.lpChan := rfl
@[simp] theorem setLanding_lpBank (n : Nat) (x : Landing) : (s.setLanding n x).lpBank = s.lpBank := rfl
@[simp] theorem setLanding_lpQueue (n : Nat) (x : Landing) : (s.setLanding n x).lpQueue = s.lpQueue := rfl
@[simp] theorem setLanding_delivery (n : Nat) (x : Landing) : (s.setLanding n x).delivery = s.delivery := rfl
@[simp] theorem setLanding_cel (n : Nat) (x : Landing) : (s.setLanding n x).cel = s.cel := rfl
@[simp] theorem setLanding_hold (n : Nat) (x : Landing) : (s.setLanding n x).hold = s.hold := rfl
@[simp] theorem setLanding_hotDevs (n : Nat) (x : Landing) : (s.setLanding n x).hotDevs = s.hotDevs := rfl
@[simp] theorem setLanding_polders (n : Nat) (x : Landing) : (s.setLanding n x).polders = s.polders := rfl
@[simp] theorem setLanding_hubCmp (n : Nat) (x : Landing) : (s.setLanding n x).hubCmp = s.hubCmp := rfl
@[simp] theorem setLanding_stalled (n : Nat) (x : Landing) : (s.setLanding n x).stalled = s.stalled := rfl
@[simp] theorem setLanding_uncopied (n : Nat) (x : Landing) : (s.setLanding n x).uncopied = s.uncopied := rfl
@[simp] theorem setLanding_hostOut (n : Nat) (x : Landing) : (s.setLanding n x).hostOut = s.hostOut := rfl
@[simp] theorem setLanding_cxlUp (n : Nat) (x : Landing) : (s.setLanding n x).cxlUp = s.cxlUp := rfl
@[simp] theorem setLanding_hdm (n : Nat) (x : Landing) : (s.setLanding n x).hdm = s.hdm := rfl
@[simp] theorem setLanding_frozen (n : Nat) (x : Landing) : (s.setLanding n x).frozen = s.frozen := rfl
@[simp] theorem setLanding_stagedWritten (n : Nat) (x : Landing) : (s.setLanding n x).stagedWritten = s.stagedWritten := rfl
@[simp] theorem setLanding_agentWrites (n : Nat) (x : Landing) : (s.setLanding n x).agentWrites = s.agentWrites := rfl
@[simp] theorem setLanding_landingQ (n : Nat) (x : Landing) : (s.setLanding n x).landingQ = s.landingQ := rfl
@[simp] theorem setLanding_releases (n : Nat) (x : Landing) : (s.setLanding n x).releases = s.releases := rfl
@[simp] theorem setLanding_landingDone (n : Nat) (x : Landing) : (s.setLanding n x).landingDone = s.landingDone := rfl
@[simp] theorem setLanding_granted (n : Nat) (x : Landing) : (s.setLanding n x).granted = s.granted := rfl
@[simp] theorem setLanding_haltedQ (n : Nat) (x : Landing) : (s.setLanding n x).haltedQ = s.haltedQ := rfl
@[simp] theorem setLanding_gates (n : Nat) (x : Landing) : (s.setLanding n x).gates = s.gates := rfl
@[simp] theorem setLanding_tags (n : Nat) (x : Landing) : (s.setLanding n x).tags = s.tags := rfl
@[simp] theorem setLanding_hostLines (n : Nat) (x : Landing) : (s.setLanding n x).hostLines = s.hostLines := rfl
@[simp] theorem setLanding_faultAt (n : Nat) (x : Landing) : (s.setLanding n x).faultAt = s.faultAt := rfl
@[simp] theorem setLanding_hiLatch (n : Nat) (x : Landing) : (s.setLanding n x).hiLatch = s.hiLatch := rfl
@[simp] theorem setLanding_outWord (n : Nat) (x : Landing) : (s.setLanding n x).outWord = s.outWord := rfl
@[simp] theorem setLanding_outLine (n : Nat) (x : Landing) : (s.setLanding n x).outLine = s.outLine := rfl
@[simp] theorem setLanding_outPoison (n : Nat) (x : Landing) : (s.setLanding n x).outPoison = s.outPoison := rfl
@[simp] theorem setLanding_ports (n : Nat) (x : Landing) : (s.setLanding n x).ports = s.ports := rfl
@[simp] theorem setLanding_rxStreams (n : Nat) (x : Landing) : (s.setLanding n x).rxStreams = s.rxStreams := rfl
@[simp] theorem setLanding_rxWait (n : Nat) (x : Landing) : (s.setLanding n x).rxWait = s.rxWait := rfl
@[simp] theorem setLanding_workqs (n : Nat) (x : Landing) : (s.setLanding n x).workqs = s.workqs := rfl
@[simp] theorem setLanding_barriers (n : Nat) (x : Landing) : (s.setLanding n x).barriers = s.barriers := rfl
@[simp] theorem setLanding_batches (n : Nat) (x : Landing) : (s.setLanding n x).batches = s.batches := rfl
@[simp] theorem setLanding_chans (n : Nat) (x : Landing) : (s.setLanding n x).chans = s.chans := rfl
@[simp] theorem setLanding_ingestRx (n : Nat) (x : Landing) : (s.setLanding n x).ingestRx = s.ingestRx := rfl
@[simp] theorem setLanding_netOut (n : Nat) (x : Landing) : (s.setLanding n x).netOut = s.netOut := rfl
@[simp] theorem setLanding_wharfTag (n : Nat) (x : Landing) : (s.setLanding n x).wharfTag = s.wharfTag := rfl
@[simp] theorem setLanding_entropyAt (n : Nat) (x : Landing) : (s.setLanding n x).entropyAt = s.entropyAt := rfl
@[simp] theorem setLanding_sluice (n : Nat) (x : Landing) : (s.setLanding n x).sluice = s.sluice := rfl
@[simp] theorem setLanding_sluiceEv (n : Nat) (x : Landing) : (s.setLanding n x).sluiceEv = s.sluiceEv := rfl
@[simp] theorem setLanding_trace (n : Nat) (x : Landing) : (s.setLanding n x).trace = s.trace := rfl
@[simp] theorem setLanding_traceSeq (n : Nat) (x : Landing) : (s.setLanding n x).traceSeq = s.traceSeq := rfl
@[simp] theorem setLanding_towpath (n : Nat) (x : Landing) : (s.setLanding n x).towpath = s.towpath := rfl
@[simp] theorem setLanding_snapTrig (n : Nat) (x : Landing) : (s.setLanding n x).snapTrig = s.snapTrig := rfl
@[simp] theorem setLanding_freeze (n : Nat) (x : Landing) : (s.setLanding n x).freeze = s.freeze := rfl
@[simp] theorem setLanding_snaps (n : Nat) (x : Landing) : (s.setLanding n x).snaps = s.snaps := rfl
@[simp] theorem setLanding_stPuts (n : Nat) (x : Landing) : (s.setLanding n x).stPuts = s.stPuts := rfl
@[simp] theorem setLanding_stSent (n : Nat) (x : Landing) : (s.setLanding n x).stSent = s.stSent := rfl
@[simp] theorem setLanding_sends (n : Nat) (x : Landing) : (s.setLanding n x).sends = s.sends := rfl
@[simp] theorem setLanding_commit (n : Nat) (x : Landing) : (s.setLanding n x).commit = s.commit := rfl
@[simp] theorem setLanding_moves (n : Nat) (x : Landing) : (s.setLanding n x).moves = s.moves := rfl
@[simp] theorem setLanding_repairs (n : Nat) (x : Landing) : (s.setLanding n x).repairs = s.repairs := rfl
@[simp] theorem setLanding_badSpares (n : Nat) (x : Landing) : (s.setLanding n x).badSpares = s.badSpares := rfl
@[simp] theorem setLanding_sounded (n : Nat) (x : Landing) : (s.setLanding n x).sounded = s.sounded := rfl
@[simp] theorem setLanding_soundOk (n : Nat) (x : Landing) : (s.setLanding n x).soundOk = s.soundOk := rfl
@[simp] theorem setLanding_shadowRow (n : Nat) (x : Landing) : (s.setLanding n x).shadowRow = s.shadowRow := rfl
@[simp] theorem setLanding_loads (n : Nat) (x : Landing) : (s.setLanding n x).loads = s.loads := rfl
@[simp] theorem setLanding_imaged (n : Nat) (x : Landing) : (s.setLanding n x).imaged = s.imaged := rfl
@[simp] theorem setLanding_gather (n : Nat) (x : Landing) : (s.setLanding n x).gather = s.gather := rfl
@[simp] theorem setLanding_fuses (n : Nat) (x : Landing) : (s.setLanding n x).fuses = s.fuses := rfl
@[simp] theorem setLanding_flash (n : Nat) (x : Landing) : (s.setLanding n x).flash = s.flash := rfl
@[simp] theorem setLanding_running (n : Nat) (x : Landing) : (s.setLanding n x).running = s.running := rfl
@[simp] theorem setLanding_recovery (n : Nat) (x : Landing) : (s.setLanding n x).recovery = s.recovery := rfl
@[simp] theorem setLanding_heldDies (n : Nat) (x : Landing) : (s.setLanding n x).heldDies = s.heldDies := rfl
@[simp] theorem setLanding_power (n : Nat) (x : Landing) : (s.setLanding n x).power = s.power := rfl
@[simp] theorem setLanding_throttle (n : Nat) (x : Landing) : (s.setLanding n x).throttle = s.throttle := rfl
@[simp] theorem setLanding_wdog (n : Nat) (x : Landing) : (s.setLanding n x).wdog = s.wdog := rfl
@[simp] theorem setLanding_selfTest (n : Nat) (x : Landing) : (s.setLanding n x).selfTest = s.selfTest := rfl
@[simp] theorem setLanding_rbPass (n : Nat) (x : Landing) : (s.setLanding n x).rbPass = s.rbPass := rfl
@[simp] theorem setLanding_spdm (n : Nat) (x : Landing) : (s.setLanding n x).spdm = s.spdm := rfl
@[simp] theorem setLanding_spdmOut (n : Nat) (x : Landing) : (s.setLanding n x).spdmOut = s.spdmOut := rfl
@[simp] theorem setLanding_mfJobs (n : Nat) (x : Landing) : (s.setLanding n x).mfJobs = s.mfJobs := rfl
@[simp] theorem setLanding_ringRecs (n : Nat) (x : Landing) : (s.setLanding n x).ringRecs = s.ringRecs := rfl
@[simp] theorem setLanding_ringHead (n : Nat) (x : Landing) : (s.setLanding n x).ringHead = s.ringHead := rfl
@[simp] theorem setLanding_energy (n : Nat) (x : Landing) : (s.setLanding n x).energy = s.energy := rfl
@[simp] theorem setLanding_ids (n : Nat) (x : Landing) : (s.setLanding n x).ids = s.ids := rfl
@[simp] theorem setLanding_fresh (n : Nat) (x : Landing) : (s.setLanding n x).fresh = s.fresh := rfl

end Sys2Proof.Laws
end

