-- ==== Sys2Proof/Laws/Ops.lean ====
section
/-! SUPPORT. The shared operations: register fields read back as written and leave the others, memory bytes read back as
written and leave the others, and every memory operation keeps the canonical form. -/

namespace Sys2Proof.Laws

open Sys2Proof.Machine

/-! Register words and fields. -/

theorem word_setWord (s : State) (p o p' o' : Nat) (v : Word) :
    (s.setWord p o v).word p' o' = if regKey p' o' = regKey p o then v else s.word p' o' := by
  simp only [State.word, State.setWord, sget_sset]

@[simp] theorem word_setWord_self (s : State) (p o : Nat) (v : Word) : (s.setWord p o v).word p o = v := by
  simp [word_setWord]

/-- Offsets below 0x1000 of different pages, or of different words of one page, are different registers. -/
theorem regKey_inj {p o p' o' : Nat} (h : o < 4096) (h' : o' < 4096) :
    regKey p o = regKey p' o' ↔ p = p' ∧ o / 4 = o' / 4 := by
  unfold regKey
  omega

theorem word_wr_ne (s : State) (p : Nat) (f : FieldSpec) (ix : List Nat) (v p' o' : Nat)
    (h : regKey p' o' ≠ regKey p (f.off ix)) : (s.wr p f ix v).word p' o' = s.word p' o' := by
  simp [State.wr, word_setWord, h]

/-- Bit `i` of a word with a field replaced. -/
theorem getLsbD_putField (w : Word) (f : FieldSpec) (v i : Nat) (hl : f.lo ≤ f.hi) (hi : i < 32) :
    (putField w f v).getLsbD i = if f.lo ≤ i ∧ i ≤ f.hi then v.testBit (i - f.lo) else w.getLsbD i := by
  simp only [putField, FieldSpec.mask, FieldSpec.width, BitVec.getLsbD_or, BitVec.getLsbD_and, BitVec.getLsbD_not,
    BitVec.getLsbD_ofNat, Nat.testBit_mul_two_pow, Nat.testBit_two_pow_sub_one, Nat.testBit_mod_two_pow, hi,
    decide_true, Bool.true_and]
  by_cases h1 : f.lo ≤ i
  · by_cases h2 : i ≤ f.hi
    · have h3 : i - f.lo < f.hi - f.lo + 1 := by omega
      simp [h1, h2, h3]
    · have h3 : ¬ i - f.lo < f.hi - f.lo + 1 := by omega
      simp [h1, h2, h3]
  · simp [h1]

theorem testBit_bits (n hi lo i : Nat) : (bits n hi lo).testBit i = (decide (i < hi - lo + 1) && n.testBit (i + lo)) := by
  simp [bits, Nat.testBit_mod_two_pow, Nat.testBit_div_two_pow]

/-- A field reads back as what was written, as far as it holds it. -/
theorem bits_putField_self (w : Word) (f : FieldSpec) (v : Nat) (hl : f.lo ≤ f.hi) (hh : f.hi < 32) :
    bits (putField w f v).toNat f.hi f.lo = v % 2 ^ f.width := by
  apply Nat.eq_of_testBit_eq
  intro i
  rw [testBit_bits, Nat.testBit_mod_two_pow, FieldSpec.width]
  by_cases h : i < f.hi - f.lo + 1
  · have h1 : i + f.lo < 32 := by omega
    have h2 : f.lo ≤ i + f.lo ∧ i + f.lo ≤ f.hi := by omega
    have := getLsbD_putField w f v (i + f.lo) hl h1
    rw [if_pos h2] at this
    simpa [h, BitVec.getLsbD] using this
  · simp [h]

/-- A field of the same word that does not overlap the written one is unchanged. -/
theorem bits_putField_ne (w : Word) (f g : FieldSpec) (v : Nat) (hl : f.lo ≤ f.hi) (hg : g.hi < 32) (hgl : g.lo ≤ g.hi)
    (h : g.hi < f.lo ∨ f.hi < g.lo) : bits (putField w f v).toNat g.hi g.lo = bits w.toNat g.hi g.lo := by
  apply Nat.eq_of_testBit_eq
  intro i
  rw [testBit_bits, testBit_bits]
  by_cases hi : i < g.hi - g.lo + 1
  · have h1 : i + g.lo < 32 := by omega
    have h2 : ¬ (f.lo ≤ i + g.lo ∧ i + g.lo ≤ f.hi) := by omega
    have := getLsbD_putField w f v (i + g.lo) hl h1
    rw [if_neg h2] at this
    simpa [hi, BitVec.getLsbD] using this
  · simp [hi]

theorem rd_wr_self (s : State) (p : Nat) (f : FieldSpec) (ix : List Nat) (v : Nat) (hl : f.lo ≤ f.hi) (hh : f.hi < 32) :
    (s.wr p f ix v).rd p f ix = v % 2 ^ f.width := by
  simp [State.rd, State.wr, bits_putField_self _ f v hl hh]

/-- A field of another word is unchanged. -/
theorem rd_wr_word_ne (s : State) (p p' : Nat) (f g : FieldSpec) (ix jx : List Nat) (v : Nat)
    (h : regKey p' (g.off jx) ≠ regKey p (f.off ix)) : (s.wr p f ix v).rd p' g jx = s.rd p' g jx := by
  simp [State.rd, word_wr_ne s p f ix v p' _ h]

/-- Another field of the same word is unchanged. -/
theorem rd_wr_field_ne (s : State) (p : Nat) (f g : FieldSpec) (ix jx : List Nat) (v : Nat) (hl : f.lo ≤ f.hi)
    (hg : g.hi < 32) (hgl : g.lo ≤ g.hi) (hd : g.hi < f.lo ∨ f.hi < g.lo) :
    (s.wr p f ix v).rd p g jx = s.rd p g jx := by
  by_cases h : regKey p (g.off jx) = regKey p (f.off ix)
  · have e : s.word p (g.off jx) = s.word p (f.off ix) := by simp only [State.word, h]
    simp [State.rd, State.wr, word_setWord, h, bits_putField_ne _ f g v hl hg hgl hd, e]
  · exact rd_wr_word_ne s p p f g ix jx v h

/-! Memory bytes. -/

theorem peek_poke_ne (s : State) (us : List (Nat × Byte)) (a : Nat) (h : ∀ u ∈ us, u.1 ≠ a) :
    (s.poke us).peek a = s.peek a := by
  simp [State.peek, State.poke, sget_ssetMany_ne memDefault us s.mem a h]

theorem peek_poke_one (s : State) (a b : Nat) (v : Byte) : (s.poke [(a, v)]).peek b = if b = a then v else s.peek b := by
  simp [State.peek, State.poke, ssetMany, sget_sset]

/-! The canonical form of memory. -/

/-- Memory is in canonical form. -/
def MemWf (s : State) : Prop := Memory.wf s.mem = true

theorem memWf_poke (s : State) (us : List (Nat × Byte)) (h : MemWf s) : MemWf (s.poke us) :=
  swf_ssetMany memDefault us s.mem h

theorem memWf_pokeBytes (s : State) (a : Nat) (bs : List (Option Byte)) (h : MemWf s) : MemWf (s.pokeBytes a bs) :=
  memWf_poke s _ h

theorem memWf_setWord (s : State) (p o : Nat) (v : Word) (h : MemWf s) : MemWf (s.setWord p o v) := h

theorem memWf_wr (s : State) (p : Nat) (f : FieldSpec) (ix : List Nat) (v : Nat) (h : MemWf s) :
    MemWf (s.wr p f ix v) := h

theorem memWf_setSideWord (s : State) (a cv : Nat) (b : Bool) (h : MemWf s) : MemWf (s.setSideWord a cv b) := by
  unfold State.setSideWord
  split
  · dsimp only
    split
    · exact memWf_poke _ _ (memWf_poke _ _ h)
    · exact memWf_poke _ _ h
  · exact h

/-- A fold of updates that keep the memory keeps it. -/
theorem mem_foldl {α : Type} (f : State → α → State) (hf : ∀ s x, (f s x).mem = s.mem) (l : List α) (s : State) :
    (l.foldl f s).mem = s.mem := by
  induction l generalizing s with
  | nil => rfl
  | cons x r ih => simp [ih, hf]

@[simp] theorem mem_errReg (s : State) (p : Nat) (e m : FieldSpec) (fs : List (FieldSpec × Nat)) :
    (s.errReg p e m fs).mem = s.mem := by
  unfold State.errReg
  split
  · rfl
  · rw [mem_foldl _ (fun t e => by rfl)]; rfl

@[simp] theorem mem_recordCheck (s : State) (a : Nat) (k : Check) : (s.recordCheck a k).mem = s.mem := by
  unfold State.recordCheck
  dsimp only
  split
  · simp
  · split
    · simp
    · rfl
  · rfl

theorem memWf_writeBlock (s : State) (a : Nat) (bs : List (Option Byte)) (c : Bool) (h : MemWf s) :
    MemWf (s.writeBlock a bs c).1 := by
  unfold State.writeBlock
  dsimp only
  split
  · exact h
  · split
    · exact memWf_setSideWord _ _ _ _ (memWf_pokeBytes s a bs h)
    · split
      · simpa [MemWf] using h
      · exact memWf_setSideWord _ _ _ _ (memWf_pokeBytes s a bs h)

/-- A write of any length to module memory or a pool keeps the canonical form. -/
theorem memWf_writeMem (n : Nat) (s : State) (a : Nat) (bs : List (Option Byte)) (c : Bool) (h : MemWf s) :
    MemWf (s.writeMem a bs c n).1 := by
  induction n generalizing s a bs with
  | zero => exact h
  | succ n ih =>
    unfold State.writeMem
    split
    · exact h
    · dsimp only
      have hr : MemWf (if isModMem a then s.writeBlock a (bs.take (4096 - a % 4096)) c
          else (s.pokeBytes a (bs.take (4096 - a % 4096)), none)).1 := by
        split
        · exact memWf_writeBlock s _ _ _ h
        · exact memWf_pokeBytes s _ _ h
      split
      · exact hr
      · exact ih _ _ _ hr

theorem memWf_reset : MemWf State.reset := rfl

end Sys2Proof.Laws
end

