-- ==== Sys2Proof/Tests/Slice0.lean ====
section
/-! SUPPORT. Tests of the model against the spec's own numbers, terms that well-formedness refuses, and states that meet the
hypotheses of every statement. -/

open Sys2Proof Sys2Proof.Machine

namespace Sys2Proof.Tests

set_option Elab.async false

/-! Well-formedness refuses an ill-formed term of each kind. -/

/-- A crossing of kind `kind` and SEQ `seq` with a payload of 256 zero bytes. -/
def cross (kind : Nat) (seq : Nat := 0) : Crossing :=
  ⟨0, BitVec.ofNat 4 kind, false, 0, 0, BitVec.ofNat 12 seq, 0, 0, List.replicate 256 0, []⟩

def report0 : TestReport := ⟨[], 0, 0, 0, false, 0⟩

theorem test_wf_poolParity : (Instr.veLd 0 (.poolParity 0 34 0 0)).wf = false ∧ (Instr.veLd 0 (.poolParity 0 33 3071 63)).wf = true := by
  decide
theorem test_wf_me : (Instr.mma 0 (.me 3 0 [])).wf = false ∧ (Instr.mma 0 (.me 3 4096 [(63, 63)])).wf = true := by decide
theorem test_wf_ve : (Instr.sel 0 (.ve 0 [(16, 0, 0)])).wf = false ∧ (Instr.sel 0 (.ve 1 [(15, 63, 255)])).wf = true := by decide
theorem test_wf_layout : (Instr.narrow 0 (.layout (2 ^ 24))).wf = false := by decide
theorem test_wf_crossing : (Instr.data 0 { cross 1 with payload := [] }).wf = false ∧ (Instr.data 0 (cross 1)).wf = true := by
  decide +kernel
theorem test_wf_discarded : (Instr.discardedCrossing 0 (.bytes [] [])).wf = false ∧
    (Instr.discardedCrossing 0 (.fec [0, 1])).wf = true := by decide
theorem test_wf_soundUnit : (Instr.soundingCycle (.plain 0 173) true).wf = false ∧
    (Instr.admission 0 [.plain 0 172, .plain 0 173]).wf = false := by decide
theorem test_wf_report : (Instr.shutdown { report0 with rows := 2 ^ 16 }).wf = false ∧ (Instr.shutdown report0).wf = true := by
  decide
theorem test_wf_power : (Instr.throttleEval ⟨0, 0, 0, 256⟩).wf = false ∧ (Instr.throttleEval ⟨65535, 0, 0, 255⟩).wf = true := by
  decide
theorem test_wf_word : (Instr.registerWrite 2 0).wf = false ∧ (Instr.readClear 0 3).wf = false ∧ (Instr.registerWrite 4 0).wf = true := by decide
theorem test_wf_line : (Instr.cxlMemRead 32 .none).wf = false ∧ (Instr.cxlMemWrite (2 ^ 36) 0 0).wf = false ∧
    (Instr.cxlMemRead (2 ^ 36 - 64) .none).wf = true := by decide
theorem test_wf_copy : (Instr.moveComplete 0 [1536]).wf = false := by decide
theorem test_wf_tag : (Instr.rtoExpiry 0 (2 ^ 32)).wf = false := by decide
theorem test_wf_certificate : (Instr.getCertificate .doe (2 ^ 16) 0).wf = false := by decide
theorem test_wf_nonce : (Instr.challenge .doe []).wf = false ∧ (Instr.getMeasurements .doe true []).wf = false := by decide

/-! Numbers that the spec states. -/

/-- R46: the first and the second row of its table. -/
theorem test_srHash : srHash 0x5EDA71C00B4E2291 0xA0F7 0x123 0 = 0xB091D653 ∧
    srHash 0x5EDA71C00B4E2291 0xA0F7 0x123 1 = 0x5F528714 := by decide +kernel

/-- R183: the check value of the nine characters. -/
theorem test_crc32c : crc32c ([0x31, 0x32, 0x33, 0x34, 0x35, 0x36, 0x37, 0x38, 0x39] : List Byte) = 0xE3069283 := by decide +kernel

/-- R240: π for N = 10. -/
theorem test_shuffle : (List.range 10).map (shuffle 0x5EDA71C00B4E2291 3 10) = [6, 3, 8, 7, 1, 9, 5, 4, 0, 2] := by
  decide +kernel

/-- R126: EXP2(3.0) = 8.0 and LOG2(1.0) = +0. -/
theorem test_elementary : rne32 (exp2Val (f32 0x40400000)) = 0x41000000 ∧ rne32 (log2Val (f32 0x3F800000)) = 0 := by
  decide +kernel

/-- The example after R39: 32768 + 3 × 2^−10 rounds to 0x47000001, and R42 stores it as 0x4700. -/
theorem test_mxExample : rne32 ((f32 0x47000000).add (.fin false 3 (-10))) = 0x47000001 ∧
    (Fmt.encode .bf16 (.sr 0xB091D653) false (f32 0x47000001)).1 = 0x4700 := by decide +kernel

/-- R22: MXINT8 0x80 reads as −2.0 and is never written. -/
theorem test_int8 : (Fmt.decode .int8 0x80).same (.fin true 2 0) = true ∧ (Fmt.encode .int8 .rne true (.fin true 9 0)).1 = 0x81 := by
  decide +kernel

theorem wit_ScalesAndMxint8 : (0xFE : Nat) < 0xFF ∧ (0xFF : Nat) < 256 ∧ 127 ≤ roundGrid .rne 9 0 (-6) := by decide +kernel

/-! Small states. -/

/-- The clocks run and the host's link is up. -/
def on : State := { State.reset with wheel := ⟨0, true⟩, cxlUp := true }

/-- Two polders, of which polder 0 runs a step (STATE 3). Core 7 of cluster 0 lies on the spare core; the spare banks of
core 0's pool carry banks 31 and 30. -/
def live : State :=
  { on with
    polders := ⟨false, false, false, true, 0, false, 0, 0, []⟩ :: List.replicate 3 Polder.idle
    regs := [(7232, 1), (65605, 3), (263232, 0x86543210), (278593, 0x1E1F)] }

/-- An instruction from its fields: word, lowest bit, value. -/
def ins (fs : List (Nat × Nat × Nat)) : BitVec 256 := BitVec.ofNat 256 (fs.map fun f => f.2.2 * 2 ^ (32 * f.1 + f.2.1)).sum

/-- Instruction `i` waits at the head of engine `k`. -/
def queued (s : State) (k : Nat) (i : BitVec 256) : State := { s with engines := [(k, ⟨[i], 0, 0, 1⟩)] }

/-- Granules 0 to 31 of core 0's pool are valid, its bytes as listed: byte n of pool offset 64 × k lies at bank k mod
32, row k / 32. -/
def pooled (s : State) (mem : Sparse Byte) : State := { s with regs := s.regs ++ [(278656, 0xFFFFFFFF)], mem := mem }

/-- What a step answers, seen through `f`. -/
def after {α : Type} (o : Host.Outcome State Fault Refusal) (f : State → α) : Option α :=
  match o with
  | .next t => some (f t)
  | _ => none

/-! The queue. -/

theorem test_step_empty : step State.reset = .next State.reset := by rfl

theorem wit_StepRunsFrontCommand : ({ on with pending := [.wdogKick, .cancel] } : State).pending = .wdogKick :: [.cancel] := by rfl

/-! The vector engine. -/

/-- EW ADD of the two immediates, row 0 of tile 3. -/
def addIns : BitVec 256 := ins [(0, 0, 3), (0, 8, 3), (3, 0, 0xC000), (3, 16, 0xC001), (5, 0, 0x3F800000), (6, 0, 0x40000000)]

theorem wit_VeLaneResults : Fires (queued live (veKey 0) addIns) (veKey 0) addIns [] ∧ veFieldsOk addIns = true ∧
    veOpc addIns = 3 ∧ veFunc addIns = 0 ∧ veStruck .none false = false :=
  ⟨⟨by decide +kernel, by decide +kernel, by decide +kernel, by decide +kernel, by decide +kernel⟩, by decide +kernel⟩

/-- R124: 1.0 + 2.0. -/
theorem test_ewAdd : after (exec (.ewAdd 0 .none) (queued live (veKey 0) addIns))
    (fun t => (t.word32 (t.tileKey 0 3 0 63), t.word32 (t.tileKey 0 3 1 0))) = some (0x40400000, 0) := by decide +kernel

/-- RED SUM of two columns of tile 1 to column 0 of tile 3. -/
def redIns : BitVec 256 := ins [(0, 0, 5), (0, 8, 3), (0, 20, 1), (3, 0, 0x0400)]

theorem wit_VeReductionResults : Fires (queued live (veKey 0) redIns) (veKey 0) redIns [] ∧ veFieldsOk redIns = true ∧
    veOpc redIns = 5 ∧ veFunc redIns = 0 ∧ veStruck .none false = false :=
  ⟨⟨by decide +kernel, by decide +kernel, by decide +kernel, by decide +kernel, by decide +kernel⟩, by decide +kernel⟩

/-- VE LD of one BF16 element at pool offset 0x1000 through the descriptor at offset 0. -/
def ldIns : BitVec 256 := ins [(0, 0, 1), (0, 8, 3)]
def ldState : State := queued (pooled live [(0x300000000003, 0x7F), (0x300000000009, 0x01), (0x30000000000B, 0x40),
  (0x30000000000C, 0x10), (0x300000000080, 0x80), (0x300000000081, 0x3F)]) (veKey 0) ldIns

theorem wit_VeLoadFromPool : Fires ldState (veKey 0) ldIns [] ∧ veFieldsOk ldIns = true ∧ veOpc ldIns = 1 ∧
    veStruck .none true = false ∧ ldState.checkDesc 0 (veDesc ldIns) true = none ∧
    (storeDesc (ldState.bytesAt (poolAddr 0 (veDesc ldIns)) 64)).dstk = false ∧
    (∀ a ∈ (storeDesc (ldState.bytesAt (poolAddr 0 (veDesc ldIns)) 64)).touched.lines.map (·.1), ldState.readStop 0 a = none) :=
  ⟨⟨by decide +kernel, by decide +kernel, by decide +kernel, by decide +kernel, by decide +kernel⟩, by decide +kernel⟩

/-- R130: the BF16 1.0 at (0, 0). -/
theorem test_veLd : ((storeDesc (ldState.bytesAt (poolAddr 0 0) 64)).decode (ldState.runKey 0) (ldState.stepNo 0) ldState.byteAt 0 0).1 =
    0x3F800000 := by decide +kernel

/-! Stores and the matrix engine. -/

/-- A store descriptor at pool offset 32 × 64 × `row`: FP32, one element, into the pool at offset 0x1000. -/
def stMem (row : Nat) : Sparse Byte :=
  [(0x300000000000 + 64 * row, 0x08), (0x300000000003 + 64 * row, 0x7F), (0x300000000009 + 64 * row, 0x01),
   (0x30000000000B + 64 * row, 0x40), (0x30000000000C + 64 * row, 0x10)]

/-- VE ST of tile 3. -/
def stoIns : BitVec 256 := ins [(0, 0, 2), (0, 8, 3)]
def stoState : State := queued (pooled live (stMem 0)) (veKey 0) stoIns

theorem wit_VeStoreWritesTile_1 : Fires stoState (veKey 0) stoIns [] ∧ veFieldsOk stoIns = true ∧ veOpc stoIns = 2 ∧
    veStruck .none true = false ∧ stoState.checkDesc 0 (veDesc stoIns) false = none :=
  ⟨⟨by decide +kernel, by decide +kernel, by decide +kernel, by decide +kernel, by decide +kernel⟩, by decide +kernel⟩

def stoDesc : StoreDesc := storeDesc (stoState.bytesAt (poolAddr 0 0) 64)

theorem wit_VeStoreWritesTile_2 :
    let img := stoDesc.image (stoState.runKey 0) (stoState.stepNo 0) fun _ _ => .fin false 1 0
    stoDesc.dstk = false ∧ stoState.uncopied = [] ∧ stoState.stalled = [] ∧ img.data ≠ [] ∧
    (∀ a b, (a, b) ∈ img.data ∨ (a, b) ∈ img.scales → poolAddr 0 0 ≤ a ∧ a < poolAddr 0 poolSize) := by
  have h : let img := stoDesc.image (stoState.runKey 0) (stoState.stepNo 0) fun _ _ => .fin false 1 0
      stoDesc.dstk = false ∧ stoState.uncopied = [] ∧ stoState.stalled = [] ∧ img.data ≠ [] ∧
      (∀ e ∈ img.data ++ img.scales, poolAddr 0 0 ≤ e.1 ∧ e.1 < poolAddr 0 poolSize) := by decide +kernel
  exact ⟨h.1, h.2.1, h.2.2.1, h.2.2.2.1, fun a b e => h.2.2.2.2 (a, b) (List.mem_append.mpr e)⟩

/-- MMA of two BF16 panels of zeros at pool offsets 0 and 0x1000, one group, without and with a drain. -/
def mmaIns (drn : Nat) : BitVec 256 :=
  ins [(0, 0, 1), (0, 7, drn), (3, 17, 0x100 * drn), (5, 17, 0x7F), (6, 0, 0x40), (6, 17, 0x7F), (7, 0, 1)]
def mmaState (drn : Nat) : State := queued (pooled live (stMem 32)) (meKey 0) (mmaIns drn)

theorem wit_MmaRunsGroups : ∀ drn ∈ [0, 1],
    let s := mmaState drn
    let i := mmaIns drn
    let desc := if meDrn i then s.bytesAt (poolAddr 0 (meSdesc i)) 64 else []
    let u := s.fire (meKey 0) i (if meDrn i then storeClaims 0 (storeDesc desc) else []) true
    let w := u.1.markOpen 0 (meAset i) true
    let w := { w with meOpened := sset (fun _ => 0) w.meOpened 0 (sget (fun _ => 0) w.meOpened 0 ||| 2 ^ meAset i) }
    let w0 := if meAcc i = 2 then (w.meLoadInit 0 (meAset i) (meCinit i)).1 else w
    let j : Job := ⟨i, (s.engine (meKey 0)).head, u.2, 0, (s.stream 0 (meA i 0).stream).pos,
      (s.stream 0 (meB i 0).stream).pos, desc, false⟩
    (s.engine (meKey 0)).queue = i :: [] ∧ s.canRun (meKey 0) = true ∧ s.tokensReady (waitsOf (meKey 0) i) = true ∧
    (s.firedBefore (meKey 0)).tokensReady (waitsOf (meKey 0) i) = true ∧
    s.job (meKey 0) = none ∧ meOpc i = 1 ∧ s.meFieldsOk 0 i = true ∧ meDrn i = decide (drn = 1) ∧
    (meDrn i = true → s.checkDesc 0 (meSdesc i) false = none) ∧
    (meAcc i = 2 → (w.meLoadInit 0 (meAset i) (meCinit i)).2 = none) ∧
    (∀ g, g < meKg i → (w0.meBefore 0 j g).meGroupStop 0 (meA i j.aPos) (meB i j.bPos) g = none) := by decide +kernel

theorem wit_MmaRunsGroups_struck : (∀ g, meStruck .none g = false) ∧ drainStruck .none 1 = false := ⟨fun _ => rfl, rfl⟩

/-- DRAIN of accumulator set 0, which an MMA has opened. -/
def drainIns : BitVec 256 := ins [(0, 0, 2), (3, 17, 0x100)]
def drainState : State := { queued (pooled live (stMem 32)) (meKey 0) drainIns with meOpened := [(0, 1)] }

theorem wit_DrainStoresSet : Fires drainState (meKey 0) drainIns [] ∧ meOpc drainIns = 2 ∧ drainState.meFieldsOk 0 drainIns = true ∧
    drainState.checkDesc 0 (meSdesc drainIns) false = none ∧ drainStruck .none 0 = false :=
  ⟨⟨by decide +kernel, by decide +kernel, by decide +kernel, by decide +kernel, by decide +kernel⟩, by decide +kernel⟩

/-- The example after R39: its two groups sum to 2^15 and to 3 × 2^−10. -/
theorem test_groupSum :
    let one := List.replicate 32 (Fmt.decode .e4m3 0x38)
    ((groupSum (-18) one one 0x89 0x7F).same (.fin false 1 15) &&
      (groupSum (-18) (List.replicate 32 (Fmt.decode .e4m3 0x1C)) one 0x75 0x7F).same (.fin false 3 (-10))) = true := by
  decide +kernel

/-! The matrix-vector path. -/

/-- VLOAD of one BF16 vector of one group at pool offset 0. -/
def vloadIns : BitVec 256 := ins [(0, 0, 1), (5, 0, 1)]
def vloadState : State := queued (pooled live []) (mvpKey 0) vloadIns

theorem wit_VloadFillsBuffer : Fires vloadState (mvpKey 0) vloadIns [] ∧ mvOpc vloadIns = 1 ∧ mvOk vloadIns = true ∧
    (∀ q ∈ mvReads vloadIns, ∀ a ∈ linesOf (poolAddr 0 q.1) q.2, vloadState.poolStop 0 a = none) :=
  ⟨⟨by decide +kernel, by decide +kernel, by decide +kernel, by decide +kernel, by decide +kernel⟩, by decide +kernel⟩

/-- PASS of one column of one group, one vector and two. -/
def passIns (nv1 : Nat) : BitVec 256 := ins [(0, 0, 2), (0, 14, nv1), (4, 0, 1), (5, 0, 1)]
def passState (nv1 : Nat) : State :=
  { queued (pooled live []) (mvpKey 0) (passIns nv1) with wqueue := [(0, [⟨0, false, List.replicate 64 0, 0, none⟩])] }

theorem wit_PassWritesColumns : ∀ nv1 ∈ [0, 3],
    let s := passState nv1
    let i := passIns nv1
    (s.engine (mvpKey 0)).queue = i :: [] ∧ s.canRun (mvpKey 0) = true ∧ s.tokensReady (waitsOf (mvpKey 0) i) = true ∧
    (s.firedBefore (mvpKey 0)).tokensReady (waitsOf (mvpKey 0) i) = true ∧
    s.job (mvpKey 0) = none ∧ mvOpc i = 2 ∧ mvOk i = true ∧ s.uncopied = [] ∧ s.stalled = [] ∧
    ((s.wgroups 0 (mvStream i)).take (mvNcol i * mvKg i)).length = mvNcol i * mvKg i ∧
    (∀ w ∈ (s.wgroups 0 (mvStream i)).take (mvNcol i * mvKg i), w.void = none) ∧
    (∀ v, v < mvNv i → mvRow i v + 4 * mvNcol i ≤ poolSize) ∧
    (∀ v, v < mvNv i → ∀ w, w < mvNv i → v < w →
      mvRow i v + 4 * mvNcol i ≤ mvRow i w ∨ mvRow i w + 4 * mvNcol i ≤ mvRow i v) := by decide +kernel

/-! Streams. -/

/-- Stream 0 of core 0, armed for one line of the pool-free address 0 into granule 0. -/
def stream1 : Stream := { Stream.idle with desc := { StreamDesc.zero with rgn := 1 }, armed := true }
def fetchState : State := { live with streams := [(0, stream1)] }

theorem wit_PrefetchIssuesRequest : fetchState.canRun (suKey 0) = true ∧ (fetchState.firstFetch 0).isSome = true ∧
    (fetchState.reqs.filter fun r => r.core == 0 && r.cls == 0).length < 48 := by decide +kernel

/-- ARM of stream 0 from a KIND 0 descriptor at pool offset 0: BF16, one ring granule at 1, one line from SST. -/
def armIns : BitVec 256 := ins [(0, 0, 1)]
def armState : State :=
  queued (pooled live [(0x300000000001, 0x02), (0x300000000002, 0x10), (0x300000000009, 0x01)]) (suKey 0) armIns

theorem wit_StreamsStartAndEnd_arm : Fires armState (suKey 0) armIns [] ∧ suOpc armIns = 1 ∧
    armState.suCheck 0 armIns (armState.engine (suKey 0)).head = .go :=
  ⟨⟨by decide +kernel, by decide +kernel, by decide +kernel, by decide +kernel, by decide +kernel⟩, by decide +kernel⟩

/-- DISARM of stream 0, armed and not. -/
def disarmIns : BitVec 256 := ins [(0, 0, 2)]
def disarmState (x : Stream) : State := { queued live (suKey 0) disarmIns with streams := if x = Stream.idle then [] else [(0, x)] }

theorem wit_StreamsStartAndEnd_disarm : ∀ x ∈ [stream1, Stream.idle],
    let s := disarmState x
    (s.engine (suKey 0)).queue = disarmIns :: [] ∧ s.canRun (suKey 0) = true ∧ s.tokensReady (waitsOf (suKey 0) disarmIns) = true ∧
    s.job (suKey 0) = none ∧ suOpc disarmIns = 2 ∧ suFieldsOk disarmIns = true ∧ s.stream 0 0 = x ∧
    (s.firedBefore (suKey 0)).tokensReady (waitsOf (suKey 0) disarmIns) = true ∧
    (x.armed = true → s.streamReqs 0 0 = [] ∧ x.desc.rbase + x.desc.rgn ≤ 1536 ∧ ∀ e ∈ x.comps, e.1 < 16) := by decide +kernel

/-- A request of stream 0 is in flight. -/
theorem wit_StreamsStartAndEnd_owing :
    let r : Req := ⟨1, 0, 0, ⟨0, 0, 0⟩, 3, noPc, 0, false, 0, 64, false, [], .ring 0 0, none, 1, false, 0, 1, 0, 0, [], 0⟩
    let s : State := { disarmState stream1 with reqs := [r] }
    Fires s (suKey 0) disarmIns [] ∧ (s.stream 0 0).armed = true ∧ s.streamReqs 0 0 ≠ [] :=
  ⟨⟨by decide +kernel, by decide +kernel, by decide +kernel, by decide +kernel, by decide +kernel⟩, by decide +kernel⟩

/-! Instruction fetch, fences, slots and requests. -/

theorem wit_InstructionFetchFills : live.frozen = false ∧ live.hold.now = none ∧ (live.polder (live.polderOfDie 1)).live = true ∧
    spares .none = true := by decide +kernel

/-- A section of three instructions, none fetched. -/
def sectionState : State := { live with engines := [(veKey 0, ⟨[], 0, sstBase, 3⟩)] }

/-- R252: the whole section fits the queue. -/
theorem test_instructionFetch : after (exec (.instructionFetch 0 .none) sectionState) (fun t => (t.engine (veKey 0)).queue) = some [0, 0, 0] := by
  decide +kernel

/-- An instruction in flight with a claim and a post. -/
def flight : Inflight := ⟨1, 0, 0, 1, [(0, 5)], [(0, 7)], false, false⟩
def fenceState : State := { live with inflight := [flight] }

theorem wit_FenceRetires : fenceState.frozen = false ∧ fenceState.hold.now = none ∧
    (fenceState.inflight.find? fun x => x.eng == EngineId.key (.core 0 0) && fenceState.fenceReady x) = some flight ∧
    (∀ q ∈ flight.claims, q.1 < 256 ∧ q.2 < 1536) ∧
    (∀ p ∈ flight.posts, p.1 < 256 ∧ p.2 < 64 ∧ fenceState.token p.1 p.2 < 255) ∧ flight.posts.Nodup := by decide +kernel

theorem test_fence : after (exec (.fence (.core 0 0)) fenceState) (fun t => (t.token 0 7, t.valid 0 5, t.inflight)) = some (1, true, []) := by
  decide +kernel

/-- A read of 64 bytes of SST by core 0, with `outs` OUT and `ins` IN transfers still to make. -/
def readReq (outs ins : Nat) : Req :=
  ⟨1, 0, 2, ⟨0, 0, 0⟩, 2, 0, 0, false, sstBase, 64, false, [], .staging 0, none, outs, outs == 0, 0, ins, 0, 0,
    if outs = 0 then List.replicate 64 7 else [], 0⟩

/-- Slot 0 of cluster 0's port gives core 0 an OUT and an IN entry for SRAM die 0. -/
def slotState (r : Req) : State :=
  let s : State := { live with reqs := [r] }
  (s.setWord (Pg.clu 0) 0x400 0x201).setWord (Pg.clu 0) 0x480 1

theorem wit_SlotMovesTransfers_out :
    let r := readReq 1 0
    let s := slotState r
    let e := s.outAt r.own.die r.own.port (s.wheel.slots % 64)
    s.frozen = false ∧ s.hold.now = none ∧ s.wheel.turns = true ∧ s.reqs = [r] ∧ r.own.die < 4 ∧ r.own.port < 11 ∧ r.write = false ∧
    r.outs = 1 ∧ r.hub = 0 ∧ r.far = 0 ∧ r.fail = 0 ∧ r.dest = .staging 0 ∧ r.cvm = false ∧ s.staleTag r.addr = false ∧ e.v = true ∧
    e.holds r = true ∧ e.tgt < 4 ∧ s.tgtOf r = some e.tgt ∧ s.holdsSlot false r e.tgt = true ∧ s.queueFull r e.tgt = false := by
  decide +kernel

theorem wit_SlotMovesTransfers_in :
    let r := readReq 0 1
    let s := slotState r
    let e := s.inAt r.own.die r.own.port (s.wheel.slots % 64)
    s.reqs = [r] ∧ r.own.die < 4 ∧ r.own.port < 8 ∧ r.cls < 4 ∧ r.outs = 0 ∧ r.hub = 0 ∧ r.far = 0 ∧ r.ins = 1 ∧ r.ready ≤ s.slotTime ∧
    e.v = true ∧ e.own = r.own.own ∧ s.tgtOf r = some e.tgt ∧ e.tgt < 5 ∧
    bufferBytes (sget (fun _ => []) s.delivery (8 * r.own.die + r.own.port)) + r.len ≤ 16384 := by decide +kernel

/-- R253, R255: the read takes its OUT slot, and its data the IN slot. -/
theorem test_slot : after (exec .slot (slotState (readReq 1 0))) (fun t => t.reqs.map fun r => (r.outs, r.ins, r.sent)) =
      some [(0, 1, true)] ∧
    after (exec .slot (slotState (readReq 0 1))) (fun t => (t.reqs.map (·.ins), t.delivery)) = some ([0], [(0, [⟨1, 0, 64⟩])]) := by
  decide +kernel

def doneReq (fail : Nat) : Req := { readReq 0 0 with fail := fail }
def doneState (fail : Nat) : State := { live with reqs := [doneReq fail] }

theorem wit_RequestCompletes : ∀ f ∈ [0, 2],
    let s := doneState f
    let r := doneReq f
    s.frozen = false ∧ s.hold.now = none ∧ (s.reqs.find? fun r => r.core == 0 && r.cls == 2) = some r ∧ s.arrivedReq r = true ∧
    r.dest = .staging 0 ∧ 0 + r.data.length ≤ poolSize ∧ r.sent = true ∧ r.eng < 4 ∧ s.rd (Pg.core 0) Reg.Common.FC_VALID = 0 := by
  decide +kernel

/-- R185: a check that has failed is CHECK_VALUE in the core's page. -/
theorem test_requestComplete : after (exec (.requestComplete 0 2 .none) (doneState 2)) (fun t =>
    (t.reqs, (t.word (Pg.core 0) 0x010).toNat % 256)) = some ([], 0x46) := by decide +kernel


/-! Layout engines and Silt: tensors of one dimension in core 0's pool, their descriptors at offsets 0x80, 0x100 and 0x180. -/

/-- Source and destination of one BF16 element, 1.0 in the source, at 0x1000 and 0x2000, an INT32 index tensor at 0x3000
that holds 0. -/
def tensorMem : Sparse Byte :=
  [(0x300000000080, 0x80), (0x300000000081, 0x3F), (0x300000080002, 0x7F), (0x300000080009, 0x10), (0x30000008000C, 0x04),
   (0x30000008000D, 0x01), (0x300000100002, 0x7F), (0x300000100009, 0x20), (0x30000010000C, 0x04), (0x30000010000D, 0x01),
   (0x300000180000, 0x09), (0x300000180002, 0x7F), (0x300000180009, 0x30), (0x30000018000C, 0x04), (0x30000018000D, 0x01)]

/-- The same with two elements to source and destination. -/
def tensorMem2 : Sparse Byte := ssetMany memDefault tensorMem [(0x300000080018, 1), (0x300000100018, 1)]

def tensors (k : Nat) (i : BitVec 256) : State := queued (pooled live tensorMem) k i
def tensors2 (k : Nat) (i : BitVec 256) : State := queued (pooled live tensorMem2) k i

/-- The source and destination descriptors, as a job keeps them. -/
def pairOf (s : State) : List Byte := s.bytesAt (poolAddr 0 0x80) 128 ++ s.bytesAt (poolAddr 0 0x100) 128

def permIns : BitVec 256 := ins [(0, 0, 1), (3, 0, 1), (3, 16, 2)]
def permState : State := tensors (cluKey 0 0) permIns
def permJob (s : State) (init : Bool) : Job := ⟨permIns, 0, (s.fire (cluKey 0 0) permIns [] true).2, 0, 0, 0, pairOf s, init⟩

theorem wit_PermuteMovesTiles_fires : Fires permState (cluKey 0 0) permIns [] ∧ stOpc permIns = 1 ∧
    permState.stCheck 0 permIns (permState.engine (cluKey 0 0)).head = .go ∧
    (permState.fire (cluKey 0 0) permIns [] true).1.tileClear 0 (permJob permState false) :=
  ⟨⟨by decide +kernel, by decide +kernel, by decide +kernel, by decide +kernel, by decide +kernel⟩, by decide +kernel, by decide +kernel,
    by decide +kernel, by decide +kernel⟩

/-- R150: the element is moved. -/
theorem test_permute : after (exec (.permute 0 .none) permState) (fun t => t.bytesAt (poolAddr 0 0x2000) 2) =
    some [0x80, 0x3F] := by decide +kernel

/-- A tile to be moved, and one whose writes are to complete: the last, and the first of two. -/
def tileState (s : State) (init : Bool) : State := { s with jobs := [(cluKey 0 0, permJob s init)] }
def perm2 : State := tensors2 (cluKey 0 0) permIns

theorem wit_PermuteMovesTiles_tile :
    let s := tileState permState false
    s.job (cluKey 0 0) = some (permJob permState false) ∧ s.canRun (cluKey 0 0) = true ∧ s.tileClear 0 (permJob permState false) :=
  ⟨by decide +kernel, by decide +kernel, by decide +kernel, by decide +kernel⟩

theorem wit_PermuteMovesTiles_wait :
    let j := permJob permState true
    let s : State := { tileState permState true with stalled := [⟨0, [], false, 0, 0, 8, none, j.id⟩] }
    s.job (cluKey 0 0) = some j ∧ s.canRun (cluKey 0 0) = true ∧ s.owing j.id = true := by decide +kernel

theorem wit_PermuteMovesTiles_next : (let j := permJob permState true
    let s := tileState permState true
    s.owing j.id = false ∧ (stGrid j.instr (tensorDesc (j.desc.drop 128))).foldl (· * ·) 1 ≤ j.next + 1) ∧
    (let j := permJob perm2 true
    let s := tileState perm2 true
    let d := tensorDesc (j.desc.drop 128)
    let q := { j with next := j.next + 1, init := false }
    let t := s.setValids (moveGranules d.f.bits j.tileMoves) true
    s.job (cluKey 0 0) = some j ∧ s.canRun (cluKey 0 0) = true ∧ s.owing j.id = false ∧
      j.next + 1 < (stGrid j.instr d).foldl (· * ·) 1 ∧ (t.setJob (cluKey 0 0) q).tileClear 0 q) :=
  ⟨by decide +kernel, by decide +kernel, by decide +kernel, by decide +kernel, by decide +kernel, by decide +kernel, by decide +kernel⟩

def narrowIns : BitVec 256 := ins [(0, 0, 2), (3, 0, 1), (3, 16, 2)]
def narrowState : State := tensors (cluKey 0 0) narrowIns
def narrowJob (s : State) : Job := ⟨narrowIns, 0, (s.fire (cluKey 0 0) narrowIns [] true).2, 0, 0, 0, pairOf s, false⟩
def narrowSrc (s : State) : TensorDesc := tensorDesc ((narrowJob s).desc.take 128)
def narrowDst (s : State) : TensorDesc := tensorDesc ((narrowJob s).desc.drop 128)

theorem wit_NarrowMovesElements_fires : Fires narrowState (cluKey 0 0) narrowIns [] ∧ narrowState.job (narrowKey 0) = none ∧
    stOpc narrowIns = 2 ∧ narrowState.stCheck 0 narrowIns (narrowState.engine (cluKey 0 0)).head = .go ∧
    0 + 1 = (narrowDst narrowState).total ∧
    (let j := narrowJob narrowState
     let u := ((narrowState.fire (cluKey 0 0) narrowIns [] true).1).narrowAfter 0 j (narrowSrc narrowState) (narrowDst narrowState) 0 0
     u.narrowClear 0 j (narrowSrc narrowState) (narrowDst narrowState) 0 ∧
       (u.narrowMove 0 j (narrowSrc narrowState) (narrowDst narrowState) 0).1.owing j.id = false) :=
  ⟨⟨by decide +kernel, by decide +kernel, by decide +kernel, by decide +kernel, by decide +kernel⟩, by decide +kernel,
    by decide +kernel, by decide +kernel, by decide +kernel, ⟨by decide +kernel, by decide +kernel⟩, by decide +kernel⟩

/-- The destination's granule waits for a copy: the first element's write is held back. -/
theorem wit_NarrowMovesElements_waits :
    let s : State := { narrowState with uncopied := [(0, poolAddr 0 0x2000 / 65536)] }
    let j := narrowJob s
    let u := (s.fire (cluKey 0 0) narrowIns [] true).1
    0 + 0 < (narrowDst s).total ∧ u.narrowClear 0 j (narrowSrc s) (narrowDst s) 0 ∧
      (u.narrowMove 0 j (narrowSrc s) (narrowDst s) 0).1.owing j.id = true :=
  ⟨by decide +kernel, ⟨by decide +kernel, by decide +kernel⟩, by decide +kernel⟩

theorem wit_NarrowMovesElements_goesOn :
    let j := narrowJob narrowState
    let s : State := { narrowState with jobs := [(narrowKey 0, { j with init := true })] }
    s.job (narrowKey 0) = some { j with init := true } ∧ j.init = false ∧ s.canRun (cluKey 0 0) = true ∧ s.owing j.id = false ∧
      j.next + 1 + 0 = (narrowDst narrowState).total := by decide +kernel

/-- GATHER (1) or SCATTER (2) by one index. -/
def puntIns (o : Nat) : BitVec 256 := ins [(0, 0, o), (3, 0, 1), (3, 16, 2), (4, 0, 3)]
def puntState (o : Nat) : State := tensors (cluKey 0 1) (puntIns o)
def puntJob (o : Nat) : Job :=
  let s := puntState o
  ⟨puntIns o, 0, (s.fire (cluKey 0 1) (puntIns o) (puClaims (puntIns o) (s.tensorAt 0 0x100)) true).2, 0, 0, 0,
    pairOf s ++ s.bytesAt (poolAddr 0 0x180) 128, false⟩
def puntFired (o : Nat) : State :=
  ((puntState o).fire (cluKey 0 1) (puntIns o) (puClaims (puntIns o) ((puntState o).tensorAt 0 0x100)) true).1

theorem wit_PuntMovesSlices : ∀ o ∈ [1, 2],
    let s := puntState o
    let i := puntIns o
    let j := puntJob o
    let a := tensorDesc (j.desc.take 128)
    let d := tensorDesc ((j.desc.drop 128).take 128)
    let x := tensorDesc (j.desc.drop 256)
    let w := (puntFired o).sliceAfter 0 1 j a d x 0 0
    let y := j.mover (cluKey 0 1) (cluKey 0 1)
    cluHome 0 i = 0 ∧ puDst i = 0x100 ∧
    (s.engine (cluKey 0 1)).queue = i :: [] ∧ s.canRun (cluKey 0 1) = true ∧ s.tokensReady (waitsOf (cluKey 0 1) i) = true ∧
    (s.firedBefore (cluKey 0 1)).tokensReady (waitsOf (cluKey 0 1) i) = true ∧
    s.job (cluKey 0 1) = none ∧ puOpc i = o ∧ s.puCheck 0 1 i (s.engine (cluKey 0 1)).head = .go ∧ 0 + 1 = puN i ∧
    w.puHeld 0 1 y = none ∧ w.scanLines y.core x.cvm (addElem [] (x.indexBit 0) 32) = none ∧
      (w.sliceShown 0 1 j x 0).scanLines y.core a.cvm (moveLines a.f.bits (w.sliceMoves i a d x 0)) = none ∧
      (w.sliceMove 0 1 j a d x 0).2 = none := by decide +kernel

/-- A Punt instruction in progress, and class S3 of core 0 full. -/
def s3Req (n : Nat) : Req := ⟨n, 0, 3, ⟨0, 0, 0⟩, 2, 0, 0, false, 0, 64, false, [], .made 0, none, 1, false, 0, 0, 0, 0, [], 0⟩
def full3 (s : State) : State := { s with reqs := (List.range 48).map s3Req }

theorem wit_PuntMovesSlices_waits :
    let j := puntJob 1
    let s := full3 { puntState 1 with jobs := [(cluKey 0 1, j)] }
    s.job (cluKey 0 1) = some j ∧ s.canRun (cluKey 0 1) = true ∧ j.next + 0 < puN j.instr ∧
      s.puHeld 0 1 (j.mover (cluKey 0 1) (cluKey 0 1)) = some 1 := by decide +kernel

/-- R158: index 0 selects the element. -/
theorem test_gather : after (exec (.gather 0 0 .none) (puntState 1)) (fun t => t.bytesAt (poolAddr 0 0x2000) 2) =
    some [0x80, 0x3F] := by decide +kernel

def bitWrites : List BitWrite := [(poolAddr 0 0 * 8, 1, 1), (poolAddr 0 poolSize * 8 - 32, 32, 5)]

theorem wit_BitWritesReadBack : live.uncopied = [] ∧ live.stalled = [] ∧ 1024 ≤ cluKey 0 0 ∧ cluKey 0 0 < 1152 ∧
    (∀ w ∈ bitWrites, 1 ≤ w.2.1 ∧ w.2.1 ≤ 32 ∧ poolAddr 0 0 * 8 ≤ w.1 ∧ w.1 + w.2.1 ≤ poolAddr 0 poolSize * 8) ∧
    bitWrites.Pairwise (fun a b => a.1 + a.2.1 ≤ b.1 ∨ b.1 + b.2.1 ≤ a.1) := by decide +kernel

/-- OPEN, without and with INIT. -/
def openIns (init : Nat) : BitVec 256 := ins [(0, 0, 1), (0, 13, init), (3, 16, 2)]
def openState (init : Nat) : State := tensors (cluKey 0 3) (openIns init)

theorem wit_SiltOpenStartsSession : ∀ init ∈ [0, 1],
    let s := openState init
    let i := openIns init
    let raw := s.bytesAt (poolAddr (cluHome 0 i) (slDst i)) 128
    let d := tensorDesc raw
    let u := (s.fire (cluKey 0 3) i [] true).1
    (s.engine (cluKey 0 3)).queue = i :: [] ∧ s.canRun (cluKey 0 3) = true ∧ s.tokensReady (waitsOf (cluKey 0 3) i) = true ∧
    (s.firedBefore (cluKey 0 3)).tokensReady (waitsOf (cluKey 0 3) i) = true ∧
    s.job (cluKey 0 3) = none ∧ slOpc i = 1 ∧ s.slCheck 0 i (s.engine (cluKey 0 3)).head = .go ∧
    iw i 0 13 13 = init ∧ (iw i 0 13 13 = 1 → u.scanLines (cluHome 0 i) d.cvm (tensorLines d) = none) := by decide +kernel

/-- The destination lies in the ring of an armed stream of core 0, and has not arrived: OPEN waits. -/
def ringOpen : State :=
  { openState 1 with
    regs := live.regs ++ [(278656, 0xFFFFFFFB)]
    streams := [(0, { Stream.idle with desc := { StreamDesc.zero with rbase := 2, rgn := 1 }, armed := true })] }

theorem wit_SiltOpenStartsSession_waits :
    let i := openIns 1
    let d := tensorDesc (ringOpen.bytesAt (poolAddr (cluHome 0 i) (slDst i)) 128)
    let u := (ringOpen.fire (cluKey 0 3) i [] true).1
    ringOpen.slCheck 0 i (ringOpen.engine (cluKey 0 3)).head = .go ∧
      (u.scanLines (cluHome 0 i) d.cvm (tensorLines d)).map (·.2) = some (.stop .wait) := by decide +kernel

/-- An open session to the destination, with INIT; ANCHOR (2), ADD (3) and CLOSE (4). -/
def siltIns (o : Nat) : BitVec 256 :=
  if o = 4 then ins [(0, 0, 4)] else ins [(0, 0, o), (3, 0, 1), (4, 0, 3)]
def siltState (o : Nat) (init : Bool) : State :=
  let s := tensors (cluKey 0 3) (siltIns o)
  s.setSilt 0 { Silt.closed with open_ := true, init := init, anchor := [(0, 0x80)], dst := s.bytesAt (poolAddr 0 0x100) 128 }
def siltJob (o : Nat) : Job :=
  let s := siltState o false
  ⟨siltIns o, 0, (s.fire (cluKey 0 3) (siltIns o) [] true).2, 0, 0, 0,
    s.bytesAt (poolAddr 0 0x80) 128 ++ s.bytesAt (poolAddr 0 0x180) 128, false⟩

theorem wit_SiltTakesContributions : ∀ o ∈ [2, 3],
    let s := siltState o false
    let i := siltIns o
    let j := siltJob o
    let a := tensorDesc (j.desc.take 128)
    let x := tensorDesc (j.desc.drop 128)
    let u := s.fire (cluKey 0 3) i [] true
    let w := if slOpc i = 3 then u.1.setSilt 0 { s.siltOf 0 with adding := true } else u.1
    let y := j.mover (cluKey 0 3) (cluKey 0 3)
    (s.engine (cluKey 0 3)).queue = i :: [] ∧ s.canRun (cluKey 0 3) = true ∧ s.tokensReady (waitsOf (cluKey 0 3) i) = true ∧
    (s.firedBefore (cluKey 0 3)).tokensReady (waitsOf (cluKey 0 3) i) = true ∧
    s.job (cluKey 0 3) = none ∧ slOpc i = o ∧ s.slCheck 0 i (s.engine (cluKey 0 3)).head = .go ∧ 0 + 1 = slN i ∧
    w.classFull y.core 3 = false ∧ w.scanLines y.core x.cvm (addElem [] (x.indexBit 0) 32) = none ∧
      w.scanLines y.core a.cvm (moveLines a.f.bits ((w.siltContribs 0 i a x 0).map (·.move))) = none ∧
      (w.siltMove 0 j a x 0).2 = none := by decide +kernel

theorem wit_SiltTakesContributions_waits :
    let j := siltJob 2
    let s := full3 { siltState 2 false with jobs := [(cluKey 0 3, j)] }
    s.job (cluKey 0 3) = some j ∧ s.canRun (cluKey 0 3) = true ∧ j.next + 0 < slN j.instr ∧
      s.classFull (j.mover (cluKey 0 3) (cluKey 0 3)).core 3 = true := by decide +kernel

theorem wit_SiltCloseWritesSums : ∀ init ∈ [false, true],
    let s := siltState 4 init
    let i := siltIns 4
    let c := cluHome 0 i
    let x := s.siltOf 0
    let d := tensorDesc x.dst
    let f := s.fire (cluKey 0 3) i (d.granules d.ext) true
    let u := f.1
    let z : Mover := ⟨cluKey 0 3, cluKey 0 3, f.2, (s.engine (cluKey 0 3)).head, iw i 0 6 4⟩
    let y := if x.init then (List.range d.total).foldl (fun y e => y.addIn e (u.elemAt d e)) x else x
    let ws := (List.range d.total).map fun e =>
      (d.bitOf (unlinear d.ext e), d.f.bits,
        (cwResult x.c48 (sget (fun _ => 0) y.anchor (e / 256)) (sget (fun _ => 0) y.acc e) d.f (u.slRounding c i d e) false).1)
    let v := if x.init then u.readLines z 0 (tensorLines d) else u
    (s.engine (cluKey 0 3)).queue = i :: [] ∧ s.canRun (cluKey 0 3) = true ∧ s.tokensReady (waitsOf (cluKey 0 3) i) = true ∧
    (s.firedBefore (cluKey 0 3)).tokensReady (waitsOf (cluKey 0 3) i) = true ∧
    s.job (cluKey 0 3) = none ∧ slOpc i = 4 ∧ s.slCheck 0 i (s.engine (cluKey 0 3)).head = .go ∧ x.init = init ∧
    (x.init = true → (u.setValids (d.granules d.ext) true).scanLines c d.cvm (tensorLines d) = none) ∧
    (v.putBitWrites z 1 d.cvm ws).2 = none := by decide +kernel

theorem wit_CausewaySumsAreOrderFree : [FVal.fin false 1 0, FVal.fin true 3 5].Perm [FVal.fin true 3 5, FVal.fin false 1 0] := by
  exact List.Perm.swap _ _ []

/-! Steps and module holds. -/

/-- A fault has been raised in polder 0's step. -/
def faulted : State := live.setPolder 0 { live.polder 0 with fault := true }

theorem wit_FaultAbandonsStep : faulted.frozen = false ∧ (faulted.polder 0).fault = true ∧ faulted.runState 0 = 3 := by
  decide +kernel

theorem wit_StepBoundaryAdvancesStep : live.still = false ∧ live.stepDone 0 = true ∧ live.snapWaits 0 = false ∧ live.commit = none ∧
    live.agentWrites = [] ∧ live.rd Pg.reliab Reg.Reliab.ROT_EN ≠ 1 := by decide +kernel

/-- R251: STEP goes from 0 to 1. -/
theorem test_stepBoundary : after (exec (.stepBoundary 0) live) (fun t => (t.stepNo 0, (t.polder 0).live)) = some (1, false) := by
  decide +kernel

/-- Polder 0 at a boundary, and at its first step. -/
def atBoundary (starting : Bool) : State :=
  { live with polders := ⟨false, !starting, starting, false, 0, false, 0, 0, []⟩ :: List.replicate 3 Polder.idle }

theorem wit_StepStartRestartsEngines : ∀ b ∈ [false, true],
    let s := atBoundary b
    s.still = false ∧ ((s.polder 0).boundary = true ∨ (s.polder 0).starting = true) ∧ (s.polder 0).cutDue = false ∧
    s.runState 0 = 3 ∧ s.wheel.turns = true ∧ s.wheel.slots % 64 = 0 ∧ (∀ m ∈ s.moves, s.polderOfCore m.core ≠ 0) ∧
    (∀ d ∈ s.diesOf 0, d ∉ s.heldDies) ∧ 0 < s.polders.length ∧ s.fetchesOver 0 = true := by decide +kernel

/-- A hold in force (`now`), in its lead, waiting. -/
def held (waiting : List HoldCause) (now lead : Option HoldCause) (done : Bool) : State := { on with hold := ⟨waiting, lead, now, 5, done⟩ }

theorem wit_HoldLifecycle_request : ∀ s ∈ [on, held [] (some .retry) none false, held [] none (some .retry) false],
    s.frozen = false ∧ s.wheel.turns = true ∧ s.holdAsked .refresh = false := by decide +kernel
theorem wit_HoldLifecycle_start : (held [] none (some .refresh) false).frozen = false ∧
    (held [] none (some .refresh) false).hold.lead = some .refresh := by decide +kernel
theorem wit_HoldLifecycle_complete : (held [] (some .refresh) none false).frozen = false ∧
    (held [] (some .refresh) none false).hold.now = some .refresh := by decide +kernel
theorem wit_HoldLifecycle_end : ∀ s ∈ [held [] (some .refresh) none true, held [.retry] (some .refresh) none true],
    s.frozen = false ∧ s.hold.now ≠ none ∧ s.hold.done = true ∧ (∀ o ∈ s.ports, o.rxBuf = []) ∧ s.ingestRx = [] ∧
    (∀ r ∈ s.reqs, s.arrivedReq r = false) := by decide +kernel
theorem wit_HoldLifecycle_next : (held [] (some .refresh) none true).nextHold = none ∧
    (held [.retry] (some .refresh) none true).nextHold = some .retry := by decide +kernel

/-! Landings. -/

/-- A value waiter of gate 0 of core 0 at threshold `v`, and a claimer. -/
def waiter (claim : Bool) (v : Word) : Waiter := ⟨.gate 0 0, claim, v, some 9⟩

/-- Operation `op` at the head of the landing unit's queue; landing 4 has `ws` waiting. -/
def landed (op : LandingOp) (ws : List (Nat × Waiter)) : State :=
  { on with landingQ := [⟨0, 0, op⟩], landings := if ws = [] then [] else [(4, ⟨0, 0, 0, 0, ws⟩)] }

theorem wit_SignalAdvancesLanding : (landed (.signal 4 3 true 7) [(2, waiter false 3)]).still = false ∧
    (landed (.signal 4 3 true 7) [(2, waiter false 3)]).landingQ = [⟨0, 0, .signal 4 3 true 7⟩] ∧
    0 ≤ (landed (.signal 4 3 true 7) [(2, waiter false 3)]).timestamp ∧
    (landed (.signal 4 3 true 7) [(2, waiter false 3)]).landingDone = false := by decide +kernel

/-- R274, R276: the waiter at 3 is released, COUNT stays 3. -/
theorem test_signal : after (exec .signal (landed (.signal 4 3 true 7) [(2, waiter false 3)])) (fun t => (t.landing 4, t.releases)) =
    some (⟨3, 1, 7, 1, []⟩, [(12, 0, 0)]) := by decide +kernel

theorem wit_ScanReleasesWaiters : (∀ e ∈ [(0, waiter false 3), (5, waiter false 9)], e.2.claim = false) ∧
    (∀ e ∈ [(0, waiter true 0), (5, waiter true 0)], e.2.claim = true) ∧ (1 : Word).toNat < 2 ^ 31 := by decide +kernel

/-- R276: one unit of COUNT releases the claimer of the lower slot. -/
theorem test_claims : scanWaiters 1 [(0, waiter true 0), (5, waiter true 0)] = (0, [(5, waiter true 0)], [waiter true 0]) := by
  decide +kernel

theorem wit_RegistrationEntersSlot_free : ∀ ws ∈ [[], [(2, waiter false 3)]],
    let s := landed (.register 4 1 (waiter false 8)) ws
    s.still = false ∧ s.landingQ = [⟨0, 0, .register 4 1 (waiter false 8)⟩] ∧ 0 ≤ s.timestamp ∧ s.landingDone = false ∧
    ((waiter false 8).isGate && s.hubSlot 4 1) = false ∧
    (∀ e ∈ (s.landing 4).waiters, e.1 ≠ 1 ∧ e.2.claim = (waiter false 8).claim) := by decide +kernel

theorem wit_RegistrationEntersSlot_taken :
    let s := landed (.register 4 2 (waiter false 8)) [(2, waiter false 3)]
    s.still = false ∧ s.landingQ = [⟨0, 0, .register 4 2 (waiter false 8)⟩] ∧ (waiter false 8).who = .gate 0 0 ∧
    (∃ e ∈ (s.landing 4).waiters, e.1 = 2) ∧ s.rd (Pg.core 0) Reg.Common.FC_VALID = 0 := by decide +kernel

/-- Slot 11 of landing 4 is that of an enabled work queue. -/
theorem wit_RegistrationEntersSlot_queue :
    let s := ((landed (.register 4 11 (waiter false 8)) []).wrSt Pg.workQ Reg.WorkQ.QEN [0] 1).wrSt Pg.workQ Reg.WorkQ.QLANDING [0] 4
    s.still = false ∧ s.landingQ = [⟨0, 0, .register 4 11 (waiter false 8)⟩] ∧ s.landingDone = false ∧ s.hubSlot 4 11 = true ∧
    s.rd (Pg.core 0) Reg.Common.FC_VALID = 0 := by decide +kernel

/-- Gate 3 of core 0: a signal gate (KIND 1), and a wait gate (2); its token stands at counter 6. -/
def gated (kind : Nat) : State :=
  let s : State := { live with gates := [(3, { Gate.off with kind := kind, tok := 6, landing := 4, inc := 1 })] }
  s.setToken 0 6 1

theorem wit_GatesFireAndRelease_signal : (gated 1).agentRuns 0 = true ∧ (gated 1).firstGate 0 = some 3 ∧ ((gated 1).gate 0 3).kind = 1 ∧
    ((gated 1).gate 0 3).tok < 64 := by decide +kernel
theorem wit_GatesFireAndRelease_wait : (gated 2).agentRuns 0 = true ∧ (gated 2).firstGate 0 = some 3 ∧ ((gated 2).gate 0 3).kind ≠ 1 ∧
    ((gated 2).gate 0 3).tok < 64 := by decide +kernel
theorem wit_GatesFireAndRelease_post : ∀ due ∈ [0, 12],
    let s : State := { gated 2 with releases := [(due, 0, 3)] }
    s.still = false ∧ s.releases = [(due, 0, 3)] ∧ (due ≤ s.timestamp ↔ due = 0) ∧ (s.gate 0 3).rtok < 64 ∧
    s.token 0 (s.gate 0 3).rtok < 255 := by decide +kernel

/-- R279: the token is consumed and the signal is due 20 SCLK later. -/
theorem test_signalGate : after (exec (.signalGateFire 0) (gated 1)) (fun t => (t.token 0 6, t.landingQ.map (·.due))) =
    some (0, [20]) := by decide +kernel

/-- A host's wait with sequence number 3. -/
def hostWaiter : Waiter := ⟨.host 3 0, false, 9, some 1⟩

theorem wit_TimeoutLeavesSlot : ∀ w ∈ [waiter false 3, hostWaiter],
    let s := landed (.signal 4 0 false 0) [(2, w)]
    s.still = false ∧ s.releasedNow 4 2 = false ∧ ((s.landing 4).waiters.find? fun e => e.1 == 2 && e.2.left.isSome) = some (2, w) ∧
    (w.who = .gate 0 0 ∨ w.who = .host 3 0) ∧ s.rd (Pg.core 0) Reg.Common.FC_VALID = 0 := by decide +kernel

/-- The signal of this SCLK releases the wait. -/
theorem wit_TimeoutLeavesSlot_released : (landed (.signal 4 3 false 0) [(2, waiter false 3)]).releasedNow 4 2 = true := by
  decide +kernel

/-- Signal lines read by the module: HOST_EN is 1; the line is not cached; the baseline has been taken or not. -/
def hostLined (based : Bool) : State :=
  let s : State := { on with hostLines := if based then [(2, ⟨true, false, 1, 1, 5, 0, 0⟩)] else [] }
  s.wr Pg.landings Reg.Landings.HOST_EN [] 1

theorem wit_HostLinesFollowTheHost : ∀ b ∈ [false, true],
    let s := hostLined b
    s.frozen = false ∧ s.rd Pg.landings Reg.Landings.HOST_EN = 1 ∧ (s.hostLinesOf 2).cached = false ∧
    s.rd Pg.selfTest Reg.SelfTest.STSTATE ≠ 1 ∧ s.gather = [] ∧ (∀ p, p < 4 → s.towMode p ≠ 3) ∧ (s.hostLinesOf 2).based = b ∧
    (b = true → (5 : BitVec 16).toNat = (s.hostLinesOf 2).wseq) := by decide +kernel

/-- R289: an advance of 65,536 increments is split. -/
theorem test_hostOps : ((hostOps 2 65536 1 0).map fun o => match o with | .signal _ i _ _ => i | _ => 0).sum = 65536 := by decide +kernel

/-! Ferry links and Causeway. -/

/-- Port 0 in PSTATE `ps` with `n` failures, the other ports fresh. -/
def linked (ps n : Nat) (o : Port) : State :=
  let s : State := { on with ports := o :: List.replicate 15 Port.fresh }
  (s.wr (Pg.ferry 0) Reg.Ferry.PSTATE [] ps).wr (Pg.ferry 0) Reg.Ferry.FAILS [] n

/-- Every command of `crossings` with a crossing that is for it. -/
def crossOf (k : Nat) (fr : Nat) : Crossing := { cross k with payload := BitVec.ofNat 8 fr :: List.replicate 255 0 }
def crossOfAll : List Crossing :=
  [crossOf 2 0, crossOf 3 0, crossOf 4 0, crossOf 5 0, crossOf 6 0, crossOf 7 0, crossOf 8 0, crossOf 9 0, crossOf 10 1, crossOf 10 2]

theorem wit_DiscardedCrossingsAreAskedForAgain : (linked 2 0 Port.fresh).linkRuns 0 = true ∧ (linked 2 0 Port.fresh).ports.length = 16 ∧
    (∀ e ∈ crossings.zip crossOfAll, e.1.2 { e.2 with seq := 1 } = true ∧
      ({ e.2 with seq := 1 } : Crossing).seq.toNat ≠ ((linked 2 0 Port.fresh).port 0).rxSeq) ∧ crossings.length = crossOfAll.length := by
  decide +kernel

/-- The CRC of the crossing `crossOf 2 0`, in four parts of 66 bytes. -/
theorem crc_crossOf : crc32c (crossBytes (crossOf 2 0)) = 0X21D273BE := by
  have h : crossBytes (crossOf 2 0) = (crossBytes (crossOf 2 0)).take 66 ++
      (List.replicate 66 0 ++ (List.replicate 66 0 ++ List.replicate 66 0)) := by decide +kernel
  have h0 : ((crossBytes (crossOf 2 0)).take 66).foldl crcByte 0xFFFFFFFF = 0X234A81E := by decide +kernel
  have h1 : (List.replicate 66 0).foldl crcByte 0X234A81E = 0X4F4EC62B := by decide +kernel
  have h2 : (List.replicate 66 0).foldl crcByte 0X4F4EC62B = 0X4860ED89 := by decide +kernel
  have h3 : (List.replicate 66 0).foldl crcByte 0X4860ED89 = 0XDE2D8C41 := by decide +kernel
  rw [crc32c, h, List.foldl_append, List.foldl_append, List.foldl_append, h0, h1, h2, h3]
  rfl

/-- The crossing passes its CRC; with another CRC it does not. -/
theorem keep_crossOf : mustDiscard (.bytes (crossWire (crossOf 2 0)) []) 0 = false := by
  have hw : crossWire (crossOf 2 0) = crossBytes (crossOf 2 0) ++ natBytes 4 0X21D273BE := by rw [crossWire, crc_crossOf]
  have ht : (crossBytes (crossOf 2 0) ++ natBytes 4 0X21D273BE).take 0x108 = crossBytes (crossOf 2 0) := by decide +kernel
  rw [hw, mustDiscard, crossCrcOk, ht, crc_crossOf]
  decide +kernel

/-- An uncorrectable codeword with two symbol errors on lane 1, and a reserved KIND. -/
theorem wit_DiscardedCrossingsAreAskedForAgain_discarded :
    (∀ w ∈ [DiscardWhy.fec [0, 2], .bytes (0x60 :: List.replicate 267 0) []],
      mustDiscard w ((linked 2 0 Port.fresh).port 0).rxSeq = true ∧ (discardSym w).length ≤ 9) ∧
    mustDiscard (.bytes (crossWire (crossOf 2 0)) []) ((linked 2 0 Port.fresh).port 0).rxSeq = false := by
  refine ⟨fun w hw => ?_, keep_crossOf⟩
  simp only [List.mem_cons, List.not_mem_nil, or_false] at hw
  obtain rfl | rfl := hw
  · exact ⟨rfl, by decide⟩
  · refine ⟨?_, by decide⟩
    have h : decide (0xB ≤ rawKind (0x60 :: List.replicate 267 0)) = true := by decide +kernel
    rw [mustDiscard, h, Bool.or_true, Bool.true_or]

/-- R293: the symbols are counted by lane. -/
theorem test_discardedCrossing : after (exec (.discardedCrossing 0 (.fec [0, 2])) (linked 2 0 Port.fresh)) (fun t =>
    (t.rd (Pg.ferry 0) Reg.Ferry.SYM_ERR [1], t.rd (Pg.ferry 0) Reg.Ferry.BAD_CROSS, (t.port 0).nakDue)) = some (2, 1, true) := by
  decide +kernel

theorem wit_CrossingsAreTakenInOrder : ∀ s ∈ [linked 2 0 Port.fresh, { linked 2 0 Port.fresh with hold := ⟨[], none, some .refresh, 0, false⟩ }],
    s.linkRuns 0 = true ∧ s.ports.length = 16 ∧
    (∀ e ∈ crossings.zip crossOfAll, e.1.2 e.2 = true ∧ e.2.seq.toNat = (s.port 0).rxSeq) := by decide +kernel

/-- A data crossing waits in a hold, a signal does not. -/
theorem wit_CrossingsAreTakenInOrder_waits :
    let s : State := { linked 2 0 Port.fresh with hold := ⟨[], none, some .refresh, 0, false⟩ }
    s.mustWait (crossOf 3 0) = true ∧ s.mustWait (crossOf 4 0) = false ∧ (s.port 0).rxBuf = [] := by decide +kernel

/-- One dimension of four modules along ports 0 (plus) and 1 (minus), this module 0; port 0 is up or not. -/
def ringed (up : Bool) : State :=
  let s := linked (if up then 2 else 0) 0 Port.fresh
  let g := Pg.routing
  ((((s.wr g Reg.Routing.DIMS [] 1).wr g Reg.Routing.WIDTH [0] 2).wr g Reg.Routing.EXT [0] 3).wr g Reg.Routing.PMASK [0] 1).wr g
    Reg.Routing.MMASK [0] 2

theorem wit_ForwardingFollowsWiringTable :
    let x : Crossing := { crossOf 3 0 with dst := 1 }
    (∀ b ∈ [false, true], (ringed b).ports.length = 16 ∧ ((ringed b).port 0).freed.length = 8 ∧ x.kind ≠ Kind.freeze) ∧
    (ringed true).route 1 0 0 = .out 0 0 false ∧ (ringed false).route 1 0 0 = .lost := by decide +kernel

def unackedPort : Port := { Port.fresh with retry := [cross 3] }

theorem wit_RetryLadder_ackTimer : ∀ e ∈ [(2, 0), (3, 0), (3, 1), (3, 2)],
    let s := linked e.1 e.2 unackedPort
    s.linkRuns 0 = true ∧ s.ports.length = 16 ∧ (s.port 0).retry ≠ [] ∧ s.rd (Pg.ferry 0) Reg.Ferry.PSTATE = e.1 ∧
    s.rd (Pg.ferry 0) Reg.Ferry.FAILS = e.2 ∧ s.rd (Pg.ferry 0) Reg.Ferry.SPARE_FOR = 0xF := by decide +kernel
theorem wit_RetryLadder_spareTaken :
    let s := (linked 3 2 unackedPort).wr (Pg.ferry 0) Reg.Ferry.SPARE_FOR [] 4
    s.linkRuns 0 = true ∧ (s.port 0).retry ≠ [] ∧ s.rd (Pg.ferry 0) Reg.Ferry.PSTATE = 3 ∧ s.rd (Pg.ferry 0) Reg.Ferry.FAILS = 2 ∧
    s.rd (Pg.ferry 0) Reg.Ferry.SPARE_FOR ≠ 0xF := by decide +kernel
theorem wit_RetryLadder_swap : (linked 3 3 unackedPort).linkRuns 0 = true ∧ (linked 3 3 unackedPort).ports.length = 16 ∧
    (linked 3 3 unackedPort).awaitsLane 0 = true ∧ (2, 0, 0) ∉ (linked 3 3 unackedPort).badSpares := by decide +kernel
/-- The receiving end has met two symbol errors on lane 3 and none on others. -/
def erredPort : Port := { Port.fresh with syms := [0, 0, 0, 2] }
theorem wit_RetryLadder_receiver :
    let s := linked 2 0 erredPort
    s.linkRuns 0 = true ∧ s.ports.length = 16 ∧ s.awaitsLane 0 = false ∧ (s.port 0).worstLane = some 3 ∧
    s.rd (Pg.ferry 0) Reg.Ferry.SPARE_FOR = 0xF ∧ (2, 0, 0) ∉ s.badSpares := by decide +kernel
theorem wit_RetryLadder_up :
    let s := (linked 1 0 unackedPort).wr (Pg.ferry 0) Reg.Ferry.PORT_EN [] 1
    s.frozen = false ∧ s.ports.length = 16 ∧ s.rd (Pg.ferry 0) Reg.Ferry.PORT_EN = 1 ∧ s.rd (Pg.ferry 0) Reg.Ferry.PSTATE = 1 := by
  decide +kernel

/-- Ports for each case of R301: a control crossing's time, a retry, a VC that can send, a control crossing due, nothing. -/
def times1 : Port := { Port.fresh with times := 1 }
theorem wit_ProtocolEngineOrder_times :
    (∀ o ∈ [Port.fresh, times1], (linked 2 0 o).linkRuns 0 = true ∧ (linked 2 0 o).frozen = false ∧ (linked 2 0 o).ports.length = 16) ∧
    Port.fresh.times % 100 = 0 ∧ times1.times % 100 ≠ 0 ∧
    (let o : Port := { times1 with retry := [cross 3], resend := 1 }
     o.retry[o.retry.length - o.resend]? = some (cross 3)) ∧
    (let o : Port := { times1 with out := [cross 3] }
     o.resend = 0 ∧ o.retry.length < 2048 ∧ (linked 2 0 o).awaitsLane 0 = false ∧ (linked 2 0 o).nextVc 0 o = some 0) ∧
    (let o : Port := { times1 with ackDue := true }
     o.resend = 0 ∧ (∀ v, v < 8 → o.canSend v = false) ∧ o.owes = true) ∧
    (times1.resend = 0 ∧ (∀ v, v < 8 → times1.canSend v = false) ∧ times1.owes = false) := by decide +kernel
theorem wit_ProtocolEngineOrder_vc :
    let x := fun (v : Nat) => { cross 3 with vc := BitVec.ofNat 3 v }
    let o := fun (v : Nat) => { times1 with out := [x v] }
    (o 0).canSend 0 = true ∧ ((o 1).canSend 0 = false ∧ (o 1).canSend 1 = true) ∧
    (let v := on.vcSlice 0 1
     2 ≤ v ∧ (o v).canSend 0 = false ∧ (o v).canSend 1 = false ∧ (o v).canSend v = true) := by decide +kernel
theorem wit_ProtocolEngineOrder_ack :
    let o : Port := { Port.fresh with retry := [cross 3 5, cross 3 6, cross 3 7] }
    (linked 2 0 o).ports.length = 16 ∧ ((linked 2 0 o).port 0).retry = [cross 3 5] ++ cross 3 6 :: [cross 3 7] ∧
    6 = (cross 3 6).seq.toNat ∧ ([cross 3 5] ++ [cross 3 6]).length < 4096 ∧
    (∀ x ∈ [cross 3 5].head?, 6 = (x.seq.toNat + [cross 3 5].length) % 4096) ∧ (crossOf 1 0).kind = Kind.control := by
  decide +kernel

/-- A work queue whose ring lies in core 0's pool at offset 0, granted; the descriptor has these bytes. -/
def workState (mem : Sparse Byte) : State :=
  let s : State := { pooled live mem with granted := [.workq 0] }
  s.wr2 Pg.workQ Reg.WorkQ.RING_LO Reg.WorkQ.RING_HI [0] (poolAddr 0 0)

/-- A PUT of one line from pool offset 0x1000 to module 1. -/
def putMem : Sparse Byte :=
  [(0x300000000000, 1), (0x300000000009, 0x10), (0x30000000000C, 0x04), (0x30000000000D, 0x01), (0x300000000016, 1)]

/-- What `Granted` asks of queue 0. -/
theorem granted_of (s : State) (h : s.workHome 0 < 256 ∧ s.still = false ∧ s.workBusy 0 = false ∧ .workq 0 ∈ s.granted ∧
    s.workReadStop 0 (s.workAddr 0 (s.rd Pg.workQ Reg.WorkQ.HEAD [0])) 128 false = none ∧
    workOk (s.bytesAt (s.workAddr 0 (s.rd Pg.workQ Reg.WorkQ.HEAD [0])) 128) = true) :
    Granted s 0 (s.bytesAt (s.workAddr 0 (s.rd Pg.workQ Reg.WorkQ.HEAD [0])) 128) :=
  ⟨h.1, h.2.1, h.2.2.1, h.2.2.2.1, h.2.2.2.2.1, rfl, h.2.2.2.2.2⟩

theorem wit_PutStartsAndEnds_start :
    let s := workState putMem
    let d := s.bytesAt (s.workAddr 0 (s.rd Pg.workQ Reg.WorkQ.HEAD [0])) 128
    let x := workDesc d
    Granted s 0 d ∧ x.kind = 1 ∧ (s.workq 0).puts.length < 128 ∧ x.dst / 2 ^ 48 ≠ s.modId ∧
    s.workReadStop 0 x.src (64 * x.lines) false = none ∧ s.workReadStop 0 x.src (64 * x.lines) x.scvm = none :=
  ⟨granted_of _ (by decide +kernel), by decide +kernel, by decide +kernel, by decide +kernel, by decide +kernel, by decide +kernel⟩

/-- A PUT in transfer slot 5 with LDEN. -/
def putSent : Put := ⟨5, 0, true, natBytes 4 0x11⟩
def putState : State := { live with workqs := [(0, { WorkQ.idle with puts := [putSent] })] }

theorem wit_PutStartsAndEnds_end : putState.putIn 0 5 = some putSent ∧ (putState.workq 0).ended = [] ∧
    putSent.idx = putState.rd Pg.workQ Reg.WorkQ.DONE [0] ∧ (workDesc putSent.desc).lden = true ∧
    (workDesc putSent.desc).rsen = false := by decide +kernel
theorem wit_PutStartsAndEnds_timeout : putState.putIn 0 5 = some putSent ∧ putState.frozen = false ∧ putSent.whole = true ∧
    putState.lastSent (xidOf 0 5) = true ∧ putState.workHome 0 < 256 ∧ putState.rd Pg.workQ Reg.Common.FC_VALID = 0 ∧
    putState.workPolder 0 < putState.polders.length := by decide +kernel

/-- The signal of a PUT that has left transfer slot 5 is refused. -/
theorem wit_PutStartsAndEnds_told :
    let s : State := { live with workqs := [(0, { WorkQ.idle with told := [5] })] }
    s.putIn 0 5 = none ∧ 5 ∈ (s.workq 0).told ∧ s.workHome 0 < 256 ∧ s.rd Pg.workQ Reg.Common.FC_VALID = 0 := by decide +kernel

/-- A descriptor of kind `k` with one member: source list, destination, group and scratch at pool offsets 0x1000, 0x2000,
0x3000 and 0x4000, the contribution at 0x5000. -/
def collMem (k : Nat) : Sparse Byte :=
  [(0x300000000000, BitVec.ofNat 8 k), (0x300000000009, 0x10), (0x30000000000C, 0x04), (0x30000000000D, 0x01), (0x300000000011, 0x20),
   (0x300000000014, 0x04), (0x300000000015, 0x01), (0x300000000021, 0x30), (0x300000000024, 0x04), (0x300000000025, 0x01),
   (0x300000000031, 0x40), (0x300000000034, 0x04), (0x300000000035, 0x01), (0x300000000081, 0x50), (0x300000000084, 0x04),
   (0x300000000085, 0x01)]

theorem wit_CollectivesDealEveryBlockOnce : ∀ k ∈ [2, 3, 4, 5],
    let s := workState (if k = 5 then (collMem 5).take 13 else collMem k)
    let d := s.bytesAt (s.workAddr 0 (s.rd Pg.workQ Reg.WorkQ.HEAD [0])) 128
    Granted s 0 d ∧ s.collReady 0 d ∧ (workDesc d).kind = k := by
  have h : ∀ k ∈ [2, 3, 4, 5],
      let s := workState (if k = 5 then (collMem 5).take 13 else collMem k)
      let d := s.bytesAt (s.workAddr 0 (s.rd Pg.workQ Reg.WorkQ.HEAD [0])) 128
      let x := workDesc d
      (s.workHome 0 < 256 ∧ s.still = false ∧ s.workBusy 0 = false ∧ .workq 0 ∈ s.granted ∧
        s.workReadStop 0 (s.workAddr 0 (s.rd Pg.workQ Reg.WorkQ.HEAD [0])) 128 false = none ∧ workOk d = true) ∧
      ((s.workq 0).coll = none ∧ (s.workq 0).bar = none ∧ s.collStop 0 x = none ∧ x.rank < x.r ∧
        (s.memberList x).getD x.rank 0 = s.modId ∧ ∀ m ∈ s.memberList x, m < 4096) ∧ x.kind = k := by decide +kernel
  exact fun k hk => ⟨granted_of _ (h k hk).1, (h k hk).2.1, (h k hk).2.2⟩

theorem wit_CollectivesDealEveryBlockOnce_barrier :
    let s := workState [(0x300000000000, 6)]
    let d := s.bytesAt (s.workAddr 0 (s.rd Pg.workQ Reg.WorkQ.HEAD [0])) 128
    Granted s 0 d ∧ (workDesc d).kind = 6 ∧ (s.workq 0).coll = none ∧ (s.workq 0).bar = none :=
  ⟨granted_of _ (by decide +kernel), by decide +kernel, by decide +kernel, by decide +kernel⟩

/-- Three members and two streams deal 700 elements: three blocks, of which member 0 has one. -/
def dealDesc : WorkDesc := { workDesc [] with kind := 2, r := 3, streams := 2, n := 700 }

theorem wit_CollectivesDealEveryBlockOnce_blocks : 0 < dealDesc.r ∧ 2 < dealDesc.blocks ∧ 0 < dealDesc.streams ∧
    0 ∈ dealDesc.shard 0 ∧ dealDesc.rank < dealDesc.r ∧ (dealDesc.kind = 2 ∨ dealDesc.kind = 3) := by decide +kernel

/-- R307: a torus of four modules, from module 0 to module 3, crosses the dateline downwards. -/
theorem test_route :
    (((ringed true).wr (Pg.ferry 1) Reg.Ferry.PSTATE [] 2).wr Pg.routing Reg.Routing.TORUS [0] 1).route 3 0 0 = .out 1 0 true := by
  decide +kernel

/-! Sluice. -/

/-- A Sluice descriptor at pool offset 0 for optimizer `o`: one parameter, nothing mapped. -/
def jobMem (o : Nat) : Sparse Byte := [(0x300000000000, BitVec.ofNat 8 o), (0x300000040038, 0x7F), (0x300000040039, 0x7F)]
def sluiceState (o : Nat) : State :=
  let s : State := { pooled live (jobMem o) with granted := [.sluice 0] }
  s.wr2 Pg.sluiceQ Reg.SluiceQ.RING_LO Reg.SluiceQ.RING_HI [0] (poolAddr 0 0)

theorem wit_SluiceTakesParameterBlocks_start : sluiceOps.map (·.2) = [1, 2, 3] ∧ ∀ o ∈ [1, 2, 3],
    let s := sluiceState o
    let i := s.rd Pg.sluiceQ Reg.SluiceQ.HEAD [0]
    let a := s.rd2 Pg.sluiceQ Reg.SluiceQ.RING_LO Reg.SluiceQ.RING_HI [0] + 128 * i
    let d := s.bytesAt a 128
    let x := sluiceDesc d
    s.still = false ∧ .sluice 0 ∈ s.granted ∧ s.hubReadStop (s.sluiceHome 0) a 128 false = none ∧ sluiceOk d = true ∧
    s.sluiceInside x (s.polderOfCore (s.sluiceHome 0)) = true ∧ x.opt = o ∧ x.gsrc = false ∧ (∀ j ∈ s.sluice, j.q ≠ 0) := by
  decide +kernel

/-- A job of two blocks whose parameters, gradients and moments lie in SST, in core 0's window. -/
def jobDesc (o : Nat) : List Byte :=
  let at_ := fun k => [(sstBase + 0x10000 * k) % 2 ^ 32, (sstBase + 0x10000 * k) / 2 ^ 32]
  ([o, 2048] ++ at_ 0 ++ at_ 1 ++ at_ 2 ++ [0, 0] ++ at_ 3).flatMap fun w => natBytes 4 w
def job1 (o : Nat) : SluiceJob := ⟨0, 0, 0, jobDesc o, 0, 0, 0, 1, false, none⟩
def jobState (o : Nat) : State := { live with sluice := [job1 o], windows := [⟨0, sstBase, 0x100000, true, true⟩] }

theorem wit_SluiceTakesParameterBlocks_block : ∀ o ∈ [1, 2, 3],
    let s := jobState o
    let x := sluiceDesc (job1 o).desc
    s.still = false ∧ .sluice 0 ∉ s.granted ∧ s.sluiceHome 0 < 256 ∧ s.sluice = [job1 o] ∧ (job1 o).q = 0 ∧ (job1 o).ended = false ∧
    x.opt = o ∧ (job1 o).next < x.blocks ∧ s.stalled = [] ∧ s.uncopied = [] ∧ (∀ e ∈ s.hubCmp, e.1 < 1088) ∧
    (∀ e ∈ s.streams, e.1 < 2048) ∧ s.sluiceStop (s.sluiceHome 0) x 2048 (min x.n 4096) = none ∧
    (s.sluiceUnit ((x.p + 2 * 2048) % 2 ^ 48)).isSome = true := by decide +kernel

/-! Ingest. -/

theorem wit_ShufflePermutesEpoch : 0 < 1 ∧ (1 : Nat) ≤ 2 ^ 32 ∧ 0 < 2 ^ 32 ∧ (7 : Nat) < 2 ^ (2 * pqHalf 10) := by decide +kernel

/-- A batch descriptor at pool offset 0: one sample of SST die 0's polder, its patch descriptor at offset 0x1000. -/
def batchMem : Sparse Byte :=
  [(0x300000000003, 0x20), (0x300000000019, 0x10), (0x30000000001C, 0x04), (0x30000000001D, 0x01), (0x300000000025, 0x01),
   (0x300000040000, 76)]
def batchState : State :=
  let s : State := { pooled live batchMem with granted := [.sequencer], windows := [⟨256, poolAddr 0 0, 0x10000, true, false⟩] }
  s.wr2 Pg.wharf Reg.Wharf.IQ_BASE_LO Reg.Wharf.IQ_BASE_HI [] (poolAddr 0 0)

theorem wit_IngestCommandsAct_batch :
    let s := batchState
    let a := s.rd2 Pg.wharf Reg.Wharf.IQ_BASE_LO Reg.Wharf.IQ_BASE_HI + 128 * s.rd Pg.wharf Reg.Wharf.IQ_HEAD
    let d := s.bytesAt a 128
    let x := batchDesc d
    s.still = false ∧ .sequencer ∈ s.granted ∧ s.hubReadStop seqGrantee a 128 false = none ∧ batchOk d = true ∧
    s.polderHolding x.pbase = some 0 ∧ s.hubReadStop seqGrantee x.pdesc 64 false = none := by decide +kernel

/-- An IPv4 frame with an empty UDP datagram to port 0 of MAC address `mac` and IPv4 address 0, and its FCS (CRC-32 computed
by hand). -/
def frame (mac : Byte) (fcs : Nat) : List Byte :=
  [0, 0, 0, 0, 0, mac, 0, 0, 0, 0, 0, 0, 8, 0, 0x45, 0, 0, 28, 0, 0, 0, 0, 0, 17] ++ List.replicate 14 0 ++ [0, 8, 0, 0] ++ natBytes 4 fcs

theorem wit_IngestCommandsAct_frames : on.frozen = false ∧ on.still = false ∧ (held [] (some .refresh) none false).still = true ∧
    on.frameFate 0 (frame 0 0) = .bad ∧ on.frameFate 0 (frame 1 0x73E67B04) = .filter ∧
    on.frameFate 0 (frame 0 0xF3166C1B) = .accept [] ∧
    (held [] (some .refresh) none false).frameFate 0 (frame 0 0xF3166C1B) = .accept [] ∧ (wharfHdr []).ok = false := by decide +kernel
theorem wit_IngestCommandsAct_buffer : (held [] (some .refresh) none false).ingestHeld 0 + (frame 0 0).length ≤ 2097152 := by
  decide +kernel

theorem still_rx (s : State) (l : List (Nat × List Byte)) : ({ s with ingestRx := l } : State).still = s.still := rfl
theorem frameFate_rx (s : State) (l : List (Nat × List Byte)) (p : Nat) (f : List Byte) :
    ({ s with ingestRx := l } : State).frameFate p f = s.frameFate p f := rfl

/-- The buffer is full: one frame `f` of 2 MiB stands for many. -/
theorem full_of (f : List Byte) (h : f.length = 2097152) :
    let s : State := { held [] (some .refresh) none false with ingestRx := [(0, f)] }
    s.still = true ∧ s.frameFate 0 (frame 0 0xF3166C1B) = .accept [] ∧ 2097152 < s.ingestHeld 0 + (frame 0 0xF3166C1B).length := by
  have hl : (frame 0 0xF3166C1B).length = 46 := by decide +kernel
  refine ⟨(still_rx _ _).trans wit_IngestCommandsAct_frames.2.2.1,
    (frameFate_rx _ _ _ _).trans wit_IngestCommandsAct_frames.2.2.2.2.2.2.1, ?_⟩
  rw [hl]
  simp [State.ingestHeld, h]

theorem wit_IngestCommandsAct_full : ∃ s : State, s.still = true ∧ s.frameFate 0 (frame 0 0xF3166C1B) = .accept [] ∧
    2097152 < s.ingestHeld 0 + (frame 0 0xF3166C1B).length :=
  ⟨_, full_of (List.replicate 2097152 0) List.length_replicate⟩

theorem wit_IngestCommandsAct_judged : 9216 < (List.replicate 9217 (0 : Byte)).length ∧ fcsOk (frame 0 0) = false ∧
    (frame 1 0x73E67B04).length ≤ 9216 ∧ fcsOk (frame 1 0x73E67B04) = true ∧
    beNat ((frame 1 0x73E67B04).take 6) ≠ macOf (on.rd (Pg.ingest 0) Reg.Ingest.MAC_HI) (on.rd (Pg.ingest 0) Reg.Ingest.MAC_LO) := by
  refine ⟨?_, by decide +kernel⟩
  rw [List.length_replicate]
  omega

/-- Channel 3 with one READ outstanding, requested `tries` times; one batch. -/
def read1 (tries : Nat) : Read := ⟨7, 0, 64, [], tries, 0⟩
def batch1 : Batch := ⟨0, 0, batchState.bytesAt (poolAddr 0 0) 128, List.replicate 64 0, 0, 0, 0, [(0, 3)], 0⟩
def chan1 (tries : Nat) : Chan := ⟨0, 0, 0, 0, [], [read1 tries], [], 64, [(0, 64)], [], true, 2, 0, [⟨0, 0⟩], 0, 0, 0, false, false, false⟩
def chanState (tries : Nat) : State := { live with batches := [batch1], chans := [(3, some (chan1 tries))] }

theorem wit_IngestCommandsAct_rto : ∀ n ∈ [1, 256],
    let s := chanState n
    s.frozen = false ∧ s.chan 3 = some (chan1 n) ∧ s.batchOf (chan1 n) = some batch1 ∧
    ((chan1 n).reads.find? fun r => r.tag == 7) = some (read1 n) ∧ (n = 1 → 1 ≤ s.rd Pg.wharf Reg.Wharf.RETRY_MAX) ∧
    (n = 256 → s.rd Pg.wharf Reg.Wharf.RETRY_MAX < 256) ∧ (read1 n).port < 2 ∧ s.rd (Pg.ingest 0) Reg.Common.FC_VALID = 0 := by
  decide +kernel
theorem wit_IngestCommandsAct_entropy : on.still = false ∧ on.batches = [] ∧ (∀ b ∈ (chanState 1).batches, (chanState 1).towMode b.pol ≠ 3) ∧ on.entropyNext 0 = none ∧
    (chanState 1).still = false ∧ (chanState 1).entropyNext 0 = some 3 := by decide +kernel
theorem wit_IngestCommandsAct_picture :
    let s := chanState 1
    let d := batchDesc batch1.desc
    s.still = false ∧ s.chan 3 = some (chan1 1) ∧ s.batchOf (chan1 1) = some batch1 ∧ (chan1 1).pics.head? = some ⟨0, 0⟩ ∧
    (chan1 1).failed = false ∧ (chan1 1).isOver = false ∧ s.writesHeld (d.slotAt 3 0) d.picb = false ∧
    (chan1 1).uses 0 ≠ [] ∧ s.outArmed 3 = false ∧ s.unitArmed 3 = false := by decide +kernel
theorem serving_on : Serving on := ⟨by rfl, by rfl, by rfl⟩
theorem wit_IngestCommandsAct_probe : Serving on ∧ on.gather = [] ∧
    (0 : Word).toNat < on.rd Pg.wharf Reg.Wharf.PQ_NM1 + 1 := ⟨serving_on, by decide +kernel⟩

/-! Observability and replay. -/

/-- No counter is in a snapshot while no register has been written. -/
theorem snapEntry_reset (s : State) (h : s.regs = []) (n : Nat) : s.snapEntry n = [] := by
  have field : ∀ i, i < 8 → s.rd n Reg.Common.EVSEL_SNAP [i] = 0 := by
    intro i hi
    have hw : s.word n (Reg.Common.EVSEL_SNAP.off [i]) = 0 := by
      have ho : Reg.Common.EVSEL_SNAP.off [i] = 0x20 + 4 * i := by simp [FieldSpec.off, Reg.Common.EVSEL_SNAP]
      have h1 : (n * 1024 + (0x20 + 4 * i) / 4) / 1024 = n := by omega
      have h2 : (n * 1024 + (0x20 + 4 * i) / 4) % 1024 * 4 = 0x20 + 4 * i := by omega
      simp only [State.word, h, sget, ho, resetReg, regKey, h1, h2]
      rw [if_pos (by omega)]
      unfold resetLive fieldsAt
      cases pageKind n with
      | none => rfl
      | some k =>
        obtain rfl | rfl | rfl | rfl | rfl | rfl | rfl | rfl :
            i = 0 ∨ i = 1 ∨ i = 2 ∨ i = 3 ∨ i = 4 ∨ i = 5 ∨ i = 6 ∨ i = 7 := by omega
        all_goals rfl
    rw [State.rd, hw]
    decide
  have mask : s.snapMask n = 0 := by
    simp [State.snapMask, List.range_succ, field]
  have stall : s.rd Pg.trace Reg.Trace.SNAP_STALL = 0 := by
    simp only [State.rd, State.word, h, sget]
    decide +kernel
  simp [State.snapEntry, mask, stall]

theorem wit_TraceReplayAndManifestAct_snap :
    let s : State := { on with snapTrig := 1 }
    let pl := allPages.flatMap s.snapEntry
    Serving on ∧ on.gather = [] ∧ s.frozen = false ∧ s.snapTrig ≠ 0 ∧ s.traceUsed + recordBytes pl + 1048576 ≤ traceSize := by
  intro s pl
  have h : pl = [] := List.flatMap_eq_nil_iff.mpr fun n _ => snapEntry_reset s rfl n
  rw [h]
  exact ⟨serving_on, rfl, rfl, by decide, by decide +kernel⟩

/-- A record so long that 1 MiB would not stay free beside any other. -/
def longRec : TraceRec := ⟨false, 0, List.replicate 8388608 0⟩

theorem traceUsed_one (s : State) (r : TraceRec) (h : s.trace = [r]) : s.traceUsed = r.bytes.length := by
  simp [State.traceUsed, h]

theorem wit_TraceReplayAndManifestAct_lost :
    let s : State := { on with snapTrig := 1, trace := [longRec] }
    s.frozen = false ∧ s.snapTrig ≠ 0 ∧ traceSize < s.traceUsed + recordBytes (allPages.flatMap s.snapEntry) + 1048576 := by
  refine ⟨rfl, by decide, ?_⟩
  have h : longRec.bytes.length = 8388608 := List.length_replicate
  rw [traceUsed_one _ longRec rfl, h]
  show 8388608 < _
  omega

/-- A record of 32 bytes to drain to a ring of 64 KiB, of the host (DEST 2) or in SST (DEST 1). -/
def drainRec : TraceRec := ⟨false, 0, List.replicate 32 0⟩
def drained (dest : Nat) : State :=
  let s : State := { on with trace := [drainRec] }
  ((s.wr Pg.trace Reg.Trace.DEST [] dest).wr Pg.trace Reg.Trace.RING_LOG2 [] 16).wr2 Pg.trace Reg.Trace.RING_LO Reg.Trace.RING_HI [] sstBase

theorem wit_TraceReplayAndManifestAct_drainHost :
    let s := drained 2
    let w := min s.ringSize (2 ^ 32)
    s.still = false ∧ s.trace = [drainRec] ∧ s.rd Pg.trace Reg.Trace.DEST = 2 ∧ s.cxlUp = true ∧
    32 ≤ (s.rd Pg.trace Reg.Trace.RING_TAIL + 2 * w - s.ringHead % w - 1) % w ∧ s.ringHead + 32 ≤ s.ringSize := by decide +kernel
theorem wit_TraceReplayAndManifestAct_drainModule : ∀ wrap ∈ [0, 1],
    let s := (drained 1).wr Pg.trace Reg.Trace.WRAP [] wrap
    s.still = false ∧ s.trace = [drainRec] ∧ s.rd Pg.trace Reg.Trace.DEST = 1 ∧ s.uncopied = [] ∧ s.stalled = [] ∧ (∀ e ∈ s.hubCmp, e.1 < 1088) ∧
    (∀ e ∈ s.streams, e.1 < 2048) ∧ (s.rd Pg.trace Reg.Trace.WRAP = 1 ∨ s.ringRecs.sum + 32 ≤ s.ringSize) ∧
    (∀ i, i < 32 / 32 → s.phys (s.ringBase % 2 ^ 48 + (s.ringHead + 32 * i) % s.ringSize) ≠ none) := by decide +kernel

/-- A recorded host signal to landing 4: INC 3, ADV 1; it lies at pool offset 0, and polder 0 replays. -/
def replayState : State :=
  let s := pooled live [(0x300000000000, 0x05), (0x300000000004, 0x0C), (0x30000000001C, 0xB9), (0x30000000001D, 0x55),
    (0x30000000001E, 0xD6), (0x30000000001F, 0x6A), (0x300000000020, 0x04), (0x300000000024, 0x03), (0x300000000028, 0x01)]
  (s.wr Pg.trace Reg.Trace.MODE [0] 3).wr2 Pg.trace Reg.Trace.RPL_LO Reg.Trace.RPL_HI [0] (poolAddr 0 0)

theorem wit_TraceReplayAndManifestAct_replay :
    let s := replayState
    let r : Record := ⟨0, 5, 0, 0, 0, 0, natBytes 4 4 ++ natBytes 4 3 ++ natBytes 4 1, true⟩
    s.still = false ∧ s.towMode 0 = 3 ∧ s.nextRecord 0 [0x04, 0x05] = some r ∧ s.reached 0 r = true ∧ r.good = true ∧ r.type = 0x05 ∧
    s.gather = [] := by decide +kernel

theorem wit_TraceReplayAndManifestAct_go :
    (on.wr Pg.manifest Reg.Manifest.BUSY [0] 1).rd Pg.manifest Reg.Manifest.BUSY [0] = 1 ∧
    on.rd Pg.manifest Reg.Manifest.BUSY [0] ≠ 1 ∧
    on.ownMemory 0 (on.rd2 Pg.manifest Reg.Manifest.JOB_LO Reg.Manifest.JOB_HI [0] / 64 * 64) 64 = false := by decide +kernel

/-- A manifest job of one written region of 64 bytes, its list behind its descriptor at pool offset 0. -/
def mfState : State :=
  (pooled live [(0x300000000000, 0x10), (0x300000000008, 0x40), (0x30000000000C, 0x04), (0x30000000000D, 0x01),
    (0x30000000001D, 0x01), (0x300000040005, 0x01), (0x300000040008, 0x40)]).wr2 Pg.manifest Reg.Manifest.JOB_LO
      Reg.Manifest.JOB_HI [0] (poolAddr 0 0)

theorem wit_TraceReplayAndManifestAct_goes : Serving mfState ∧ mfState.gather = [] ∧
    mfState.rd Pg.manifest Reg.Manifest.BUSY [0] ≠ 1 ∧ mfState.mfClear 0 ∧
    (mfState.mfList (leAt (mfState.bytesAt (mfState.mfDesc 0) 64) 8 6) 1).map mfRegion = [(sstBase, 64, false)] :=
  ⟨⟨by rfl, by rfl, by rfl⟩, by rfl, by decide +kernel,
    ⟨by decide +kernel, by decide +kernel, by decide +kernel, by decide +kernel, by decide +kernel, by decide +kernel,
      by decide +kernel, by decide +kernel⟩, by decide +kernel⟩

/-! Snapshots, recovery and programs. -/

/-- An active snapshot with one granule, not yet copied or copied. -/
def snapping (un : List (Nat × Nat)) : State :=
  { live with
    snaps := { Snap.none with active := true, body := [(sstBase, false)] } :: List.replicate 3 Snap.none
    uncopied := un }

theorem wit_StaitheAndLoaderAct_copy : ∀ un ∈ [[], [(0, sstBase / 65536)]],
    let s := snapping un
    s.still = false ∧ (s.polder 0).cutDue = false ∧ (s.snap 0).active = true ∧
    s.snapEnds 0 = false ∧ s.nextUncopied 0 = if un = [] then none else some 0 := by decide +kernel

/-- A snapshot that is whole, its partner given up. -/
theorem wit_StaitheAndLoaderAct_ends :
    let s : State := { live with snaps := { Snap.none with active := true, whole := true } :: List.replicate 3 Snap.none }
    s.still = false ∧ (s.polder 0).cutDue = false ∧ (s.snap 0).active = true ∧ s.snapEnds 0 = true := by decide +kernel

theorem wit_StaitheAndLoaderAct_cow :
    let s : State := { held [] (some .cow) none false with stalled := [⟨sstBase, [some 1], false, 0, 0, 0, none, 0⟩] }
    s.frozen = false ∧ s.hold.now = some .cow ∧ s.stalled ≠ [] := by decide +kernel
theorem serving_live : Serving live := ⟨by rfl, by rfl, by rfl⟩
theorem wit_StaitheAndLoaderAct_refused : Serving live ∧ Serving on ∧ live.gather = [] ∧ live.moves = [] ∧ live.cxlUp = true ∧
    live.runState 0 = 3 ∧ on.runState 0 = 0 ∧ on.rd (Pg.staithe 0) Reg.Staithe.SBUSY = 0 ∧
    (on.wr (Pg.staithe 0) Reg.Staithe.SBUSY [] 1).rd (Pg.staithe 0) Reg.Staithe.SBUSY = 1 ∧ on.shardMagic (on.rsrc 0) = false :=
  ⟨serving_live, serving_on, by decide +kernel⟩
theorem wit_StaitheAndLoaderAct_load : 0 < on.npolders ∧ on.loads = [] ∧
    (let u := on.hostStage (Pg.program 0) 0x110 (on.word (Pg.program 0) 0x810)
     u.loadFree 0 = true ∧ u.loads = []) := by decide +kernel

/-- An image and parameters at pool offset 0, without the magic. -/
def imageState : State :=
  let s := pooled { on with polders := live.polders, regs := live.regs } [(0x300000000008, 64)]
  (s.wr2 (Pg.program 0) Reg.Program.IMG_LO Reg.Program.IMG_HI [] (poolAddr 0 0)).wr2 (Pg.program 0) Reg.Program.PARAM_LO
    Reg.Program.PARAM_HI [] (poolAddr 0 0x1000)
theorem wit_StaitheAndLoaderAct_badImage :
    let s := imageState
    let g := Pg.program 0
    let a := s.rd2 g Reg.Program.IMG_LO Reg.Program.IMG_HI
    let b := s.rd2 g Reg.Program.PARAM_LO Reg.Program.PARAM_HI
    s.populated a 16 = true ∧ s.populated a (s.numAt (a + 8) 8) = true ∧ s.populated b 0x20 = true ∧
    s.populated b (0x20 + 8 * s.numAt (b + 0x10) 4) = true ∧ s.staleIn [(a, s.numAt (a + 8) 8), (b, 0x20 + 8 * s.numAt (b + 0x10) 4)] = none ∧
    leAt (s.bytesAt a (s.numAt (a + 8) 8)) 0 4 ≠ 0xA110D724 := by
  decide +kernel

/-- An accepted image of one section of one window entry, SST's first page for core 0, at pool offset 0; its digest is computed
by hand. -/
def goodImage : Sparse Byte :=
  [(0x300000000000, 0x24), (0x300000000001, 0xD7), (0x300000000002, 0x10), (0x300000000003, 0xA1),
   (0x300000000004, 0x01), (0x300000000006, 0x01), (0x300000000008, 0x30), (0x300000000009, 0x01),
   (0x300000000010, 0x01), (0x300000000020, 0x69), (0x300000000021, 0x01), (0x300000000022, 0xC7),
   (0x300000000023, 0x5F), (0x300000000024, 0xC3), (0x300000000025, 0x8B), (0x300000000026, 0xBB),
   (0x300000000027, 0x2A), (0x300000000028, 0x76), (0x300000000029, 0x44), (0x30000000002A, 0x55),
   (0x30000000002B, 0x96), (0x30000000002C, 0x0D), (0x30000000002D, 0xE9), (0x30000000002E, 0x63),
   (0x30000000002F, 0x03), (0x300000000030, 0x66), (0x300000000031, 0xD0), (0x300000000032, 0xC1),
   (0x300000000033, 0x47), (0x300000000034, 0xA2), (0x300000000035, 0x57), (0x300000000036, 0x90),
   (0x300000000037, 0x05), (0x300000000038, 0x24), (0x300000000039, 0x26), (0x30000000003A, 0x74),
   (0x30000000003B, 0x6B), (0x30000000003C, 0x8A), (0x30000000003D, 0x42), (0x30000000003E, 0x7E),
   (0x30000000003F, 0x43), (0x300000100000, 0x04), (0x300000100001, 0xFF), (0x300000100002, 0xFF),
   (0x300000100008, 0x20), (0x300000100009, 0x01), (0x300000100010, 0x10), (0x300000100025, 0x01),
   (0x30000010002E, 0x03)]
def goodState : State :=
  let s := pooled { on with polders := live.polders, regs := live.regs } goodImage
  (s.wr2 (Pg.program 0) Reg.Program.IMG_LO Reg.Program.IMG_HI [] (poolAddr 0 0)).wr2 (Pg.program 0) Reg.Program.PARAM_LO
    Reg.Program.PARAM_HI [] (poolAddr 0 0x1000)
theorem wit_StaitheAndLoaderAct_goodImage :
    let s := goodState
    let g := Pg.program 0
    let a := s.rd2 g Reg.Program.IMG_LO Reg.Program.IMG_HI
    let b := s.rd2 g Reg.Program.PARAM_LO Reg.Program.PARAM_HI
    let n := s.numAt (a + 8) 8
    let m := 0x20 + 8 * s.numAt (b + 0x10) 4
    let img := s.bytesAt a n
    let digest := sha256 (img.take 0x20 ++ (List.replicate 32 0).take (img.length - 0x20) ++ img.drop 0x40)
    s.populated a 16 = true ∧ s.populated a n = true ∧ s.populated b 0x20 = true ∧ s.populated b m = true ∧
    s.staleIn [(a, n), (b, m)] = none ∧
    s.loadErr 0 img digest ⟨s.numAt b 4, s.numAt (b + 4) 4 % 8192, s.numAt (b + 8) 8, s.numAt (b + 0x10) 4⟩ = 0 ∧
    (∀ x ∈ sectsOf img, x.placed = false) ∧ n = 0x130 := by
  decide +kernel

/-! A shard that passes every check of R378, with its digest and check values kept as names. -/

/-- One side word of the shard: check value and PRESENT of block `n` of SST die 0. -/
def sideOf (cv : Nat → Nat) (n : Nat) : Sparse Byte :=
  let b := 2 ^ 45 + n % 2 * 2 ^ 32 + n / 2 * 32
  [(b, BitVec.ofNat 8 (cv n)), (b + 1, BitVec.ofNat 8 (cv n / 256)), (b + 2, BitVec.ofNat 8 (cv n / 65536)),
   (b + 3, BitVec.ofNat 8 (cv n / 16777216)), (b + 4, 1)]

/-- A shard of one body granule at the beginning of SST die 0: header with MAGIC, VERSION, NSHARD 1 and digest `dg`, all else zero. -/
def shardMem (dg : Nat → Byte) (cv : Nat → Nat) : Sparse Byte :=
  [(2 ^ 44, 0x4D), (2 ^ 44 + 1, 0x7E), (2 ^ 44 + 2, 0xA1), (2 ^ 44 + 3, 0x57), (2 ^ 44 + 4, 1), (2 ^ 44 + 0x16, 1)]
    ++ (List.range 32).map (fun i => (2 ^ 44 + 2 ^ 25 + 32 + i, dg i)) ++ (List.range 32).flatMap (sideOf cv)

/-- Polder 0 is HALTED, and RSRC names SST's first byte. -/
def shardBase : State :=
  (on.wr (Pg.program 0) Reg.Program.STATE [] 2).wr2 (Pg.staithe 0) Reg.Staithe.RSRC_LO Reg.Staithe.RSRC_HI [] sstBase
def shardState (dg : Nat → Byte) (cv : Nat → Nat) : State := { shardBase with mem := shardMem dg cv }

theorem sget_append (l r : Sparse Byte) (k : Nat) (h : ∀ e ∈ l, e.1 ≠ k) : sget memDefault (l ++ r) k = sget memDefault r k := by
  induction l with
  | nil => rfl
  | cons e l ih =>
    rw [List.cons_append, sget, if_neg (h e (by simp)), ih fun x hx => h x (by simp [hx])]

theorem sget_append_left (l r : Sparse Byte) (k : Nat) (h : ∃ e ∈ l, e.1 = k) :
    sget memDefault (l ++ r) k = sget memDefault l k := by
  induction l with
  | nil => simp at h
  | cons e l ih =>
    rw [List.cons_append, sget, sget]
    by_cases hk : e.1 = k
    · rw [if_pos hk, if_pos hk]
    · rw [if_neg hk, if_neg hk, ih]
      obtain ⟨x, hx, he⟩ := h
      obtain rfl | hx := List.mem_cons.mp hx
      · exact absurd he hk
      · exact ⟨x, hx, he⟩

theorem sget_none (l : Sparse Byte) (k : Nat) (h : ∀ e ∈ l, e.1 ≠ k) : sget memDefault l k = 0 := by
  simpa [sget, memDefault] using sget_append l [] k h

theorem sget_flatMap (f : Nat → Sparse Byte) (l : List Nat) (n k : Nat) (hn : n ∈ l) (ho : ∀ m ∈ l, m ≠ n → ∀ e ∈ f m, e.1 ≠ k)
    (hk : ∃ e ∈ f n, e.1 = k) : sget memDefault (l.flatMap f) k = sget memDefault (f n) k := by
  induction l with
  | nil => simp at hn
  | cons m l ih =>
    rw [List.flatMap_cons]
    by_cases hm : m = n
    · subst hm
      exact sget_append_left _ _ _ hk
    · rw [sget_append _ _ _ (ho m (by simp) hm), ih ((List.mem_cons.mp hn).resolve_left (Ne.symm hm)) fun x hx => ho x (by simp [hx])]

/-- Where the shard's listed bytes lie. -/
theorem shard_keys {dg : Nat → Byte} {cv : Nat → Nat} : ∀ e ∈ shardMem dg cv,
    (e.1 = 2 ^ 44 ∨ e.1 = 2 ^ 44 + 1 ∨ e.1 = 2 ^ 44 + 2 ∨ e.1 = 2 ^ 44 + 3 ∨ e.1 = 2 ^ 44 + 4 ∨ e.1 = 2 ^ 44 + 0x16) ∨
    (2 ^ 44 + 2 ^ 25 + 32 ≤ e.1 ∧ e.1 < 2 ^ 44 + 2 ^ 25 + 64) ∨ 2 ^ 45 ≤ e.1 := by
  intro e he
  simp only [shardMem, List.mem_append, List.mem_cons, List.not_mem_nil, or_false, List.mem_map, List.mem_range, List.mem_flatMap,
    sideOf] at he
  obtain (h | ⟨i, hi, rfl⟩) | ⟨n, -, h⟩ := he
  · obtain rfl | rfl | rfl | rfl | rfl | rfl := h <;> simp
  · right; left; constructor <;> dsimp only <;> omega
  · right; right
    obtain rfl | rfl | rfl | rfl | rfl := h <;> dsimp only <;> omega

/-- A byte of the shard's header. -/
def hdrByte (dg : Nat → Byte) (o : Nat) : Byte :=
  if o = 0 then 0x4D else if o = 1 then 0x7E else if o = 2 then 0xA1 else if o = 3 then 0x57 else if o = 4 then 1
  else if o = 0x16 then 1 else if 96 ≤ o ∧ o < 128 then dg (o - 96) else 0

theorem shard_spares : ∀ i, i < 2 → 64 ≤ shardBase.rd (Pg.die 0) Reg.Die.SPARE_A_FOR [i] ∧
    64 ≤ shardBase.rd (Pg.die 0) Reg.Die.SPARE_B_FOR [i] := by decide +kernel

theorem shard_phys {dg : Nat → Byte} {cv : Nat → Nat} {o : Nat} (ho : o < 131072) :
    (shardState dg cv).phys (sstBase + o) =
      some (2 ^ 44 + o / 4096 % 2 * 2 ^ 32 + o / 64 % 64 * 2 ^ 25 + o / 8192 * 64 + o % 64) := by
  have hr : regionOf (sstBase + o) = .sst := by
    rw [regionOf, if_neg (by simp only [sstBase]; omega), if_pos (by simp only [sstBase]; omega)]
  have hd : bits o 33 32 = 0 := by simp only [bits]; omega
  have hs : bits o 12 12 < 2 := by simp only [bits]; omega
  have hb : bits o 11 6 < 64 := by simp only [bits]; omega
  have hk : (shardState dg cv).sstBank 0 (bits o 12 12) (bits o 11 6) = bits o 11 6 := by
    have h := shard_spares _ hs
    show (if shardBase.rd (Pg.die 0) Reg.Die.SPARE_A_FOR [bits o 12 12] = bits o 11 6 then 64
      else if shardBase.rd (Pg.die 0) Reg.Die.SPARE_B_FOR [bits o 12 12] = bits o 11 6 then 65 else bits o 11 6) = _
    rw [if_neg (by omega), if_neg (by omega)]
  simp only [State.phys, hr, Nat.add_sub_cancel_left, hd, hk, sstPhys]
  simp only [bits]
  congr 1
  omega

theorem shard_byte {dg : Nat → Byte} {cv : Nat → Nat} {o : Nat} (ho : o < 131072) :
    (shardState dg cv).byteAt (sstBase + o) = hdrByte dg o := by
  rw [State.byteAt, shard_phys ho]
  show sget memDefault (shardMem dg cv) _ = _
  rw [hdrByte]
  by_cases h : 96 ≤ o ∧ o < 128
  · have e1 : o / 4096 % 2 = 0 := by omega
    have e2 : o / 64 % 64 = 1 := by omega
    have e3 : o / 8192 = 0 := by omega
    have e4 : o % 64 = 32 + (o - 96) := by omega
    have hi : o - 96 < 32 := by omega
    iterate 6 rw [if_neg (by omega)]
    rw [if_pos h, e1, e2, e3, e4]
    generalize o - 96 = i at hi
    rw [shardMem, sget_append_left _ _ _ ⟨(2 ^ 44 + 2 ^ 25 + 32 + i, dg i), by
      exact List.mem_append_right _ (List.mem_map.mpr ⟨i, List.mem_range.mpr hi, rfl⟩), by dsimp only; omega⟩, sget_append _ _ _ (by
      intro e he
      simp only [List.mem_cons, List.not_mem_nil, or_false] at he
      obtain rfl | rfl | rfl | rfl | rfl | rfl := he <;> dsimp only <;> omega)]
    rw [show (List.range 32).map (fun i => ((2 ^ 44 + 2 ^ 25 + 32 + i, dg i) : Nat × Byte)) =
      (List.range 32).flatMap fun i => [((2 ^ 44 + 2 ^ 25 + 32 + i, dg i) : Nat × Byte)] from List.map_eq_flatMap]
    rw [sget_flatMap _ _ i _ (by simp [hi]) (by
      intro m _ hm e he
      rw [List.mem_singleton] at he
      subst he
      dsimp only
      omega) ⟨_, List.mem_singleton.mpr rfl, by dsimp only; omega⟩]
    rw [sget, if_pos (by dsimp only; omega)]
  · by_cases h0 : o < 64
    · have e : 2 ^ 44 + o / 4096 % 2 * 2 ^ 32 + o / 64 % 64 * 2 ^ 25 + o / 8192 * 64 + o % 64 = 2 ^ 44 + o := by omega
      rw [e]
      by_cases hk : o = 0 ∨ o = 1 ∨ o = 2 ∨ o = 3 ∨ o = 4 ∨ o = 0x16
      · obtain rfl | rfl | rfl | rfl | rfl | rfl := hk <;> rfl
      · iterate 6 rw [if_neg (by omega)]
        rw [if_neg h, sget_none]
        intro e he
        have := shard_keys e he
        omega
    · iterate 6 rw [if_neg (by omega)]
      rw [if_neg h, sget_none]
      intro e he
      have := shard_keys e he
      intro hk
      have h1 : o / 4096 % 2 < 2 := by omega
      have h2 : o / 64 % 64 < 64 := by omega
      have h3 : o % 64 < 64 := by omega
      have h4 : o / 4096 % 2 = 0 → o / 64 % 64 = 1 → o / 8192 = 0 → 32 ≤ o % 64 → False := by
        intro a b c d
        have : o < 4096 := by omega
        omega
      have h6 : o / 4096 % 2 = 0 → o / 64 % 64 = 0 → o / 8192 = 0 → False := by omega
      have h5 : o / 8192 < 16 := by omega
      generalize o / 4096 % 2 = x at *
      generalize o / 64 % 64 = y at *
      generalize o / 8192 = z at *
      generalize o % 64 = w at *
      rcases this with this | this | this
      · exact h6 (by omega) (by omega) (by omega)
      · exact h4 (by omega) (by omega) (by omega) (by omega)
      · omega

theorem shard_bytes {dg : Nat → Byte} {cv : Nat → Nat} {o n : Nat} (ho : o + n ≤ 131072) :
    (shardState dg cv).bytesAt (sstBase + o) n = (List.range n).map fun i => hdrByte dg (o + i) := by
  rw [State.bytesAt]
  refine List.map_congr_left fun i hi => ?_
  have := List.mem_range.mp hi
  rw [show (sstBase + o + i) % 2 ^ 48 = sstBase + (o + i) by simp only [sstBase]; omega]
  exact shard_byte (by omega)

theorem shard_zeros {dg : Nat → Byte} {cv : Nat → Nat} {o n : Nat} (h0 : 128 ≤ o) (ho : o + n ≤ 131072) :
    (shardState dg cv).bytesAt (sstBase + o) n = List.replicate n 0 := by
  rw [shard_bytes ho]
  refine List.eq_replicate_iff.mpr ⟨by simp, fun b hb => ?_⟩
  obtain ⟨i, -, rfl⟩ := List.mem_map.mp hb
  rw [hdrByte]
  iterate 6 rw [if_neg (by omega)]
  rw [if_neg (by omega)]

/-! The check values. -/

theorem crcByte_lt {c : Nat} (b : Byte) (h : c < 2 ^ 32) : crcByte c b < 2 ^ 32 := by
  have bit : ∀ {c : Nat}, c < 2 ^ 32 → crcBit c < 2 ^ 32 := by
    intro c h
    rw [crcBit]
    split
    · exact Nat.xor_lt_two_pow (by omega) (by omega)
    · omega
  have : c ^^^ b.toNat < 2 ^ 32 := Nat.xor_lt_two_pow h (by omega)
  exact bit (bit (bit (bit (bit (bit (bit (bit this)))))))

theorem crc_lt (bs : List Byte) (c : Nat) (h : c < 2 ^ 32) : bs.foldl crcByte c < 2 ^ 32 := by
  induction bs generalizing c with
  | nil => exact h
  | cons b r ih => exact ih _ (crcByte_lt b h)

theorem checkValue_lt (a : Nat) (bs : List Byte) : checkValue a bs < 2 ^ 32 :=
  Nat.xor_lt_two_pow (Nat.xor_lt_two_pow (crc_lt bs _ (by omega)) (by omega)) (by simp only [bits]; omega)

/-- The block `n` of a shard with header digest `dg`. -/
def blockBytes (dg : Nat → Byte) (n : Nat) : List Byte := (List.range 4096).map fun i => hdrByte dg (4096 * n + i)
/-- The check values of such a shard. -/
def shardCv (dg : Nat → Byte) (n : Nat) : Nat := checkValue (sstBase + 4096 * n) (blockBytes dg n)

theorem side_get (cv : Nat → Nat) (dg : Nat → Byte) (n j : Nat) (hn : n < 32) (hj : j < 5) :
    sget memDefault (shardMem dg cv) (2 ^ 45 + n % 2 * 2 ^ 32 + n / 2 * 32 + j) =
      sget memDefault (sideOf cv n) (2 ^ 45 + n % 2 * 2 ^ 32 + n / 2 * 32 + j) := by
  rw [shardMem, sget_append _ _ _ (by
    intro e he
    have h : e.1 < 2 ^ 45 := by
      simp only [List.mem_append, List.mem_cons, List.not_mem_nil, or_false, List.mem_map, List.mem_range] at he
      obtain h | ⟨i, hi, rfl⟩ := he
      · obtain rfl | rfl | rfl | rfl | rfl | rfl := h <;> dsimp only <;> omega
      · dsimp only; omega
    omega)]
  refine sget_flatMap _ _ n _ (List.mem_range.mpr hn) ?_ ?_
  · intro m hl hm e he
    have := List.mem_range.mp hl
    simp only [sideOf, List.mem_cons, List.not_mem_nil, or_false] at he
    obtain rfl | rfl | rfl | rfl | rfl := he <;> dsimp only <;> omega
  · obtain rfl | rfl | rfl | rfl | rfl : j = 0 ∨ j = 1 ∨ j = 2 ∨ j = 3 ∨ j = 4 := by omega
    all_goals simp [sideOf]

theorem le4 (v : Nat) (h : v < 2 ^ 32) : bytesNat [BitVec.ofNat 8 v, BitVec.ofNat 8 (v / 256), BitVec.ofNat 8 (v / 65536),
    BitVec.ofNat 8 (v / 16777216)] = v := by
  simp only [bytesNat, BitVec.toNat_ofNat]
  omega

theorem shard_verify (dg : Nat → Byte) (n : Nat) (hn : n < 32) : (shardState dg (shardCv dg)).verify (sstBase + 4096 * n) = .ok := by
  have ha : (shardState dg (shardCv dg)).sideAddr (sstBase + 4096 * n) =
      some (2 ^ 45 + n % 2 * 2 ^ 32 + n / 2 * 32, 2 ^ 45 + n % 2 * 2 ^ 32 + n / 2 * 32 + 4, 0) := by
    have hr : regionOf (sstBase + 4096 * n) = .sst := by
      rw [regionOf, if_neg (by simp only [sstBase]; omega), if_pos (by simp only [sstBase]; omega)]
    simp only [State.sideAddr, hr, Nat.add_sub_cancel_left, bits]
    have e1 : 4096 * n / 2 ^ 32 % 2 ^ (33 - 32 + 1) = 0 := by omega
    have e2 : 4096 * n / 2 ^ 12 % 2 ^ (12 - 12 + 1) = n % 2 := by omega
    have e3 : 4096 * n / 2 ^ 13 % 2 ^ (31 - 13 + 1) = n / 2 := by omega
    have e4 : 2 * 2 ^ 44 + 0 * 2 ^ 33 + n % 2 * 2 ^ 32 + n / 2 * 2 ^ 5 = 2 ^ 45 + n % 2 * 2 ^ 32 + n / 2 * 32 := by omega
    rw [e1, e2, e3, e4]
  have g : ∀ j, j < 5 → (shardState dg (shardCv dg)).peek (2 ^ 45 + n % 2 * 2 ^ 32 + n / 2 * 32 + j) =
      sget memDefault (sideOf (shardCv dg) n) (2 ^ 45 + n % 2 * 2 ^ 32 + n / 2 * 32 + j) := fun j hj => side_get _ _ _ _ hn hj
  generalize hb : 2 ^ 45 + n % 2 * 2 ^ 32 + n / 2 * 32 = b at ha g
  have hs : (shardState dg (shardCv dg)).sideWord (sstBase + 4096 * n) = (shardCv dg n, true) := by
    have h4 := g 4 (by omega)
    have hv : shardCv dg n < 2 ^ 32 := checkValue_lt _ _
    have v : bytesNat ((List.range 4).map fun j => (shardState dg (shardCv dg)).peek (b + j)) = shardCv dg n := by
      have h0 := g 0 (by omega)
      rw [Nat.add_zero] at h0
      have h1 := g 1 (by omega)
      have h2 := g 2 (by omega)
      have h3 := g 3 (by omega)
      simp only [sideOf, hb] at h0 h1 h2 h3
      rw [show (List.range 4).map (fun j => (shardState dg (shardCv dg)).peek (b + j)) = [BitVec.ofNat 8 (shardCv dg n),
          BitVec.ofNat 8 (shardCv dg n / 256), BitVec.ofNat 8 (shardCv dg n / 65536), BitVec.ofNat 8 (shardCv dg n / 16777216)] by
        simp [sget, List.range_succ, h0, h1, h2, h3]]
      exact le4 _ hv
    rw [State.sideWord, ha]
    simp only [v, h4, sideOf, hb, sget]
    simp
  have hbytes : (shardState dg (shardCv dg)).bytesAt (sstBase + 4096 * n) 4096 = blockBytes dg n := shard_bytes (by omega)
  rw [State.verify, hs, hbytes, if_neg (by simp)]
  exact if_pos (shardCv.eq_1 dg n)

theorem shard_blocksOk (dg : Nat → Byte) (k : Nat) (h : k < 32) : (shardState dg (shardCv dg)).blocksOk sstBase (4096 * (k + 1)) = true := by
  rw [State.blocksOk, List.all_eq_true]
  intro i hi
  have := List.mem_range.mp hi
  have hi : i < 32 := by simp only [sstBase] at this; omega
  rw [show (sstBase / 4096 + i) * 4096 = sstBase + 4096 * i by simp only [sstBase]; omega, shard_verify dg i hi]
  rfl

/-! The digest. -/

theorem shaBlock_length (h : List Nat) (b : List Byte) : (shaBlock h b).length = 8 := rfl

theorem shaFold_length (bs : List (List Byte)) (h : List Nat) (hl : h.length = 8) : (bs.foldl shaBlock h).length = 8 := by
  induction bs generalizing h with
  | nil => exact hl
  | cons b r ih => exact ih _ (shaBlock_length h b)

theorem natBytes_length (n v : Nat) : (natBytes n v).length = n := by
  induction n generalizing v with
  | zero => rfl
  | succ n ih => rw [natBytes, List.length_cons, ih]

theorem sha256_length (m : List Byte) : (sha256 m).length = 32 := by
  have h := shaFold_length (chunks 64 ((shaPad m).length / 64 + 1) (shaPad m)) shaH (by decide +kernel)
  rw [sha256]
  generalize (chunks 64 ((shaPad m).length / 64 + 1) (shaPad m)).foldl shaBlock shaH = l at h
  rw [List.length_flatMap, List.map_congr_left (g := fun _ => 4) fun x _ => by rw [beBytes, List.length_reverse, natBytes_length]]
  rw [List.map_const', h]
  rfl

/-- Digest of the shard of zeros, and its bytes. -/
def zeroDigest : List Byte := sha256 (sha256 (List.replicate 0xF000 0) ++ sha256 (List.replicate 65536 0))
def zeroDg (i : Nat) : Byte := zeroDigest.getD i 0
def shard : State := shardState zeroDg (shardCv zeroDg)

theorem header_digest (z : List Byte) (h : z.length = 32) :
    (List.range 32).map (fun i => hdrByte (fun j => z.getD j 0) (0x60 + i)) = z := by
  refine List.ext_getElem (by simp [h]) fun i h1 h2 => ?_
  have hi : i < 32 := by simpa using h1
  rw [List.getElem_map, List.getElem_range, hdrByte]
  iterate 6 rw [if_neg (by omega)]
  rw [if_pos (by omega), Nat.add_sub_cancel_left, List.getD_eq_getElem?_getD, List.getElem?_eq_getElem h2]
  rfl

theorem shard_digest : (List.range 32).map (fun i => hdrByte zeroDg (0x60 + i)) = zeroDigest :=
  header_digest zeroDigest (sha256_length _)

theorem shard_num {o n : Nat} (ho : o + n ≤ 131072) :
    shard.numAt (sstBase + o) n = bytesNat ((List.range n).map fun i => hdrByte zeroDg (o + i)) := by
  rw [State.numAt, shard, shard_bytes ho]

theorem shard_unmapped (a : Nat) (h : a < sstBase) : shard.byteAt a = 0 := by
  have hr : regionOf a = .lpddr := by rw [regionOf, if_pos (by simpa [sstBase] using h)]
  have hp : shard.lpPage a = none := by
    show (let e := (sget (fun _ => 0) shardBase.pmapEff (a / 2 ^ 21)).toNat
      if bits e 0 0 = 1 ∧ bits e 20 6 ≤ 0x41EE then some (bits e 5 1, bits e 20 6) else none) = none
    rw [show shardBase.pmapEff = [] from rfl]
    exact if_neg (by simp [sget, bits])
  rw [State.byteAt, State.phys, hr]
  simp only [hp]

theorem shard_unmapped_bytes (n : Nat) (h : n ≤ sstBase) (a : Nat) (ha : a + n ≤ sstBase) :
    shard.bytesAt a n = List.replicate n 0 := by
  rw [State.bytesAt]
  refine List.eq_replicate_iff.mpr ⟨by simp, fun b hb => ?_⟩
  obtain ⟨i, hi, rfl⟩ := List.mem_map.mp hb
  have := List.mem_range.mp hi
  exact shard_unmapped _ (by simp only [sstBase] at *; omega)

theorem shard_body : shard.shardBody 0 sstBase = [(0, false, sstBase + 65536)] := by
  have hr : shard.rd2 (Pg.staithe 0) Reg.Staithe.RTAB_LO Reg.Staithe.RTAB_HI = 0 :=
    (by decide +kernel : shardBase.rd2 (Pg.staithe 0) Reg.Staithe.RTAB_LO Reg.Staithe.RTAB_HI = 0)
  have hn : shard.rd (Pg.staithe 0) Reg.Staithe.NREG = 0 := (by decide +kernel : shardBase.rd (Pg.staithe 0) Reg.Staithe.NREG = 0)
  have n8 : shard.numAt 0 8 = 0 := by rw [State.numAt, shard_unmapped_bytes 8 (by simp [sstBase]) 0 (by simp [sstBase])]; rfl
  have n4 : shard.numAt 8 4 = 0 := by rw [State.numAt, shard_unmapped_bytes 4 (by simp [sstBase]) 8 (by simp [sstBase])]; rfl
  have n1 : shard.numAt 12 1 = 0 := by rw [State.numAt, shard_unmapped_bytes 1 (by simp [sstBase]) 12 (by simp [sstBase])]; rfl
  have h : shard.region 0 0 = (0, 1, false) := by
    simp only [State.region, hr, Nat.mul_zero, Nat.zero_add, n8, n4, n1]
    rfl
  simp [State.shardBody, State.regions, hn, h, List.range_succ]

theorem shard_populated (n : Nat) (h : n ≤ 131072) : shard.populated sstBase n = true := by
  rw [State.populated, List.all_eq_true]
  intro l hl
  rw [linesOf] at hl
  split at hl
  · simp at hl
  · obtain ⟨i, hi, rfl⟩ := List.mem_map.mp hl
    have := List.mem_range.mp hi
    have e : (sstBase / 64 + i) * 64 % 2 ^ 48 = sstBase + 64 * i := by simp only [sstBase] at *; omega
    rw [e, shard, shard_phys (by simp only [sstBase] at *; omega)]
    rfl

theorem shard_staleTag (a : Nat) : shard.staleTag a = false := by
  have h : shard.tagWindow a = none := by
    rw [State.tagWindow, List.findSome?_eq_none_iff]
    intro w hw
    have he : shard.rd Pg.landings Reg.Landings.EN [w] ≠ 1 :=
      (by decide +kernel : ∀ w ∈ List.range 32, shardBase.rd Pg.landings Reg.Landings.EN [w] ≠ 1) w hw
    exact if_neg fun x => he x.1
  rw [State.staleTag, h, Bool.and_false]

theorem shard_magic : shard.shardMagic sstBase = true := by
  have h4 : shard.numAt sstBase 4 = 0x57A17E4D := (shard_num (o := 0) (by omega)).trans rfl
  have h2 : shard.numAt (sstBase + 4) 2 = 1 := (shard_num (by omega)).trans rfl
  rw [State.shardMagic, h4, h2]
  rfl

theorem shard_runKey : shard.runKey 0 = shardBase.runKey 0 := rfl

theorem wit_StaitheAndLoaderAct_sends : Serving shard ∧ shard.gather = [] ∧ shard.moves = [] ∧ shard.cxlUp = true ∧
    shard.rd (Pg.staithe 0) Reg.Staithe.SBUSY = 0 ∧ shard.rsrc 0 = sstBase ∧ shard.populated sstBase 4096 = true ∧
    shard.shardMagic sstBase = true ∧ shard.blocksOk sstBase 4096 = true ∧ shard.staleTag sstBase = false :=
  ⟨⟨rfl, rfl, rfl⟩, rfl, rfl, rfl, (by decide +kernel : shardBase.rd (Pg.staithe 0) Reg.Staithe.SBUSY = 0),
    (by decide +kernel : shardBase.rsrc 0 = sstBase), shard_populated _ (by omega), shard_magic,
    shard_blocksOk zeroDg 0 (by omega), shard_staleTag _⟩

theorem wit_StaitheAndLoaderAct_restores : shard.runState 0 = 2 ∧ shard.restoreCheck 0 sstBase false = 0 := by
  refine ⟨(by decide +kernel : shardBase.runState 0 = 2), ?_⟩
  have hpd : (List.range 8).flatMap (fun i => natBytes 4 (shard.rd (Pg.program 0) Reg.Program.PROGRAM_DIGEST [i])) = List.replicate 32 0 :=
    (by decide +kernel : (List.range 8).flatMap (fun i => natBytes 4 (shardBase.rd (Pg.program 0) Reg.Program.PROGRAM_DIGEST [i])) =
      List.replicate 32 0)
  have hr : shard.rd2 (Pg.staithe 0) Reg.Staithe.RTAB_LO Reg.Staithe.RTAB_HI = 0 :=
    (by decide +kernel : shardBase.rd2 (Pg.staithe 0) Reg.Staithe.RTAB_LO Reg.Staithe.RTAB_HI = 0)
  have hn : shard.rd (Pg.staithe 0) Reg.Staithe.NREG = 0 := (by decide +kernel : shardBase.rd (Pg.staithe 0) Reg.Staithe.NREG = 0)
  have hs : shard.rd (Pg.staithe 0) Reg.Staithe.RSTEP = 0 := (by decide +kernel : shardBase.rd (Pg.staithe 0) Reg.Staithe.RSTEP = 0)
  have hh : shard.rd (Pg.staithe 0) Reg.Staithe.SHARD = 0 := (by decide +kernel : shardBase.rd (Pg.staithe 0) Reg.Staithe.SHARD = 0)
  have hN : shard.rd (Pg.staithe 0) Reg.Staithe.NSHARD = 1 := (by decide +kernel : shardBase.rd (Pg.staithe 0) Reg.Staithe.NSHARD = 1)
  have hk : (shard.runKey 0).toNat = 0 := (by decide +kernel : (shardBase.runKey 0).toNat = 0)
  have hS : shard.runState 0 ≠ 0 := (by decide +kernel : shardBase.runState 0 ≠ 0)
  have k8 : shard.numAt (sstBase + 8) 8 = 0 := (shard_num (by omega)).trans rfl
  have k4 : shard.numAt (sstBase + 0x10) 4 = 0 := (shard_num (by omega)).trans rfl
  have k2 : shard.numAt (sstBase + 0x14) 2 = 0 := (shard_num (by omega)).trans rfl
  have kN : shard.numAt (sstBase + 0x16) 2 = 1 := (shard_num (by omega)).trans rfl
  have bd : shard.bytesAt (sstBase + 0x40) 32 = List.replicate 32 0 := (shard_bytes (by omega)).trans rfl
  have bt : shard.bytesAt (sstBase + 0x1000) 4096 = List.replicate 4096 0 := shard_zeros (by omega) (by omega)
  have br : shard.bytesAt 0 (16 * (0 + 1)) = List.replicate 16 0 := shard_unmapped_bytes _ (by simp [sstBase]) _ (by simp [sstBase])
  have pad : padTo 4096 (List.replicate 16 0) = List.replicate 4096 0 := by
    rw [padTo, List.take_of_length_le (by simp), List.length_replicate, List.replicate_append_replicate]
  have bh : shard.bytesAt (sstBase + 0x1000) 0xF000 = List.replicate 0xF000 0 := shard_zeros (by omega) (by omega)
  have bb : shard.bytesAt (sstBase + 65536) 65536 = List.replicate 65536 0 := shard_zeros (by omega) (by omega)
  have bg : shard.bytesAt (sstBase + 0x60) 32 = zeroDigest := (shard_bytes (by omega)).trans shard_digest
  have st : shard.staleIn [(sstBase, 65536 * (1 + 1))] = none := by
    rw [State.staleIn, List.find?_eq_none]
    intro a _
    rw [shard_staleTag]
    exact Bool.false_ne_true
  have bo : shard.blocksOk sstBase (65536 * (1 + 1)) = true := shard_blocksOk zeroDg 31 (by omega)
  rw [State.restoreCheck]
  simp only [hpd, hr, hn, hs, hh, hN, hk, k8, k4, k2, kN, bd, bt, br, pad, shard_body, List.length_singleton, shard_magic,
    shard_populated 4096 (by omega), shard_populated (65536 * (1 + 1)) (by omega), bo, st, bh, List.flatMap_singleton, bb, bg]
  rw [if_neg (by simp), if_neg (by simp), if_neg (fun h => h.elim hS fun x => x rfl), if_neg (by simp), if_neg (by simp),
    if_neg (by simp), if_neg (fun h => h rfl), if_neg (by simp)]
  exact if_pos zeroDigest.eq_1.symm

/-! Reliability and polders. -/

/-- Physical core 8 of cluster 1 is the spare; physical core 3 carries a logical core. -/
theorem wit_WearShadowsAndMoves_sound : on.still = false ∧ on.mayAudition (.core 1 8) = true ∧ on.frozen = false := by decide +kernel
theorem wit_WearShadowsAndMoves_states : ∀ w ∈ [0, 1, 2],
    let s := on.wr (Pg.clu 1) Reg.Clu.WSTATE [8] w
    s.still = false ∧ s.mayAudition (.core 1 8) = true ∧ s.wstate 1 8 = w := by decide +kernel

/-- R396: a failed cycle makes an OK core SUSPECT. -/
theorem test_sounding : after (exec (.soundingCycle (.core 1 8) false) on) (fun t => t.wstate 1 8) = some 1 := by decide +kernel

theorem wit_WearShadowsAndMoves_shadow : ∀ sp : SpareId,
    let s := on.wr (Pg.die 2) (if sp.val = 0 then Reg.Die.SHADOW_A else Reg.Die.SHADOW_B) [1] 63
    s.still = false ∧ s.rd (Pg.die 2) (if sp.val = 0 then Reg.Die.SHADOW_A else Reg.Die.SHADOW_B) [1] < 64 ∧
    s.rd (Pg.die 2) (if sp.val = 0 then Reg.Die.SHDONE_A else Reg.Die.SHDONE_B) [1] = 0 ∧
    s.rd (Pg.die 2) (if sp.val = 0 then Reg.Die.SHERR_A else Reg.Die.SHERR_B) [1] = 0 := by decide +kernel

/-- A move of core 8's pool bank 5 from physical core 2 to the spare, with one byte. -/
def move1 : Move := ⟨8, 2, 8, [(physArea 3 1 8 + 5 * 2 ^ 18, 7)], [5], true, false, false⟩
def moveState : State := { on with moves := [move1] }
theorem wit_WearShadowsAndMoves_move : moveState.frozen = false ∧ (moveState.moves.find? fun m => m.core == 8) = some move1 ∧
    move1.held = false ∧ move1.carry = true := by decide +kernel

/-- Moves in a substitution hold, outside which they wait: the last, and one after which another stays. -/
theorem wit_WearShadowsAndMoves_held : (let s : State := { on with moves := [{ move1 with held := true }] }
    s.frozen = false ∧ (s.moves.find? fun m => m.core == 8) = some { move1 with held := true } ∧ s.hold.now ≠ some .substitution) ∧
    ∀ rest ∈ [[], [{ move1 with core := 9, held := true }]],
      let s : State := { held [] none none false with
        hold := ⟨[], none, some .substitution, 5, false⟩, moves := { move1 with held := true } :: rest }
      s.frozen = false ∧ (s.moves.find? fun m => m.core == 8) = some { move1 with held := true } ∧ s.hold.now = some .substitution ∧
      ((s.finishMove { move1 with held := true } []).loadsRun.moves.any (·.held)) = !rest.isEmpty := by decide +kernel

theorem wit_DrainAdmitAndSelfTest_drain : Serving live ∧ Serving on ∧ on.gather = [] ∧ 0 < on.npolders ∧ 1 < live.npolders ∧
    live.gather = [] ∧ live.rd Pg.polders Reg.Polders.PSTATE [0] = 0 ∧ live.runState 0 = 3 ∧
    on.rd Pg.polders Reg.Polders.PSTATE [0] = 0 ∧ on.runState 0 ≠ 3 ∧
    (on.wr Pg.polders Reg.Polders.PSTATE [0] 2).rd Pg.polders Reg.Polders.PSTATE [0] = 2 :=
  ⟨serving_live, serving_on, by decide +kernel⟩

/-- R401: a running polder begins to drain. -/
theorem test_drain : after (exec (.drainPolder 0) live) (fun t => t.rd Pg.polders Reg.Polders.PSTATE [0]) = some 1 := by decide +kernel

theorem wit_DrainAdmitAndSelfTest_shutdown : live.allIdle = false ∧ live.rd Pg.selfTest Reg.SelfTest.STSTATE ≠ 1 ∧
    on.allIdle = true ∧ on.lc ≠ 4 ∧ on.rd Pg.selfTest Reg.SelfTest.STSTATE ≠ 1 ∧
    (on.wr Pg.selfTest Reg.SelfTest.STSTATE [] 1).rd Pg.selfTest Reg.SelfTest.STSTATE = 1 := by decide +kernel
theorem wit_DrainAdmitAndSelfTest_cancel : on.selfTest = none ∧
    ({ on with selfTest := some ⟨report0, 0⟩ } : State).selfTest = some ⟨report0, 0⟩ ∧
    Serving ({ on with selfTest := some ⟨report0, 0⟩ } : State) := ⟨rfl, rfl, rfl, rfl, rfl⟩
theorem wit_DrainAdmitAndSelfTest_engEn : ∀ lc ∈ [0, 1, 3],
    (on.wr Pg.security Reg.Security.LCSTATE [] lc).lc = lc ∧ (on.wr Pg.security Reg.Security.LCSTATE [] lc).gather = [] := by
  decide +kernel

/-- Writing registers keeps the conditions under which the module serves. -/
theorem serving_wr {s : State} (h : Serving s) (p : Nat) (f : FieldSpec) (ix : List Nat) (v : Nat) : Serving (s.wr p f ix v) :=
  ⟨h.rails, h.booted, h.thawed⟩

/-! The host port. -/

/-- The first segment of the host's window lies at GiB `b` of the module's addresses. -/
def hosted (b : Nat) : State := (on.wr Pg.cxl Reg.Cxl.SBASE [0] b).wr Pg.cxl Reg.Cxl.SEG_EN [0] 1

theorem wit_HostAccessesAndResets_readPool : (hosted 0x410).hostWaits = false ∧ (hosted 0x410).readingOut = false ∧
    (hosted 0x410).selfTesting = false ∧ (hosted 0x410).hdmOk 0 = true ∧
    (hosted 0x410).loneError ((hosted 0x410).hdmAddr 0).1 5 15 .none = none ∧ isModMem ((hosted 0x410).hdmAddr 0).1 = false ∧
    ((hosted 0x410).loneError ((hosted 0x410).hdmAddr 0).1 5 15 .unit).isSome = true := by decide +kernel
theorem wit_HostAccessesAndResets_readAbsent : (hosted 0x400).hdmOk 0 = true ∧ isModMem ((hosted 0x400).hdmAddr 0).1 = true ∧
    (hosted 0x400).verify (blockOf ((hosted 0x400).hdmAddr 0).1) ≠ .ok ∧ (hosted 0x400).hdmOk (2 ^ 30) = false := by decide +kernel
theorem wit_HostAccessesAndResets_waits : State.reset.hostWaits = true ∧
    (let s : State := { on.wr Pg.slack Reg.Slack.RO_EN [] 1 with frozen := true }
     s.cxlUp = true ∧ s.readingOut = true) := by decide +kernel
theorem wit_HostAccessesAndResets_write : (hosted 0x400).hostWaits = false ∧ (hosted 0x400).livePolders ((hosted 0x400).hdmAddr 0).1 = [] ∧
    (hosted 0x400).gather = [] ∧ (hosted 0x410).livePolders ((hosted 0x410).hdmAddr 0).1 = [] ∧ (hosted 0x410).uncopied = [] ∧
    (hosted 0x410).stalled = [] := by
  decide +kernel

/-- A gather buffer of one byte for the block at address 0, which page-map entry 0 maps. -/
def gathered : State := { on with gather := [⟨2, 0, [(5, 9)]⟩], pmapEff := [(0, 1)] }
theorem wit_HostAccessesAndResets_flush : gathered.still = false ∧
    (gathered.gather.find? fun b => b.buf == 2) = some ⟨2, 0, [(5, 9)]⟩ ∧ gathered.livePolders 0 = [] ∧ gathered.uncopied = [] ∧
    gathered.stalled = [] ∧ regionOf 0 = .lpddr ∧ ([(5, 9)] : List (Nat × Byte)).Pairwise (fun x y => x.1 < y.1) ∧ (gathered.phys 0).isSome = true ∧ gathered.verify 0 ≠ .mismatch := by decide +kernel
theorem wit_HostAccessesAndResets_return : State.reset.cxlUp = false ∧ State.reset.recovery = false ∧
    State.reset.power.rails = true ∧ linkOk ⟨4, true, 16⟩ = true ∧ linkOk ⟨4, false, 16⟩ = false := by decide +kernel

/-! Firmware, fuses, the lifecycle and attestation. The images are signed with the key 12345678901234567890. -/

def signer : List Byte :=
  beBytes 64 0x3ed7a28ec648edce5d5b7e252f6b2aafbb44835114a24b3caa8f710f64993bc25711a34cdc9229080b639f09977feb7ca91ecce1649bfea8ad85c72b206ade7e
def signerHash : List Byte := beBytes 32 0xe9461d729d49936ca30ce1b64080788d715e62a3fb876685453df8bb599410e3

/-- An image of type `typ` without a body. -/
def emptyImage (typ r s : Nat) : List Byte :=
  natBytes 4 0xF1A7D240 ++ natBytes 2 typ ++ natBytes 2 1 ++ List.replicate 24 0 ++ signer ++
    beBytes 32 0xe3b0c44298fc1c149afbf4c8996fb92427ae41e4649b934ca495991b7852b855 ++ beBytes 32 r ++ beBytes 32 s ++ List.replicate 64 0
def hubImage : List Byte := emptyImage 1 0xdb16c9c5670c660a286e185ee6f4286dc40650403d2361ecb0c05f46f5472970
  0x49bf3910bcbc2e9895f57295263bdcc922bdafcda03032d7c0c09925c03193e7
def dieImage : List Byte := emptyImage 2 0xdd756ae2db0adf7ad27a228da973707976d3abef201faf5f7b2656bb1340cd32
  0xc10a27890ade766fef26e57f182cee435aa3346304ecfdf4cf76ef7766ee1bfb

/-- The signer's key in slot 0. -/
def keyed : State := { on with fuses := { Fuses.blank with keys := [signerHash] } }

theorem hub_signature : ecVerify ((hubImage.drop 0x20).take 64) (sha256 (hubImage.take 0x80)) ((hubImage.drop 0x80).take 64) = true := by
  decide +kernel
theorem die_signature : ecVerify ((dieImage.drop 0x20).take 64) (sha256 (dieImage.take 0x80)) ((dieImage.drop 0x80).take 64) = true := by
  decide +kernel

/-- The checks of R438 but for the signature's. -/
theorem imageErr_of {s : State} {typ : Nat} {img : List Byte}
    (v : ecVerify ((img.drop 0x20).take 64) (sha256 (img.take 0x80)) ((img.drop 0x80).take 64) = true)
    (h : headerOk img typ = true ∧ s.fuses.keyOk (leAt img 0x10 1) ((img.drop 0x20).take 64) = true ∧
      imageDigest img = sha256 ((img.drop 0x100).take (bodyLen img)) ∧ s.lc = 0 ∧ (leAt img 0x11 1).testBit (leAt img 0x10 1) = false) :
    s.imageErr typ img = 0 := by
  obtain ⟨h1, h2, h3, h4, h5⟩ := h
  simp [State.imageErr, v, h1, h2, h3, h4, h5]

theorem wit_FirmwareFusesAndLifecycle_accepted : keyed.imageErr 1 hubImage = 0 ∧ keyed.imageErr 2 dieImage = 0 :=
  ⟨imageErr_of hub_signature (by decide +kernel), imageErr_of die_signature (by decide +kernel)⟩
theorem wit_FirmwareFusesAndLifecycle_image : keyed.frozen = false ∧ keyed.power.rails = true ∧
    keyed.rd Pg.security Reg.Security.FWU_BUSY = 0 ∧ keyed.imageErr 1 [] ≠ 0 ∧
    hubImage.take (0x100 + bodyLen hubImage) = hubImage := by decide +kernel

/-- A DER certificate of a key of zeros, which DIK_PUB shows while no register is written. -/
def cert0 : List Byte :=
  [0x30, 0x54, 0x30, 0x52, 2, 0, 2, 0, 2, 0, 2, 0, 2, 0, 0x30, 0x46, 0x30, 0, 3, 0x42, 0, 4] ++ List.replicate 64 0
def provisioned : State := on.wr Pg.security Reg.Security.LCSTATE [] 1
theorem wit_FirmwareFusesAndLifecycle_cert : provisioned.certAccepted cert0 = true ∧ provisioned.certAccepted [] = false ∧
    provisioned.frozen = false ∧ provisioned.power.rails = true ∧ provisioned.rd Pg.security Reg.Security.FWU_BUSY = 0 := by
  decide +kernel

/-- FWU_SRC names pool offset 0, or an address that nothing populates. -/
theorem wit_FirmwareFusesAndLifecycle_start : on.rd Pg.security Reg.Security.FWU_TARGET = 0 ∧ on.populated 0 256 = false ∧
    (let s := on.wr2 Pg.security Reg.Security.FWU_SRC_LO Reg.Security.FWU_SRC_HI [] (poolAddr 0 0)
     s.rd2 Pg.security Reg.Security.FWU_SRC_LO Reg.Security.FWU_SRC_HI = poolAddr 0 0 ∧ s.populated (poolAddr 0 0) 256 = true ∧
       0x100 + min (2 ^ 24) (s.numAt (poolAddr 0 0 + 0xC) 4) = 256) := by decide +kernel
theorem wit_FirmwareFusesAndLifecycle_svn :
    let s : State := { on with running := ⟨[1], 0, [[], imageDigest []], false⟩ }
    Serving s ∧ s.gather = [] ∧ s.running.hub ≠ [] ∧
    (∀ x ∈ s.running.dies, x ≠ [] → x = imageDigest (s.flash.bank s.bootBank).die) :=
  ⟨⟨rfl, rfl, rfl⟩, by decide +kernel⟩
theorem wit_FirmwareFusesAndLifecycle_provision : on.lc = 0 ∧ on.fuses.lc = 0 ∧ provisioned.lc ≠ 0 ∧
    ({ on with fuses := { on.fuses with lc := 1 } } : State).lc = 0 ∧ ({ on with fuses := { on.fuses with lc := 1 } } : State).fuses.lc ≠ 0 := by decide +kernel

/-- An unsigned token to RMA (target 4) at pool offset 0, for a module without an identity. -/
def tokenMem : Sparse Byte :=
  let l := natBytes 4 0x7E1C57A7 ++ natBytes 1 4 ++ List.replicate 11 0 ++
    beBytes 32 0xf5a5fd42d16a20302798ef6ed309979b43003d2320d9f0e8ea9831a92759fb4b
  l.zipIdx.map fun e => (0x300000000000 + e.2, e.1)
def tokenState : State :=
  (pooled { on with regs := live.regs } tokenMem).wr2 Pg.security Reg.Security.LC_SRC_LO Reg.Security.LC_SRC_HI [] (poolAddr 0 0)
theorem wit_FirmwareFusesAndLifecycle_token : tokenState.populated (poolAddr 0 0) 192 = true ∧
    tokenState.tokenOk (tokenState.bytesAt (poolAddr 0 0) 192) = true ∧
    tokenState.rd2 Pg.security Reg.Security.LC_SRC_LO Reg.Security.LC_SRC_HI = poolAddr 0 0 ∧ on.populated 0 192 = false := by
  decide +kernel

/-- An SPDM connection at each stage. -/
def talking (n : Nat) : State := { provisioned with spdm := (n, n), flash := { Flash.blank with cert := cert0 } }
theorem wit_AttestationAnswersInOrder : (∀ n ∈ [0, 1, 2, 3], ∀ tr ∈ [Transport.doe, .smbus],
    (talking n).responds tr true = true ∧ (talking n).responds tr false = true ∧ (talking n).conn tr = n) ∧
    on.recovery = false ∧ on.lc = 0 := by decide +kernel
theorem wit_AttestationAnswersInOrder_chain : 0 < (talking 3).chain.length := by
  have h : (talking 3).flash.cert.length = 86 := by decide +kernel
  simp only [State.chain, List.length_append, h]
  omega

/-! Resets, clocks, energy and the freeze. -/

theorem wit_ResetsAndPowerSequence : State.reset.power.rails = true ∧ State.reset.recovery = false ∧ State.reset.frozen = false ∧
    State.reset.gather = [] ∧ State.reset.locked = false ∧ (on.wr Pg.clocks Reg.Clocks.LOCKED [] 1).locked = true ∧
    (on.wr Pg.clocks Reg.Clocks.LOCKED [] 1).frozen = false ∧
    ({ on with power := ⟨false, false, true, false, false, false, none⟩ } : State).power.en = false ∧
    (∀ u ∈ [false, true], ({ on with power := ⟨true, false, true, u, false, false, none⟩ } : State).power.under = u) := by
  decide +kernel

/-- Bank 0 holds the hub image and a die image. -/
def bootable (die : List Byte) : State :=
  { keyed.wr Pg.clocks Reg.Clocks.LOCKED [] 1 with flash := { Flash.blank with a := ⟨hubImage, die, 1⟩ } }
theorem wit_BootClocksAndEnergy_boot : (∀ d ∈ [[], dieImage],
    (bootable d).power.rails = true ∧ (bootable d).locked = true ∧ (bootable d).recovery = false ∧ (bootable d).running.hub = [] ∧
    (bootable d).power.lc.getD (bootable d).fuses.lc = 0) := by decide +kernel
theorem wit_BootClocksAndEnergy_bank : ∀ d ∈ [[], dieImage],
    let s := bootable d
    let u : State := { s with power := { s.power with lc := some 0 } }
    let u := u.wr Pg.security Reg.Security.LCSTATE [] 0
    u.pickBank = some 0 ∧ (d = [] → u.imageErr 2 (s.flash.bank 0).die ≠ 0) ∧ (d = dieImage → u.imageErr 2 (s.flash.bank 0).die = 0) := by
  intro d hd s u u
  have keys : ∀ p ∈ [(1, hubImage), (2, dieImage)], headerOk p.2 p.1 = true ∧
      keyed.fuses.keyOk (leAt p.2 0x10 1) ((p.2.drop 0x20).take 64) = true ∧
      imageDigest p.2 = sha256 ((p.2.drop 0x100).take (bodyLen p.2)) ∧ (leAt p.2 0x11 1).testBit (leAt p.2 0x10 1) = false := by
    decide +kernel
  have lc : u.lc = 0 := by
    have h : ∀ d ∈ [[], dieImage], (State.wr { bootable d with power := { (bootable d).power with lc := some 0 } } Pg.security
        Reg.Security.LCSTATE [] 0).lc = 0 := by decide +kernel
    exact h d hd
  have hub : u.imageErr 1 (u.flash.bank 0).hub = 0 :=
    imageErr_of hub_signature
      ⟨(keys (1, hubImage) (by simp)).1, (keys (1, hubImage) (by simp)).2.1, (keys (1, hubImage) (by simp)).2.2.1, lc,
        (keys (1, hubImage) (by simp)).2.2.2⟩
  have other : u.bankOk 1 = false := rfl
  refine ⟨?_, ?_, ?_⟩
  · have ok : u.bankOk 0 = true := by simp [State.bankOk, hub]
    simp [State.pickBank, ok, other]
  · rintro rfl h
    exact absurd h (by decide)
  · rintro rfl
    exact imageErr_of die_signature
      ⟨(keys (2, dieImage) (by simp)).1, (keys (2, dieImage) (by simp)).2.1, (keys (2, dieImage) (by simp)).2.2.1, lc,
        (keys (2, dieImage) (by simp)).2.2.2⟩
theorem wit_BootClocksAndEnergy_none :
    let u : State := { keyed with power := { keyed.power with lc := some 0 } }
    (u.wr Pg.security Reg.Security.LCSTATE [] 0).pickBank = none := by decide +kernel
theorem wit_BootClocksAndEnergy_throttle : (∀ e ∈ [(⟨0, 40000, 0, 255⟩ : PowerReport), ⟨0, 40000, 0, 0⟩, ⟨65535, 0, 0, 0⟩], e.tj < 256) ∧
    on.rd Pg.clocks Reg.Clocks.TJ_THROTTLE ≤ 255 ∧ 0 < on.rd Pg.clocks Reg.Clocks.TJ_THROTTLE ∧
    on.powerLimit ⟨65535, 0, 0, 0⟩ < 100 * 65535 ∧ 100 * 0 ≤ on.powerLimit ⟨0, 40000, 0, 0⟩ := by decide +kernel
theorem wit_BootClocksAndEnergy_glide : (on.wr Pg.clocks Reg.Clocks.GLIDING [] 1).rd Pg.clocks Reg.Clocks.GLIDING = 1 ∧
    on.throttle.pwr < 32 ∧ on.throttle.tmp < 32 ∧ on.frozen = false ∧ on.power.rails = true ∧ 0 < on.npolders := by decide +kernel

/-- R471: the pin throttles to the floor. -/
theorem test_throttlePin : after (exec (.throttleN true) on) (fun t => t.rootTarget) = some (20, 3) := by decide +kernel

/-- FSTATE `st` with FRZ_MODE `mode`. -/
def freezing (st mode : Nat) : State := (on.wr Pg.slack Reg.Slack.FSTATE [] st).wr Pg.slack Reg.Slack.FRZ_MODE [] mode

theorem wit_FreezeAndThaw_asked : on.rd Pg.slack Reg.Slack.PIN_FN = 0 ∧ on.freeze.pinUsed = false ∧ on.frozen = false ∧
    on.recovery = false ∧ on.gather = [] ∧ (on.wr Pg.slack Reg.Slack.PIN_FN [] 1).rd Pg.slack Reg.Slack.PIN_FN ≠ 0 ∧
    (∀ st ∈ [0, 1, 2, 3], ∀ m ∈ [0, 1],
      (freezing st m).rd Pg.selfTest Reg.SelfTest.STSTATE ≠ 1 ∧ (freezing st m).rd Pg.security Reg.Security.FWU_BUSY = 0 ∧
      (freezing st m).ports.length = 16 ∧ (freezing st m).rd Pg.slack Reg.Slack.FSTATE = st ∧
      (freezing st m).rd Pg.slack Reg.Slack.FRZ_MODE = m) := by decide +kernel
theorem wit_FreezeAndThaw_sync : on.rd Pg.trace Reg.Trace.SNAP_SYNC ≠ 1 ∧
    (on.wr Pg.slack Reg.Slack.PIN_FN [] 1).rd Pg.slack Reg.Slack.PIN_FN = 1 := by decide +kernel
theorem wit_FreezeAndThaw_edge : ∀ m ∈ [0, 1],
    let s : State := { (freezing 1 m).wr2 Pg.clocks Reg.Clocks.TIMESTAMP_LO Reg.Clocks.TIMESTAMP_HI [] 50 with
      freeze := { FreezeSt.none with asked := some 10 } }
    s.rd Pg.slack Reg.Slack.FSTATE = 1 ∧ s.frozen = false ∧ s.wheel.turns = true ∧ s.timestamp % 2 = 0 ∧
    (∀ a ∈ s.freeze.asked, a + 40 ≤ s.timestamp) ∧ s.freeze.asked.isSome = true := by decide +kernel
theorem wit_FreezeAndThaw_thaw : ∀ st ∈ [2, 3], ∀ m ∈ [0, 1],
    let s : State := { freezing st m with frozen := true }
    s.frozen = true ∧ s.rd Pg.slack Reg.Slack.FSTATE = st ∧ s.rd Pg.slack Reg.Slack.FRZ_MODE = m ∧ s.ports.length = 16 := by
  decide +kernel

/-! Commits and registers. -/

/-- A commit with CSTATE `st`, an image with a dirty page or none. -/
def committing (st : Nat) (c : Commit) (dirty : Bool) : State :=
  let s : State := { on with commit := some c }
  let s := s.wr Pg.commit Reg.Commit.CSTATE [] st
  if dirty then (s.wr Pg.commit Reg.Common.DIRTY [] 1).wr Pg.commit Reg.Commit.STEP [0] 0 else s

theorem wit_CommitChecksArmsAndApplies_start : on.commitLocked = false ∧ Serving on ∧ on.gather = [] ∧
    (committing 1 ⟨true, 0, 0, 0⟩ false).commitLocked = true ∧ (committing 4 ⟨true, 0, 0, 0⟩ false).commitLocked = true :=
  ⟨by decide +kernel, serving_on, by decide +kernel⟩
theorem wit_CommitChecksArmsAndApplies_check : ∀ a ∈ [false, true],
    let s := committing 1 ⟨a, 0, 0, 0⟩ false
    s.frozen = false ∧ s.commit = some ⟨a, 0, 0, 0⟩ ∧ s.rd Pg.commit Reg.Commit.CSTATE = 1 ∧
    s.firstBad s.afterApply s.dirtyPages = none ∧ s.rd Pg.commit Reg.Commit.AMODE ≠ 2 := by decide +kernel

/-- A staged PCFG of 3 is a reserved value. -/
def badStage : State :=
  let s := (committing 1 ⟨false, 0, 0, 0⟩ false).wr Pg.polders Reg.Common.DIRTY [] 1
  s.setWord Pg.polders (0x100 + 0x700) 3
theorem wit_CommitChecksArmsAndApplies_bad : badStage.frozen = false ∧ badStage.rd Pg.commit Reg.Commit.CSTATE = 1 ∧
    (badStage.firstBad badStage.afterApply badStage.dirtyPages).isSome = true ∧ badStage.dirtyPages = [Pg.polders] ∧
    0x100 ∈ stOffsOf Pg.polders := by decide +kernel
theorem wit_CommitChecksArmsAndApplies_edge : ∀ m ∈ [0, 3],
    let s := committing 4 ⟨true, m, 0, 5⟩ false
    s.frozen = false ∧ s.commit = some ⟨true, m, 0, 5⟩ ∧ s.rd Pg.commit Reg.Commit.CSTATE = 4 ∧ s.loads = [] ∧
    s.edgeCome ⟨true, m, 0, 5⟩ = decide (m = 0) ∧ s.gather = [] := by decide +kernel
theorem wit_CommitChecksArmsAndApplies_timeout :
    let w : Waiter := ⟨.commit, false, 9, some 1⟩
    let s : State := { committing 4 ⟨true, 2, 0, 0⟩ false with landings := [(6, ⟨0, 0, 0, 0, [(14, w)]⟩)] }
    s.releasedNow 6 14 = false ∧ ({ s with landingQ := [⟨0, 0, .signal 6 9 false 0⟩] } : State).releasedNow 6 14 = true ∧
    s.still = false ∧ s.rd Pg.commit Reg.Commit.CSTATE = 4 ∧ s.loads = [] ∧
    (s.landings.findSome? fun e => (e.2.waiters.find? fun w => w.2.who == .commit).map fun w => (e.1, w)) = some (6, (14, w)) := by
  decide +kernel
theorem wit_CommitChecksArmsAndApplies_discard : badStage.frozen = false ∧
    ({ badStage.wr Pg.commit Reg.Commit.CSTATE [] 0 with commit := none } : State).commitLocked = false ∧
    (pageKind Pg.polders).isSome = true := by decide +kernel

theorem wit_RegistersReadAndWrite_pages : (pageKind 0x110).isSome = true ∧ on.serves 0x110 = true ∧
    ({ on with frozen := true } : State).serves 0x110 = false ∧ on.power.rails = true ∧ on.recovery = false ∧
    (on.hiLatch.find? fun e => e.1 == regKey 0x110 0x40) = none ∧ pageKind 0x110 ≠ some .ferry ∧ hiOf 0x110 0x40 = some 0x44 := by
  decide +kernel
theorem wit_RegistersReadAndWrite_map : ({ on with pmapPend := [(3, 1, 0)] } : State).pmapPend = [(3, 1, 0)] ∧
    ({ on with pmapPend := [(3, 1, 1)] } : State).pmapPend = [(3, 1, 0 + 1)] ∧
    ({ on with pmapPend := [(3, 1, 0)] } : State).frozen = false := by decide +kernel

/-- Offsets of each kind that a read names: unaligned, a page's, a page-map entry's, a gap's, a landing object's, beyond them. -/
theorem wit_RegistersReadAndWrite_read :
    let at_ := fun (n : BarPage) (o : PageByte) => 4096 * n.val + o.val
    (1 : PageByte).val % 4 ≠ 0 ∧ (at_ 0x110 0x40 < 0x800000 ∧ (0x40 : PageByte).val % 4 = 0) ∧
    (0x800000 ≤ at_ 0x800 0 ∧ at_ 0x800 0 < 0xA00000) ∧ (0x800000 ≤ at_ 0x9FF 0xFFC ∧ at_ 0x9FF 0xFFC < 0xA00000) ∧
    (0xA00000 ≤ at_ 0xA00 0 ∧ at_ 0xFFF 0xFFC < 0x1000000) ∧ at_ 0x1000 0 = 0x1000000 + 64 * 0 + 4 * 0 ∧
    at_ 0x107F 0xFFC = 0x1000000 + 64 * 8191 + 4 * 15 ∧ 0x1080000 ≤ at_ 0x1080 0 := by decide +kernel

theorem wit_RegistersReadAndWrite_writes : Serving on ∧ writesRegister (.go 0 .none) = true ∧ writesRegister .provision = true :=
  ⟨serving_on, rfl, rfl⟩
theorem wit_RegistersReadAndWrite_write :
    (2 : BitVec 25).toNat % 4 ≠ 0 ∧ 0xA00000 ≤ (0xA00000 : BitVec 25).toNat ∧
    ((0x9FFFFC : BitVec 25).toNat % 4 = 0 ∧ 0x800000 ≤ (0x9FFFFC : BitVec 25).toNat ∧ (0x9FFFFC : BitVec 25).toNat < 0xA00000) ∧
    (pageKind Pg.polders).isSome = true ∧ stMask Pg.polders (0x800 - 0x700) ≠ 0 ∧ on.rd Pg.commit Reg.Commit.CSTATE ≠ 4 ∧
    (pageKind Pg.holds = some .holds ∧ stMask Pg.holds 0x100 = 0) ∧ (0x80000000 : Word).getLsbD 31 = true ∧
    (4096 * Pg.slack + 0x128 : Nat) < 2 ^ 25 := by decide +kernel

/-- R504: a write of a staged word stages it alone. -/
theorem test_staged : after (exec (.registerWrite (BitVec.ofNat 25 (4096 * Pg.polders + 0x800)) 1) on)
    (fun t => (t.word Pg.polders 0x800, t.pcfg)) = some (1, 0) := by decide +kernel

/-! Reset, and what every step keeps. -/

/-- R412, R417, R461, R471: reset values. -/
theorem test_reset : State.reset.rd Pg.clocks Reg.Clocks.POWER_LIMIT = 2900 ∧ State.reset.rd Pg.clocks Reg.Clocks.TJ_TRIP = 115 ∧
    State.reset.rd Pg.cxl Reg.Cxl.HDM_SEGS = 64 ∧ State.reset.rd Pg.commit Reg.Commit.ATIMEOUT = 0xFFFFF := by decide +kernel

theorem wit_EveryStepKeepsCanonicalForm : State.reset.canonical = true ∧ ∃ t, step State.reset = .next t := ⟨rfl, _, rfl⟩
theorem wit_NoStepUnblowsAFuse : ∃ t, step ({ State.reset with pending := [.provision] } : State) = .next t := by
  rw [show step ({ State.reset with pending := [.provision] } : State) =
    exec .provision { ({ State.reset with pending := [.provision] } : State) with pending := [] } from rfl]
  exact ⟨_, rfl⟩

end Sys2Proof.Tests
end

section
/-! SUPPORT. The gather buffers' drain before a register write (R423): what a buffer that is written out can change of the parts
of the state on which the write waits. -/

namespace Sys2Proof.Proofs

open Sys2Proof.Machine Sys2Proof.Laws

/-- What decides whether a register write is served: the gather buffers, power, recovery and freeze (R423, R439, R463). -/
def writeGate (s : State) : List GatherBuf × Power × Bool × Bool := (s.gather, s.power, s.recovery, s.frozen)

/-- A fold whose steps all keep what `g` reads keeps it. -/
theorem foldl_keeps {α β γ : Type} (g : β → γ) (f : β → α → β) (l : List α) (s : β)
    (hf : ∀ t, ∀ x ∈ l, g (f t x) = g t) : g (l.foldl f s) = g s := by
  induction l generalizing s with
  | nil => rfl
  | cons x r ih =>
    rw [List.foldl_cons, ih _ fun t y hy => hf t y (List.mem_cons_of_mem x hy), hf s x List.mem_cons_self]

variable (s : State)

/-! Registers, memory and ports. -/

@[simp] theorem writeGate_setWord (p o : Nat) (v : Word) : writeGate (s.setWord p o v) = writeGate s := rfl
@[simp] theorem writeGate_wr (p : Nat) (f : FieldSpec) (ix : List Nat) (v : Nat) :
    writeGate (s.wr p f ix v) = writeGate s := rfl
@[simp] theorem writeGate_addSat (p : Nat) (f : FieldSpec) (ix : List Nat) (n : Nat) :
    writeGate (s.addSat p f ix n) = writeGate s := rfl
@[simp] theorem writeGate_poke (us : List (Nat × Byte)) : writeGate (s.poke us) = writeGate s := rfl
@[simp] theorem writeGate_pokeBytes (a : Nat) (bs : List (Option Byte)) : writeGate (s.pokeBytes a bs) = writeGate s := rfl
@[simp] theorem writeGate_setTow (p : Nat) (x : Towpath) : writeGate (s.setTow p x) = writeGate s := rfl
@[simp] theorem writeGate_setPort (p : Nat) (x : Port) : writeGate (s.setPort p x) = writeGate s := rfl

@[simp] theorem writeGate_setSideWord (a cv : Nat) (b : Bool) : writeGate (s.setSideWord a cv b) = writeGate s := by
  unfold State.setSideWord
  split
  · dsimp only
    split <;> simp
  · rfl

/-! Messages and events. -/

@[simp] theorem writeGate_toHost (m : HostMsg) : writeGate (s.toHost m) = writeGate s := by
  unfold State.toHost
  split <;> rfl

@[simp] theorem writeGate_irqEdge (p : Nat) (t : State) : writeGate (s.irqEdge p t) = writeGate t := by
  unfold State.irqEdge
  split <;> simp

@[simp] theorem writeGate_setEvent (p : Nat) : writeGate (s.setEvent p) = writeGate s := by
  simp [State.setEvent]

@[simp] theorem writeGate_eventOne (p code n i : Nat) : writeGate (s.eventOne p code n i) = writeGate s := by
  unfold State.eventOne
  dsimp only
  split
  · split <;> simp
  · rfl

@[simp] theorem writeGate_event (p code n : Nat) : writeGate (s.event p code n) = writeGate s := by
  unfold State.event
  split
  · rfl
  · exact foldl_keeps _ _ _ _ fun t i _ => writeGate_eventOne t p code n i

@[simp] theorem writeGate_count (p : Nat) (f : FieldSpec) (ix : List Nat) (n : Nat) :
    writeGate (s.count p f ix n) = writeGate s := by
  simp [State.count]

@[simp] theorem writeGate_errReg (p : Nat) (e m : FieldSpec) (fs : List (FieldSpec × Nat)) :
    writeGate (s.errReg p e m fs) = writeGate s := by
  unfold State.errReg
  split
  · rfl
  · exact (foldl_keeps _ _ _ _ fun t e _ => writeGate_wr t p e.1 [] e.2).trans (writeGate_wr s p e [] 1)

@[simp] theorem writeGate_hostError (kind a : Nat) (write : Bool) : writeGate (s.hostError kind a write) = writeGate s := by
  unfold State.hostError
  dsimp only
  split <;> simp

/-! The write itself. -/

@[simp] theorem writeGate_recordCheck (a : Nat) (k : Check) : writeGate (s.recordCheck a k) = writeGate s := by
  unfold State.recordCheck
  dsimp only
  split
  · simp
  · split <;> simp
  · rfl

@[simp] theorem writeGate_writeBlock (a : Nat) (bs : List (Option Byte)) (c : Bool) :
    writeGate (s.writeBlock a bs c).1 = writeGate s := by
  unfold State.writeBlock
  dsimp only
  split
  · rfl
  · split
    · simp
    · split <;> simp

@[simp] theorem writeGate_writeMem (n : Nat) (a : Nat) (bs : List (Option Byte)) (c : Bool) :
    writeGate (s.writeMem a bs c n).1 = writeGate s := by
  induction n generalizing s a bs with
  | zero => rfl
  | succ n ih =>
    unfold State.writeMem
    split
    · rfl
    · dsimp only
      have here : writeGate (if isModMem a then s.writeBlock a (bs.take (4096 - a % 4096)) c
          else (s.pokeBytes a (bs.take (4096 - a % 4096)), none)).1 = writeGate s := by
        split <;> simp
      split
      · exact here
      · rw [ih, here]

@[simp] theorem writeGate_requestHold (c : HoldCause) : writeGate (s.requestHold c) = writeGate s := by
  unfold State.requestHold
  split
  · rfl
  · split <;> rfl

/-- A write by the host is compared with no watch range (R197), so that the memory and at most a hold request change. -/
theorem writeGate_store (w : StalledWrite) (h : w.wdie = hostWriter) : writeGate (s.store w).1 = writeGate s := by
  unfold State.store
  split
  · dsimp only
    split
    · rfl
    · exact (foldl_keeps _ _ _ _ fun t p _ => writeGate_count t _ _ _ _).trans (writeGate_requestHold _ _)
  · simp [State.storeNow, State.hazards, h]

@[simp] theorem writeGate_traffic (r : Req) (rs : List (Nat × Nat)) : writeGate (s.traffic r rs) = writeGate s := by
  unfold State.traffic
  dsimp only
  split
  · rfl
  · split <;> rfl

@[simp] theorem writeGate_asyncTraffic (w : Bool) (a n : Nat) : writeGate (s.asyncTraffic w a n) = writeGate s := by
  unfold State.asyncTraffic
  split
  · split <;> simp
  · rfl

@[simp] theorem writeGate_hostStore (a : Nat) (bs : List (Option Byte)) : writeGate (s.hostStore a bs) = writeGate s := by
  unfold State.hostStore
  dsimp only
  split <;> simp [writeGate_store]

/-! The record of a host write. -/

@[simp] theorem writeGate_traceAdd (tow : Bool) (type pol key : Nat) (pl : List Byte) :
    writeGate (s.traceAdd tow type pol key pl) = writeGate s := rfl

@[simp] theorem writeGate_towLost (p : Nat) : writeGate (s.towLost p) = writeGate s := by
  simp [State.towLost]

@[simp] theorem writeGate_towAdmit (p type key : Nat) (pl : List Byte) : writeGate (s.towAdmit p type key pl) = writeGate s := by
  unfold State.towAdmit
  dsimp only
  split <;> split <;> simp

@[simp] theorem writeGate_useRecord (p : Nat) (r : Record) : writeGate (s.useRecord p r) = writeGate s := by
  simp [State.useRecord]

@[simp] theorem writeGate_flood (x : Crossing) (e : Option Nat) : writeGate (s.flood x e) = writeGate s := by
  refine foldl_keeps _ _ _ _ fun t p _ => ?_
  dsimp only
  split <;> simp

/-- A freeze that is asked for is not yet in force: it begins at its edge (R463). -/
@[simp] theorem writeGate_requestFreeze (src : Nat) : writeGate (s.requestFreeze src) = writeGate s := by
  unfold State.requestFreeze
  dsimp only
  split
  · simp
  · split
    · rfl
    · split
      · rw [writeGate_flood]
        rfl
      · rfl

@[simp] theorem writeGate_diverge (p kind type seq key : Nat) : writeGate (s.diverge p kind type seq key) = writeGate s := by
  unfold State.diverge
  dsimp only
  split
  · simp
  · split <;> simp

@[simp] theorem writeGate_compare (p type key : Nat) (pl : List Byte) (r : Option Record) :
    writeGate (s.compare p type key pl r) = writeGate s := by
  unfold State.compare
  split
  · simp
  · dsimp only
    split
    · simp
    · split
      · simp
      · split <;> simp

@[simp] theorem writeGate_inputInOrder (p type key : Nat) (pl : List Byte) (ts : List Nat) :
    writeGate (s.inputInOrder p type key pl ts) = writeGate s := by
  unfold State.inputInOrder
  split <;> simp

@[simp] theorem writeGate_hostInput (p type : Nat) (pl : List Byte) : writeGate (s.hostInput p type pl) = writeGate s := by
  unfold State.hostInput
  split
  · rfl
  · dsimp only
    split <;> simp

@[simp] theorem writeGate_hostWritten (a mask p : Nat) : writeGate (s.hostWritten a mask p) = writeGate s := by
  unfold State.hostWritten
  split <;> simp

/-! The drain. -/

/-- Writing a buffer out frees it and leaves the other buffers. -/
theorem writeGate_flushBuf (b : GatherBuf) :
    writeGate (s.flushBuf b) = (s.gather.filter fun x => x.buf != b.buf, s.power, s.recovery, s.frozen) := by
  unfold State.flushBuf
  dsimp only
  rw [foldl_keeps _ _ _ _ fun t p _ => writeGate_hostWritten t b.block b.mask p, writeGate_hostStore]
  split
  · rfl
  · exact writeGate_count _ _ _ _ _

theorem writeGate_flushAll (l : List GatherBuf) :
    writeGate (l.foldl State.flushBuf s)
      = (s.gather.filter fun x => l.all fun b => x.buf != b.buf, s.power, s.recovery, s.frozen) := by
  induction l generalizing s with
  | nil =>
    have all : s.gather.filter (fun x => ([] : List GatherBuf).all fun b => x.buf != b.buf) = s.gather :=
      List.filter_eq_self.mpr fun _ _ => rfl
    rw [all]
    rfl
  | cons b l ih =>
    have hb := writeGate_flushBuf s b
    simp only [writeGate, Prod.mk.injEq] at hb
    obtain ⟨hg, hp, hr, hf⟩ := hb
    rw [List.foldl_cons, ih, hg, hp, hr, hf, List.filter_filter]
    simp only [List.all_cons, Bool.and_comm]

/-- The drain empties every gather buffer and leaves power, recovery and freeze as they were. -/
theorem writeGate_drainGather : writeGate s.drainGather = ([], s.power, s.recovery, s.frozen) := by
  have none_left : (s.gather.filter fun x => s.gather.all fun b => x.buf != b.buf) = [] := by
    refine List.filter_eq_nil_iff.mpr fun x hx h => ?_
    simpa using List.all_eq_true.mp h x hx
  rw [State.drainGather, writeGate_flushAll, none_left]

@[simp] theorem drainGather_gather : s.drainGather.gather = [] := congrArg Prod.fst (writeGate_drainGather s)
@[simp] theorem drainGather_power : s.drainGather.power = s.power := congrArg (·.2.1) (writeGate_drainGather s)
@[simp] theorem drainGather_recovery : s.drainGather.recovery = s.recovery := congrArg (·.2.2.1) (writeGate_drainGather s)
@[simp] theorem drainGather_frozen : s.drainGather.frozen = s.frozen := congrArg (·.2.2.2) (writeGate_drainGather s)

theorem drainGather_of_empty {s : State} (h : s.gather = []) : s.drainGather = s := by
  simp [State.drainGather, h]

theorem serving_drainGather {s : State} (h : Serving s) : Serving s.drainGather :=
  ⟨by simp [h.rails], by simp [h.booted], by simp [h.thawed]⟩

/-! Register writes wait for the drain. -/

/-- A served write is its effect on the drained state. -/
theorem written_of_serving {s : State} (h : Serving s) (f : State → State) : s.written f = f s.drainGather := by
  simp [State.written, h.rails, h.booted, h.thawed]

/-- A served write with no buffer waiting is its effect. -/
theorem written_of_drained {s : State} (h : Serving s) (hg : s.gather = []) (f : State → State) : s.written f = f s := by
  rw [written_of_serving h, drainGather_of_empty hg]

/-- Outside a freeze a write at an offset of BAR0 is its effect behind `State.written`. -/
theorem exec_registerWrite_thawed {s : State} (h : s.frozen = false) (off : BitVec 25) (v : Word) :
    exec (.registerWrite off v) s = .next (s.written (·.writeBar off.toNat v)) := by
  change execRegisterWrite off v s = _
  simp [execRegisterWrite, h]

/-- Outside a freeze every command that writes a register is its effect behind `State.written`. -/
theorem exec_of_writesRegister {c : Instr} (h : writesRegister c = true) :
    ∃ f : State → State, ∀ s : State, s.frozen = false → exec c s = .next (s.written f) := by
  cases c
  case registerWrite off v => exact ⟨(·.writeBar off.toNat v), fun s hs => exec_registerWrite_thawed hs off v⟩
  case check | apply | abort | discardAll | discard | load | pqPos | snapnow | go | moduleReset | wdogKick | clrAll
      | evselClr | drainPolder | admission | shutdown | cancel | engEn | provision | fwuStart | svnCommit | lcGo | send
      | restore | abandon =>
    exact ⟨_, fun _ _ => rfl⟩
  all_goals cases h

/-- R423: a command that writes a register acts on the state whose gather buffers are written. -/
theorem exec_writesRegister_drained {c : Instr} (h : writesRegister c = true) {s : State} (hs : Serving s) :
    exec c s = exec c s.drainGather := by
  obtain ⟨f, hf⟩ := exec_of_writesRegister h
  have hd := serving_drainGather hs
  rw [hf s hs.thawed, hf s.drainGather hd.thawed, written_of_serving hs, written_of_drained hd (drainGather_gather s)]

end Sys2Proof.Proofs
end

section
/-! SUPPORT. Register words: which words an event, a count, a cleared counter, a staged write and a read can change. -/

namespace Sys2Proof.Proofs

open Sys2Proof.Machine Sys2Proof.Laws

/-! Words by page and offset. -/

/-- Two writes of one value are one choice between it and what was there. -/
theorem ite_same_else {α : Type} (p q : Prop) [Decidable p] [Decidable q] (a b : α) :
    (if p then a else if q then a else b) = if p ∨ q then a else b := by
  by_cases hp : p
  · rw [if_pos hp, if_pos (Or.inl hp)]
  · rw [if_neg hp]
    exact ite_congr (propext (or_iff_right hp).symm) (fun _ => rfl) fun _ => rfl

/-- Aligned words of register pages have one key only if they are one word. -/
theorem regKey_eq_iff {p o p' o' : Nat} (h : o < 4096) (h' : o' < 4096) (ha : o % 4 = 0) (ha' : o' % 4 = 0) :
    regKey p o = regKey p' o' ↔ p = p' ∧ o = o' := by
  rw [regKey_inj h h']
  omega

/-- A written word and every other aligned one, by page and offset. -/
theorem word_setWord_at (s : State) {p o m x : Nat} (v : Word) (ho : o < 4096) (hx : x < 4096) (ho4 : o % 4 = 0)
    (hx4 : x % 4 = 0) : (s.setWord p o v).word m x = if m = p ∧ x = o then v else s.word m x := by
  simp only [word_setWord, regKey_eq_iff hx ho hx4 ho4]

/-- A field's write leaves every other word; `b` is the offset of the field's word. -/
theorem word_wr_of_ne (s : State) {p m x b : Nat} (f : FieldSpec) (ix : List Nat) (v : Nat) (hb : f.off ix = b)
    (hb' : b < 4096) (hx : x < 4096) (h : ¬ (m = p ∧ x / 4 = b / 4)) : (s.wr p f ix v).word m x = s.word m x := by
  subst hb
  exact word_wr_ne s p f ix v m x fun e => h ((regKey_inj hx hb').mp e)

/-- A state whose registers alone may differ from another's. -/
def OnlyRegs (s t : State) : Prop := { t with regs := s.regs } = s

theorem OnlyRegs.refl (s : State) : OnlyRegs s s := rfl

theorem OnlyRegs.trans {s t u : State} (h : OnlyRegs s t) (h' : OnlyRegs t u) : OnlyRegs s u := by
  unfold OnlyRegs at h h' ⊢
  calc ({ u with regs := s.regs } : State)
    _ = { ({ u with regs := t.regs } : State) with regs := s.regs } := rfl
    _ = { t with regs := s.regs } := by rw [h']
    _ = s := h

theorem onlyRegs_setWord (s : State) (p o : Nat) (v : Word) : OnlyRegs s (s.setWord p o v) := rfl

theorem onlyRegs_wr (s : State) (p : Nat) (f : FieldSpec) (ix : List Nat) (v : Nat) : OnlyRegs s (s.wr p f ix v) := rfl

theorem onlyRegs_foldl {α : Type} (f : State → α → State) (hf : ∀ s x, OnlyRegs s (f s x)) (l : List α) (s : State) :
    OnlyRegs s (l.foldl f s) := by
  induction l generalizing s with
  | nil => exact OnlyRegs.refl s
  | cons x r ih => exact (hf s x).trans (ih (f s x))

/-! Event counters (R473, R500). -/

/-- A counter word holds nothing but its counter. -/
theorem wr_evcnt_zero (s : State) (n i : Nat) : s.wr n Reg.Common.EVCNT [i] 0 = s.setWord n (0x40 + 4 * i) 0 := by
  have off : Reg.Common.EVCNT.off [i] = 0x40 + 4 * i := by simp [FieldSpec.off, Reg.Common.EVCNT]
  have all : Reg.Common.EVCNT.mask = BitVec.allOnes 32 := by decide
  simp [State.wr, putField, off, all]

theorem clearCounter_eq (s : State) (n i : Nat) :
    s.clearCounter n i = (s.setWord n (0x40 + 8 * i) 0).setWord n (0x44 + 8 * i) 0 := by
  rw [State.clearCounter, wr_evcnt_zero, wr_evcnt_zero, show 0x40 + 4 * (2 * i) = 0x40 + 8 * i by omega,
    show 0x40 + 4 * (2 * i + 1) = 0x44 + 8 * i by omega]

theorem word_clearCounter (s : State) {n i m x : Nat} (hi : i < 8) (hx : x < 4096) (hx4 : x % 4 = 0) :
    (s.clearCounter n i).word m x
      = if m = n ∧ 0x40 + 8 * i ≤ x ∧ x < 0x48 + 8 * i then 0 else s.word m x := by
  rw [clearCounter_eq, word_setWord_at _ _ (by omega) hx (by omega) hx4,
    word_setWord_at _ _ (by omega) hx (by omega) hx4, ite_same_else]
  exact ite_congr (propext (by omega)) (fun _ => rfl) fun _ => rfl

theorem onlyRegs_clearCounter (s : State) (n i : Nat) : OnlyRegs s (s.clearCounter n i) := rfl

theorem word_clearFirst (s : State) {n m x : Nat} (k : Nat) (hk : k ≤ 8) (hx : x < 4096) (hx4 : x % 4 = 0) :
    ((List.range k).foldl (fun t i => t.clearCounter n i) s).word m x
      = if m = n ∧ 0x40 ≤ x ∧ x < 0x40 + 8 * k then 0 else s.word m x := by
  induction k with
  | zero => exact (if_neg (by omega)).symm
  | succ k ih =>
    rw [List.range_succ, List.foldl_append, List.foldl_cons, List.foldl_nil, word_clearCounter _ (by omega) hx hx4,
      ih (by omega), ite_same_else]
    exact ite_congr (propext (by omega)) (fun _ => rfl) fun _ => rfl

theorem word_clearCounters (s : State) {n m x : Nat} (hx : x < 4096) (hx4 : x % 4 = 0) :
    (s.clearCounters n).word m x = if m = n ∧ 0x40 ≤ x ∧ x < 0x80 then 0 else s.word m x :=
  word_clearFirst s 8 (Nat.le_refl 8) hx hx4

theorem onlyRegs_clearCounters (s : State) (n : Nat) : OnlyRegs s (s.clearCounters n) :=
  onlyRegs_foldl _ (fun t i => onlyRegs_clearCounter t n i) _ s

/-- A counter whose word is zero reads zero. -/
theorem rd_evcnt_of_zero {s : State} {n i : Nat} (h : s.word n (0x40 + 4 * i) = 0) : s.rd n Reg.Common.EVCNT [i] = 0 := by
  have off : Reg.Common.EVCNT.off [i] = 0x40 + 4 * i := by simp [FieldSpec.off, Reg.Common.EVCNT]
  simp [State.rd, off, h, bits]

/-! Events and counts (R473 to R475, R501). -/

@[simp] theorem mem_toHost (s : State) (m : HostMsg) : (s.toHost m).mem = s.mem := by
  unfold State.toHost
  split <;> rfl

@[simp] theorem mem_irqEdge (s : State) (p : Nat) (t : State) : (s.irqEdge p t).mem = t.mem := by
  unfold State.irqEdge
  split <;> simp

@[simp] theorem mem_eventOne (s : State) (p code n i : Nat) : (s.eventOne p code n i).mem = s.mem := by
  unfold State.eventOne
  dsimp only
  split
  · split <;> simp
  · rfl

@[simp] theorem mem_event (s : State) (p code n : Nat) : (s.event p code n).mem = s.mem := by
  unfold State.event
  split
  · rfl
  · exact mem_foldl _ (fun t i => mem_eventOne t p code n i) _ s

@[simp] theorem mem_count (s : State) (p : Nat) (f : FieldSpec) (ix : List Nat) (n : Nat) : (s.count p f ix n).mem = s.mem := by
  simp [State.count, State.addSat]

/-- A word that no event of page `p` changes: none of the page's common area, and not the count of messages that the link
dropped. -/
def EventLeaves (p m x : Nat) : Prop := x < 4096 ∧ ¬ (m = p ∧ x < 0x100) ∧ ¬ (m = Pg.cxl ∧ x / 4 = 0x218 / 4)

theorem word_toHost (s : State) (msg : HostMsg) {p m x : Nat} (h : EventLeaves p m x) : (s.toHost msg).word m x = s.word m x := by
  obtain ⟨hx, -, hdrop⟩ := h
  unfold State.toHost
  split
  · rfl
  · exact word_wr_of_ne s Reg.Cxl.LINK_DROPPED [] _ rfl (by decide) hx hdrop

theorem word_irqEdge (s t : State) (q : Nat) {p m x : Nat} (h : EventLeaves p m x) : (s.irqEdge q t).word m x = t.word m x := by
  unfold State.irqEdge
  split
  · exact word_toHost _ _ h
  · rfl

/-- A field of a page's common area is written. -/
theorem word_wr_common (s : State) {p m x : Nat} (h : EventLeaves p m x) (f : FieldSpec) (ix : List Nat) (v : Nat)
    (hf : f.off ix < 0x100) : (s.wr p f ix v).word m x = s.word m x := by
  obtain ⟨hx, hpage, -⟩ := h
  exact word_wr_of_ne s f ix v rfl (by omega) hx (by omega)

theorem word_eventOne (s : State) (code n : Nat) {p m x i : Nat} (hi : i < 8) (h : EventLeaves p m x) :
    (s.eventOne p code n i).word m x = s.word m x := by
  have cnt (j : Nat) (hj : j < 16) : Reg.Common.EVCNT.off [j] < 0x100 := by
    simp [FieldSpec.off, Reg.Common.EVCNT]; omega
  have ovf : Reg.Common.EVSEL_OVF.off [i] < 0x100 := by
    simp [FieldSpec.off, Reg.Common.EVSEL_OVF]; omega
  unfold State.eventOne
  dsimp only
  split
  · split
    · rw [word_irqEdge _ _ _ h, word_wr_common _ h _ _ _ (by decide), word_wr_common _ h _ _ _ ovf,
        word_wr_common _ h _ _ _ (cnt _ (by omega)), word_wr_common _ h _ _ _ (cnt _ (by omega))]
    · rw [word_wr_common _ h _ _ _ (cnt _ (by omega)), word_wr_common _ h _ _ _ (cnt _ (by omega))]
  · rfl

theorem word_event (s : State) (code n : Nat) {p m x : Nat} (h : EventLeaves p m x) :
    (s.event p code n).word m x = s.word m x := by
  unfold State.event
  split
  · rfl
  · exact foldl_keeps (·.word m x) _ _ _ fun t i hi => word_eventOne t code n (List.mem_range.mp hi) h

/-- A count saturates at its field's width. -/
theorem rd_count (s : State) {p : Nat} {f : FieldSpec} {ix : List Nat} (n : Nat) (hl : f.lo ≤ f.hi) (hh : f.hi < 32)
    (h : EventLeaves p p (f.off ix)) : (s.count p f ix n).rd p f ix = min (s.rd p f ix + n) (2 ^ f.width - 1) := by
  have pos : 0 < 2 ^ f.width := Nat.two_pow_pos _
  have keep : (s.count p f ix n).rd p f ix = (s.addSat p f ix n).rd p f ix := by
    simp only [State.rd, State.count, word_event _ _ _ h]
  rw [keep, State.addSat, rd_wr_self _ _ _ _ _ hl hh, Nat.mod_eq_of_lt (by omega)]

/-- A count changes its own word and those of the page's events. -/
theorem word_count (s : State) {p m x : Nat} {f : FieldSpec} {ix : List Nat} (n : Nat) (hf : f.off ix < 4096)
    (h : EventLeaves p m x) (hne : ¬ (m = p ∧ x / 4 = f.off ix / 4)) : (s.count p f ix n).word m x = s.word m x := by
  rw [State.count, word_event _ _ _ h, State.addSat, word_wr_of_ne s f ix _ rfl hf h.1 hne]

/-! Staging (R504). -/

/-- A staged word takes the ST bits of what is written; DIRTY and NDIRTY follow, and no other word changes. -/
theorem word_stageWord (s : State) {n o m x : Nat} (v : Word) (hst : stMask n o ≠ 0) (ho : 0x100 ≤ o) (ho' : o < 0x800)
    (ho4 : o % 4 = 0) (hx : x < 4096) (hx4 : x % 4 = 0) (hdirty : ¬ (m = n ∧ x = 0x008)) (hnd : ¬ (m = Pg.commit ∧ x = 0x120)) :
    (s.stageWord n o v).word m x = if m = n ∧ x = o + 0x700 then v &&& stMask n o else s.word m x := by
  rw [State.stageWord, if_neg hst, State.noteDirty, word_wr_of_ne _ _ _ _ (b := 0x120) rfl (by decide) hx (by omega),
    word_wr_of_ne _ _ _ _ (b := 0x008) rfl (by decide) hx (by omega)]
  exact word_setWord_at s _ (by omega) hx (by omega) hx4

theorem dirty_stageWord (s : State) {n o : Nat} (v : Word) (hst : stMask n o ≠ 0) :
    (s.stageWord n o v).rd n Reg.Common.DIRTY = 1 := by
  rw [State.stageWord, if_neg hst, State.noteDirty, rd_wr_word_ne _ _ _ _ _ _ _ _
    (fun e => absurd ((regKey_inj (by decide) (by decide)).mp e).2 (by decide)), rd_wr_self _ _ _ _ _ (by decide) (by decide)]
  rfl

theorem stagedWritten_stageWord (s : State) {n o : Nat} (v : Word) (hst : stMask n o ≠ 0) :
    regKey n o ∈ (s.stageWord n o v).stagedWritten := by
  rw [State.stageWord, if_neg hst]
  exact List.mem_cons_self

theorem stageWord_frame (s : State) {n o : Nat} (v : Word) :
    { s.stageWord n o v with regs := s.regs, stagedWritten := s.stagedWritten } = s := by
  unfold State.stageWord
  split <;> rfl

/-! Writes at a page's live offsets (R504). -/

/-- The kinds of page whose words from 0x100 on hold no WO bit. -/
def untriggered : List PageKind :=
  [.holds, .landings, .reliab, .cxl, .hubAcct, .routing, .workQ, .sluiceQ, .ingest, .dieLink, .ferry, .phase, .acct, .die, .cluster]

theorem trigger_of_untriggered (s : State) {n : Nat} (o : Nat) (v : Word) {k : PageKind} (hk : pageKind n = some k)
    (hu : k ∈ untriggered) : s.trigger n o v = s := by
  unfold State.trigger
  rw [hk]
  cases k
  case holds | landings | reliab | cxl | hubAcct | routing | workQ | sluiceQ | ingest | dieLink | ferry | phase | acct | die
      | cluster => rfl
  all_goals exact absurd hu (by decide)

/-- The fault record reads clear once software has cleared it (R502). -/
theorem word_clearFault (s : State) (n : Nat) {o : Nat} (ho : 0x010 ≤ o) (ho' : o < 0x020) (ho4 : o % 4 = 0) :
    (s.clearFault n).word n o = 0 := by
  have hx : o < 4096 := by omega
  rw [State.clearFault, word_wr_of_ne _ _ _ _ (b := 0x080) rfl (by decide) hx (by omega),
    word_wr_of_ne _ _ _ _ (b := 0x008) rfl (by decide) hx (by omega),
    word_setWord_at _ _ (by decide) hx (by decide) ho4, word_setWord_at _ _ (by decide) hx (by decide) ho4,
    word_setWord_at _ _ (by decide) hx (by decide) ho4, word_setWord_at _ _ (by decide) hx (by decide) ho4,
    ite_same_else, ite_same_else, ite_same_else]
  exact if_pos (by omega)

end Sys2Proof.Proofs
end

section
/-! SUPPORT. Reads and writes of BAR0, case by case (R17, R180, R267, R272, R416, R463, R499, R502, R504). -/

namespace Sys2Proof.Proofs

open Sys2Proof.Machine Sys2Proof.Laws

/-! Reads. -/

/-- A read of a word of BAR0 is a read of the word of its page. -/
theorem readBar_page (s : State) {n o : Nat} (ho : o < 4096) (h : 4096 * n + o < 0x800000) :
    s.readBar (4096 * n + o) = s.readReg n o := by
  rw [State.readBar, if_pos h, show (4096 * n + o) / 4096 = n by omega, show (4096 * n + o) % 4096 = o by omega]

theorem readBar_beyond (s : State) {off : Nat} (h : 0x800000 ≤ off) (hp : s.power.rails = true) (hr : s.recovery = false) :
    s.readBar off = { s with outWord := s.barWord off } := by
  simp [State.readBar, show ¬ off < 0x800000 by omega, hp, hr]

/-- A page that is not served answers, and nothing else happens. -/
theorem readReg_unserved (s : State) {n o : Nat} (hp : s.power.rails = true) (hr : s.recovery = false)
    (hs : s.serves n = false) : s.readReg n o = { s with outWord := s.seen n o } := by
  simp [State.readReg, hp, hr, hs]

/-- A served read of a word answers what it reads, latches a HI word and clears RC fields. -/
theorem readReg_served (s : State) {n o : Nat} (hp : s.power.rails = true) (hr : s.recovery = false)
    (hs : s.serves n = true) :
    s.readReg n o = { ((s.readValue n o).2.latchHi n o).clearRc n o with outWord := (s.readValue n o).1 } := by
  simp [State.readReg, hp, hr, hs]

/-- No HI word is latched for a word: a read of it answers the word. -/
theorem readValue_unlatched (s : State) {n o : Nat} (h : (s.hiLatch.find? fun e => e.1 == regKey n o) = none) :
    s.readValue n o = (s.seen n o, s) := by
  simp [State.readValue, h]

/-- A latched HI word is answered once. -/
theorem readValue_latched (s : State) {n o : Nat} {e : Nat × Word} (h : (s.hiLatch.find? fun e => e.1 == regKey n o) = some e) :
    s.readValue n o = (e.2, { s with hiLatch := s.hiLatch.filter fun x => x.1 != regKey n o }) := by
  simp [State.readValue, h]

theorem word_clearRc (s : State) (n o : Nat) : (s.clearRc n o).word n o = s.word n o &&& ~~~(maskOf n o (·.acc == .rc)) := by
  unfold State.clearRc
  dsimp only
  split
  · next h => rw [h, show ~~~(0 : Word) = BitVec.allOnes 32 from rfl, BitVec.and_allOnes]
  · simp

theorem word_clearRc_of_ne (s : State) {n o m x : Nat} (ho : o < 4096) (hx : x < 4096) (ho4 : o % 4 = 0) (hx4 : x % 4 = 0)
    (h : ¬ (m = n ∧ x = o)) : (s.clearRc n o).word m x = s.word m x := by
  unfold State.clearRc
  dsimp only
  split
  · rfl
  · rw [word_setWord_at _ _ ho hx ho4 hx4, if_neg h]

@[simp] theorem hiLatch_clearRc (s : State) (n o : Nat) : (s.clearRc n o).hiLatch = s.hiLatch := by
  unfold State.clearRc
  dsimp only
  split <;> rfl

@[simp] theorem word_latchHi (s : State) (n o m x : Nat) : (s.latchHi n o).word m x = s.word m x := by
  unfold State.latchHi
  split <;> rfl

/-- Latching and clearing leave everything but the latches and the registers. -/
theorem clearRc_latchHi_frame (s : State) (n o : Nat) :
    { (s.latchHi n o).clearRc n o with regs := s.regs, hiLatch := s.hiLatch } = s := by
  unfold State.clearRc State.latchHi
  dsimp only
  split <;> split <;> rfl

/-- A read of a LO word keeps its HI word for the next read of it. -/
theorem find_latchHi (s : State) {n o h : Nat} (ho : hiOf n o = some h) :
    ((s.latchHi n o).hiLatch.find? fun e => e.1 == regKey n h) = some (regKey n h, s.seen n h) := by
  simp [State.latchHi, ho]

/-- A HI word is at the next word, so that a read of a word latches none for itself. -/
theorem hiOf_eq {n o h : Nat} (ho : hiOf n o = some h) : h = o + 4 := by
  simp only [hiOf, Option.ite_none_right_eq_some, Option.some.injEq] at ho
  exact ho.2.symm

/-- The word that has been read has no latched value. -/
theorem find_latchHi_self (s : State) (n o : Nat) :
    (({ s with hiLatch := s.hiLatch.filter fun x => x.1 != regKey n o } : State).latchHi n o).hiLatch.find?
      (fun e => e.1 == regKey n o) = none := by
  have gone (l : List (Nat × Word)) (h : ∀ e ∈ l, e.1 ≠ regKey n o) : l.find? (fun e => e.1 == regKey n o) = none := by
    simpa using h
  apply gone
  unfold State.latchHi
  split
  · next h hh =>
    have hne : regKey n h ≠ regKey n o := by
      have := hiOf_eq hh
      unfold regKey
      omega
    simp only [List.mem_cons, List.mem_filter]
    rintro e (rfl | ⟨⟨-, he⟩, -⟩)
    · exact hne
    · simpa using he
  · simp

/-! Words beyond the pages (R180, R272, R416). -/

theorem barWord_entry (s : State) {off : Nat} (h : off < 0xA00000) :
    s.barWord off = sget (fun _ => 0) s.pmap ((off - 0x800000) / 4) := by
  simp [State.barWord, h]

theorem barWord_gap (s : State) {off : Nat} (h : 0xA00000 ≤ off) (h' : off < 0x1000000 ∨ 0x1080000 ≤ off) :
    s.barWord off = 0 := by
  rw [State.barWord, if_neg (by omega), if_neg (by omega)]

theorem barWord_landing (s : State) {k w : Nat} (hk : k < 8192) (hw : w < 16) :
    s.barWord (0x1000000 + 64 * k + 4 * w) = BitVec.ofNat 32 (dword (s.landing k).bytes (4 * w)) := by
  rw [State.barWord, if_neg (by omega), if_pos (by omega), show (0x1000000 + 64 * k + 4 * w - 0x1000000) / 64 = k by omega,
    show (0x1000000 + 64 * k + 4 * w) % 64 = 4 * w by omega]

/-! Writes. -/

theorem writeBar_ignored (s : State) {off : Nat} (v : Word) (h : off % 4 ≠ 0 ∨ 0xA00000 ≤ off) : s.writeBar off v = s := by
  unfold State.writeBar
  split
  · rfl
  · rw [if_neg (by omega), if_neg (by omega)]

theorem writeBar_entry (s : State) {off : Nat} (v : Word) (h4 : off % 4 = 0) (h : 0x800000 ≤ off) (h' : off < 0xA00000) :
    s.writeBar off v = s.writeEntry ((off - 0x800000) / 4) v := by
  rw [State.writeBar, if_neg (by omega), if_neg (by omega), if_pos h']

theorem writeBar_page (s : State) {off : Nat} (v : Word) (h4 : off % 4 = 0) (h : off < 0x800000)
    (hk : (pageKind (off / 4096)).isSome = true) : s.writeBar off v =
      if off % 4096 < 0x100 then s.writeCommon (off / 4096) (off % 4096) v
      else if off % 4096 < 0x800 then s.writeLive (off / 4096) (off % 4096) v
      else if off % 4096 < 0xF00 then s.hostStage (off / 4096) (off % 4096 - 0x700) v
      else s := by
  rw [State.writeBar, if_neg (by omega), if_pos h, State.writePage, if_neg (by simpa [Option.isSome_iff_ne_none] using hk)]

/-- A write of a word's ST bits is staged, or ignored and counted while a commit is armed. -/
theorem hostStage_open (s : State) {n o : Nat} (v : Word) (hst : stMask n o ≠ 0) (h : s.rd Pg.commit Reg.Commit.CSTATE ≠ 4) :
    s.hostStage n o v = s.stageWord n o v := by
  rw [State.hostStage, if_neg hst, if_neg h]

theorem hostStage_locked (s : State) {n o : Nat} (v : Word) (hst : stMask n o ≠ 0) (h : s.rd Pg.commit Reg.Commit.CSTATE = 4) :
    s.hostStage n o v = s.lockedWrite := by
  rw [State.hostStage, if_neg hst, if_pos h]

theorem rd_lockedWrite (s : State) : s.lockedWrite.rd Pg.commit Reg.Commit.LOCKED_WRITES
    = min (s.rd Pg.commit Reg.Commit.LOCKED_WRITES + 1) (2 ^ 32 - 1) :=
  rd_count s 1 (by decide) (by decide) (by unfold EventLeaves; decide)

/-- An ignored write leaves every staged word. -/
theorem word_lockedWrite_staged (s : State) {n o : Nat} (ho : 0x800 ≤ o) (ho' : o < 4096) :
    s.lockedWrite.word n o = s.word n o := by
  have off : Reg.Commit.LOCKED_WRITES.off [] = 0x130 := rfl
  exact word_count s 1 (by decide) ⟨ho', by omega, by omega⟩ (by rw [off]; omega)

@[simp] theorem mem_lockedWrite (s : State) : s.lockedWrite.mem = s.mem := mem_count _ _ _ _ _

/-- A write of a live word without ST and WO bits stores its RW bits and clears its W1C bits. -/
theorem writeLive_untriggered (s : State) {n o : Nat} (v : Word) {k : PageKind} (hk : pageKind n = some k)
    (hu : k ∈ untriggered) (hst : stMask n o = 0) :
    s.writeLive n o v = s.setWord n o
      (maskedPut (s.word n o) (s.writable n o) v &&& ~~~(maskOf n o (·.acc == .w1c) &&& v)) := by
  have stage : s.hostStage n o v = s := by simp [State.hostStage, hst]
  rw [State.writeLive, stage, trigger_of_untriggered _ o v hk hu]

/-- During a freeze a write outside the Slack page's two words changes nothing (R463). -/
theorem writeFrozen_ignored (s : State) {off : Nat} (v : Word) (h : off ≠ 4096 * Pg.slack + 0x10C)
    (h' : off ≠ 4096 * Pg.slack + 0x128) : s.writeFrozen off v = s := by
  simp [State.writeFrozen, h, h']

theorem writeFrozen_roBase (s : State) (v : Word) :
    s.writeFrozen (4096 * Pg.slack + 0x128) v = s.wr Pg.slack Reg.Slack.RO_BASE [] v.toNat := rfl

theorem exec_registerWrite_frozen {s : State} (h : s.frozen = true) (off : BitVec 25) (v : Word) :
    exec (.registerWrite off v) s = .next (s.writeFrozen off.toNat v) := by
  change execRegisterWrite off v s = _
  simp [execRegisterWrite, h]

end Sys2Proof.Proofs
end

section
/-! SUPPORT. What each register command does (R180, R267, R416, R423, R463, R473, R500, R504), and the statement about them. -/

namespace Sys2Proof.Proofs

open Sys2Proof.Machine Sys2Proof.Laws

/-! Commands of the counters and of the page map. -/

theorem exec_clrAll {s : State} {page : PageId} (hs : Serving s) (hg : s.gather = [])
    (hk : (pageKind page).isSome = true) : exec (.clrAll page) s = .next (s.clearCounters page) := by
  change Host.Outcome.next (s.written _) = _
  rw [written_of_drained hs hg, if_neg (by simpa [Option.isSome_iff_ne_none] using hk)]

theorem exec_evselClr {s : State} {page : PageId} (e : EvId) (hs : Serving s) (hg : s.gather = [])
    (hk : (pageKind page).isSome = true) : exec (.evselClr page e) s = .next (s.clearCounter page e) := by
  change Host.Outcome.next (s.written _) = _
  rw [written_of_drained hs hg, if_neg (by simpa [Option.isSome_iff_ne_none] using hk)]

theorem exec_pageMapEffect {s : State} (h : s.frozen = false) : exec .pageMapEffect s = .next s.entryEffect := by
  change Host.Outcome.next (if _ then _ else _) = _
  rw [if_neg (by simp [h])]

/-- The oldest page-map write that is due translates from now on. -/
theorem entryEffect_due (s : State) {e : Nat} {w : Word} {r : List (Nat × Word × Nat)} (h : s.pmapPend = (e, w, 0) :: r) :
    s.entryEffect = { s with pmapEff := sset (fun _ => 0) s.pmapEff e w, pmapPend := r } := by
  rw [State.entryEffect, h]

theorem entryEffect_early (s : State) {e k : Nat} {w : Word} {r : List (Nat × Word × Nat)}
    (h : s.pmapPend = (e, w, k + 1) :: r) : s.entryEffect = s := by
  rw [State.entryEffect, h]

/-! Reads. -/

theorem exec_readClear (s : State) {page : BarPage} {o : PageByte} (h : o.val % 4 = 0) :
    exec (.readClear page o) s = .next (s.readBar (4096 * page.val + o.val)) := by
  change Host.Outcome.next (if _ then _ else _) = _
  rw [if_pos h]

theorem exec_counterLoRead (s : State) {page : PageId} {word : WordId} {h : Nat} (ho : hiOf page (4 * word.val) = some h) :
    exec (.counterLoRead page word) s = .next (s.readReg page (4 * word.val)) := by
  change Host.Outcome.next (if _ then _ else _) = _
  rw [if_pos (by rw [ho]; rfl)]

/-- A served read of a word for which no HI word is latched. -/
theorem readReg_unlatched (s : State) {n o : Nat} (hp : s.power.rails = true) (hr : s.recovery = false)
    (hs : s.serves n = true) (hl : (s.hiLatch.find? fun e => e.1 == regKey n o) = none) :
    s.readReg n o = { (s.latchHi n o).clearRc n o with outWord := s.seen n o } := by
  rw [readReg_served s hp hr hs, readValue_unlatched s hl]

/-- A served read of a latched HI word answers the latched value and uses it up. -/
theorem readReg_latched (s : State) {n o : Nat} {k : Nat} {w : Word} (hp : s.power.rails = true) (hr : s.recovery = false)
    (hs : s.serves n = true) (hl : (s.hiLatch.find? fun e => e.1 == regKey n o) = some (k, w)) :
    (s.readReg n o).outWord = w ∧ ((s.readReg n o).hiLatch.find? fun e => e.1 == regKey n o) = none := by
  rw [readReg_served s hp hr hs, readValue_latched s hl]
  refine ⟨rfl, ?_⟩
  exact (congrArg (List.find? _) (hiLatch_clearRc _ n o)).trans (find_latchHi_self s n o)

/-- A latched HI word is answered by the next served READ_CLEAR of it, once (R267). -/
theorem exec_readClear_latched {u : State} {page : PageId} {h : WordId} {k : Nat} {w : Word} (hp : u.power.rails = true)
    (hr : u.recovery = false) (hs : u.serves page = true)
    (hl : (u.hiLatch.find? fun e => e.1 == regKey page (4 * h.val)) = some (k, w)) :
    ∃ v, exec (.readClear (page.castLE (by decide)) ⟨4 * h.val, by omega⟩) u = .next v ∧ v.outWord = w ∧
      (v.hiLatch.find? fun e => e.1 == regKey page (4 * h.val)) = none := by
  refine ⟨u.readReg page (4 * h.val), ?_, readReg_latched u hp hr hs hl⟩
  rw [exec_readClear u (Nat.mul_mod_right 4 h.val)]
  exact congrArg Host.Outcome.next (readBar_page u (n := page) (o := 4 * h.val) (by omega) (by omega))

/-! Writes. -/

theorem exec_registerWrite_served {s : State} (hs : Serving s) (hg : s.gather = []) (off : BitVec 25) (v : Word) :
    exec (.registerWrite off v) s = .next (s.writeBar off.toNat v) := by
  rw [exec_registerWrite_thawed hs.thawed, written_of_drained hs hg]

/-- A write of a word of a page, by its offset within the page. -/
theorem exec_registerWrite_page {s : State} (hs : Serving s) (hg : s.gather = []) {off : BitVec 25} (v : Word)
    (h4 : off.toNat % 4 = 0) (h : off.toNat < 0x800000) (hk : (pageKind (off.toNat / 4096)).isSome = true) :
    exec (.registerWrite off v) s = .next (
      if off.toNat % 4096 < 0x100 then s.writeCommon (off.toNat / 4096) (off.toNat % 4096) v
      else if off.toNat % 4096 < 0x800 then s.writeLive (off.toNat / 4096) (off.toNat % 4096) v
      else if off.toNat % 4096 < 0xF00 then s.hostStage (off.toNat / 4096) (off.toNat % 4096 - 0x700) v
      else s) := by
  rw [exec_registerWrite_served hs hg, writeBar_page s v h4 h hk]

theorem writeCommon_clearFault (s : State) (n : Nat) {v : Word} (h : v.getLsbD 31 = true) :
    s.writeCommon n 0x010 v = s.clearFault n := by
  rw [State.writeCommon, if_neg (by decide), if_pos rfl, if_pos h]

theorem onlyRegs_clearFault (s : State) (n : Nat) : OnlyRegs s (s.clearFault n) := by
  have record : OnlyRegs s ((((s.setWord n 0x010 0).setWord n 0x014 0).setWord n 0x018 0).setWord n 0x01C 0) :=
    (((onlyRegs_setWord s _ _ _).trans (onlyRegs_setWord _ _ _ _)).trans (onlyRegs_setWord _ _ _ _)).trans
      (onlyRegs_setWord _ _ _ _)
  exact (record.trans (onlyRegs_wr _ _ _ _ _)).trans (onlyRegs_wr _ _ _ _ _)

/-- The bits that announce a fault are clear once software has cleared the record. -/
theorem rd_clearFault (s : State) (n : Nat) : (s.clearFault n).rd n Reg.Common.FC_VALID = 0 ∧
    (s.clearFault n).rd n Reg.Common.FAULT_008 = 0 ∧ (s.clearFault n).rd n Reg.Common.FAULT_080 = 0 := by
  refine ⟨?_, ?_, ?_⟩
  · have zero : (s.clearFault n).word n (Reg.Common.FC_VALID.off []) = 0 :=
      word_clearFault s n (o := 0x010) (by decide) (by decide) (by decide)
    simp [State.rd, zero, bits]
  · rw [State.clearFault, rd_wr_word_ne _ _ _ _ _ _ _ _
      (fun e => absurd ((regKey_inj (by decide) (by decide)).mp e).2 (by decide)), rd_wr_self _ _ _ _ _ (by decide) (by decide)]
    rfl
  · rw [State.clearFault, rd_wr_self _ _ _ _ _ (by decide) (by decide)]
    rfl

/-- Settles O57: every command is its effect behind the conditions of a read or a write, and each effect is read off word by
word. -/
theorem registersReadAndWrite : Obligations.RegistersReadAndWrite := by
  unfold Obligations.RegistersReadAndWrite
  refine ⟨fun s page hs hg hk => ⟨?_, fun e => ?_⟩, fun s c hs hc => ?_, fun s e w r hf => ⟨fun h => ?_, fun k h => ?_⟩,
    fun s n o hp hr => ⟨fun h4 => ?_, fun h4 hoff hserve hl => ?_, fun h4 hoff hserve => ?_, fun h4 hoff => ?_⟩,
    fun s page word h hp hr hserve ho hl => ?_,
    fun s off v hs hg => ⟨fun h => ?_, fun h4 hlo hhi => ?_, fun h4 hoff hk => ⟨?_, ?_, ?_, ?_⟩⟩,
    fun s off v hf => ⟨fun h h' => ?_, fun h => ?_⟩⟩
  · -- CLR_ALL
    refine ⟨_, exec_clrAll hs hg hk, fun i hi => rd_evcnt_of_zero ?_, fun n o ho ho4 hne => ?_, onlyRegs_clearCounters s page⟩
    · rw [word_clearCounters s (by omega) (by omega), if_pos (by omega)]
    · rw [word_clearCounters s ho ho4, if_neg hne]
  · -- EVSEL_CLR
    have he := e.isLt
    refine ⟨_, exec_evselClr e hs hg hk, rd_evcnt_of_zero ?_, rd_evcnt_of_zero ?_, fun n o ho ho4 hne => ?_,
      onlyRegs_clearCounter s page e⟩
    · rw [word_clearCounter s he (by omega) (by omega), if_pos (by omega)]
    · rw [word_clearCounter s he (by omega) (by omega), if_pos (by omega)]
    · rw [word_clearCounter s he ho ho4, if_neg hne]
  · -- the gather buffers
    exact ⟨exec_writesRegister_drained hc hs, drainGather_gather s, serving_drainGather hs⟩
  · -- PAGE_MAP_EFFECT, the oldest write due
    refine ⟨_, (exec_pageMapEffect hf).trans (congrArg _ (entryEffect_due s h)), ?_, fun x hx => ?_, rfl, rfl⟩
    · exact sget_sset_self _ _ _ _
    · exact sget_sset_ne _ _ _ _ _ hx
  · -- PAGE_MAP_EFFECT, too early
    rw [exec_pageMapEffect hf, entryEffect_early s h]
  · -- a read of part of a word
    change Host.Outcome.next (if _ then _ else _) = _
    rw [if_neg h4]
  · -- a read of a page that is served
    refine ⟨_, (exec_readClear s h4).trans (congrArg _ (readBar_page s o.isLt hoff)), ?_⟩
    rw [readReg_unlatched s hp hr hserve hl]
    refine ⟨rfl, ?_, fun m x hx hx4 hne => ?_, ?_⟩
    · exact (word_clearRc (s.latchHi n o) n o).trans (by rw [word_latchHi])
    · exact (word_clearRc_of_ne (s.latchHi n o) o.isLt hx h4 hx4 hne).trans (by rw [word_latchHi])
    · exact congrArg (fun t : State => { t with outWord := s.outWord }) (clearRc_latchHi_frame s n o)
  · -- a read of a page that a freeze stops
    rw [exec_readClear s h4, readBar_page s o.isLt hoff, readReg_unserved s hp hr hserve]
  · -- a read beyond the pages
    refine ⟨_, (exec_readClear s h4).trans (congrArg _ (readBar_beyond s hoff hp hr)), rfl, fun h => barWord_entry s h,
      fun h h' => barWord_gap s h h', fun k w hk hw he => ?_⟩
    exact (congrArg s.barWord he).trans (barWord_landing s hk hw)
  · -- COUNTER_LO_READ and the read of the HI word after it
    refine ⟨_, (exec_counterLoRead s ho).trans (congrArg _ (readReg_unlatched s hp hr hserve hl)), rfl,
      fun u hpu hru hsu hlu => exec_readClear_latched hpu hru hsu (k := regKey page (4 * h.val)) ?_⟩
    rw [hlu]
    exact (congrArg (List.find? _) (hiLatch_clearRc _ _ _)).trans (find_latchHi s ho)
  · -- REGISTER_WRITE beyond the pages and the page map
    rw [exec_registerWrite_served hs hg, writeBar_ignored s v h]
  · -- a page-map entry
    refine ⟨_, (exec_registerWrite_served hs hg off v).trans (congrArg _ (writeBar_entry s v h4 hlo hhi)), ?_, fun x hx => ?_,
      rfl, rfl⟩
    · exact sget_sset_self _ _ _ _
    · exact sget_sset_ne _ _ _ _ _ hx
  · -- a staged word
    intro ho ho' hst hc
    have staged := exec_registerWrite_page hs hg v h4 hoff hk
    rw [if_neg (by omega), if_neg (by omega), if_pos ho', hostStage_open s v hst hc] at staged
    refine ⟨_, staged, ?_, dirty_stageWord s v hst, stagedWritten_stageWord s v hst, fun m x hx hx4 hne hnd => ?_,
      stageWord_frame s v⟩
    · rw [word_stageWord s v hst (by omega) (by omega) (by omega) (by omega) (by omega) (by omega) (by omega),
        if_pos (by omega)]
    · rw [word_stageWord s v hst (by omega) (by omega) (by omega) hx hx4 (by omega) hnd, if_neg (by omega)]
  · -- a staged word while a commit is armed
    intro ho ho' hst hc
    have locked := exec_registerWrite_page hs hg v h4 hoff hk
    rw [if_neg (by omega), if_neg (by omega), if_pos ho', hostStage_locked s v hst hc] at locked
    exact ⟨_, locked, word_lockedWrite_staged s ho (by omega), mem_lockedWrite s, rd_lockedWrite s⟩
  · -- a live word without ST and WO bits
    intro k hkind hu ho ho' hst
    rw [exec_registerWrite_page hs hg v h4 hoff hk, if_neg (by omega), if_pos ho', writeLive_untriggered s v hkind hu hst]
  · -- the fault record
    intro ho hv
    have cleared := exec_registerWrite_page hs hg v h4 hoff hk
    rw [if_pos (by omega), ho, writeCommon_clearFault s _ hv] at cleared
    obtain ⟨hvalid, h008, h080⟩ := rd_clearFault s (off.toNat / 4096)
    refine ⟨_, cleared, hvalid, ?_, ?_, ?_, h008, h080, onlyRegs_clearFault s _⟩
    all_goals exact word_clearFault s _ (by decide) (by decide) (by decide)
  · -- a write during a freeze
    rw [exec_registerWrite_frozen hf, writeFrozen_ignored s v h h']
  · -- RO_BASE during a freeze
    have written := exec_registerWrite_frozen hf off v
    rw [h, writeFrozen_roBase] at written
    refine ⟨_, written, ?_, fun n o ho ho4 hne => ?_, onlyRegs_wr s _ _ _ _⟩
    · exact rd_wr_self s _ Reg.Slack.RO_BASE [] _ (by decide) (by decide)
    · exact word_wr_of_ne s Reg.Slack.RO_BASE [] _ (b := 0x128) rfl (by decide) ho (by omega)

end Sys2Proof.Proofs
end

section
/-! SUPPORT. Scales and MXINT8 elements (R22, R26): the grid index that a conversion writes, and the statement about them. -/

namespace Sys2Proof.Proofs

open Sys2Proof.Machine

/-! Bytes in two's complement. -/

theorem uint_byte_lt (i : Int) : uint 8 i < 256 := by
  unfold uint
  omega

theorem sint_byte {b : Nat} (h : b < 256) : sint 8 b = if b < 128 then (b : Int) else (b : Int) - 256 := by
  unfold sint
  split <;> split <;> omega

/-- A byte reads back the integer it was written from. -/
theorem sint_uint_byte {i : Int} (h : -128 ≤ i) (h' : i < 128) : sint 8 (uint 8 i) = i := by
  rw [sint_byte (uint_byte_lt i), uint]
  split <;> omega

/-! Conversion to MXINT8. -/

/-- The index on the grid of step 2^−6 that a value converts to: a NaN gives 0 (R29), everything else saturates at ±127 (R26). -/
def mxint8Index (r : Rnd) : FVal → Int
  | .nan => 0
  | .inf n => if n then -127 else 127
  | .fin n m e => if n then -((min (roundGrid r m e (-6)) 127 : Nat) : Int) else (min (roundGrid r m e (-6)) 127 : Nat)

theorem encode_int8 (r : Rnd) (sat : Bool) (v : FVal) : (Fmt.encode .int8 r sat v).1 = uint 8 (mxint8Index r v) := by
  cases v with
  | nan => rfl
  | inf n => cases n <;> rfl
  | fin n m e => rfl

theorem mxint8Index_range (r : Rnd) (v : FVal) : -127 ≤ mxint8Index r v ∧ mxint8Index r v ≤ 127 := by
  cases v with
  | nan => simp [mxint8Index]
  | inf n => cases n <;> simp [mxint8Index]
  | fin n m e =>
    unfold mxint8Index
    split <;> omega

theorem mxint8Index_saturates {r : Rnd} {m : Nat} {e : Int} (n : Bool) (h : 127 ≤ roundGrid r m e (-6)) :
    mxint8Index r (.fin n m e) = if n then -127 else 127 := by
  rw [mxint8Index, Nat.min_eq_right h]
  rfl

/-- An element reads back the index that its conversion chose. -/
theorem sint_encode_int8 (r : Rnd) (sat : Bool) (v : FVal) : sint 8 (Fmt.encode .int8 r sat v).1 = mxint8Index r v := by
  obtain ⟨low, high⟩ := mxint8Index_range r v
  rw [encode_int8, sint_uint_byte (by omega) (by omega)]

/-- No conversion writes 0x80, which reads as −128 steps. -/
theorem encode_int8_ne_min (r : Rnd) (sat : Bool) (v : FVal) : (Fmt.encode .int8 r sat v).1 ≠ 0x80 := by
  intro h
  have read : sint 8 0x80 = mxint8Index r v := by rw [← h, sint_encode_int8]
  have lowest : sint 8 0x80 = -128 := by decide
  have low := (mxint8Index_range r v).1
  omega

/-- Settles O2: a conversion to MXINT8 writes the byte of a grid index within ±127. -/
theorem scalesAndMxint8 : Obligations.ScalesAndMxint8 := by
  unfold Obligations.ScalesAndMxint8
  refine ⟨fun x n m e hx => ?_, fun v => if_pos rfl, fun b hb => ?_, by decide, fun r sat v => ⟨?_, ?_⟩,
    fun r sat n m e h => ?_⟩
  · rw [scaled, if_neg (by omega), FVal.scale]
  · exact congrArg (FVal.ofInt · (-6)) (sint_byte hb)
  · exact encode_int8_ne_min r sat v
  · rw [encode_int8]
    exact uint_byte_lt _
  · rw [sint_encode_int8, mxint8Index_saturates n h]

end Sys2Proof.Proofs
end

section
/-! SUPPORT. The order of a Causeway sum's contributions (R321, R323), and the statement about it. -/

namespace Sys2Proof.Proofs

open Sys2Proof.Machine

/-- Two contributions join a partial in either order: grid integers add up, flags gather. -/
theorem cwJoin_right_comm (a : Nat) (x y z : Int) : cwJoin a (cwJoin a x y) z = cwJoin a (cwJoin a x z) y := by
  unfold cwJoin
  by_cases h : a = 0xFF
  · rw [if_pos h, if_pos h, if_pos h, if_pos h, Int.toNat_natCast, Int.toNat_natCast, Nat.or_assoc,
      Nat.or_comm y.toNat, ← Nat.or_assoc]
  · rw [if_neg h, if_neg h, if_neg h, if_neg h, Int.add_right_comm]

/-- Settles O25: a fold whose steps commute does not see the order of its list. -/
theorem causewaySumsAreOrderFree : Obligations.CausewaySumsAreOrderFree := by
  unfold Obligations.CausewaySumsAreOrderFree
  intro c48 a vs ws h
  exact h.foldl_eq' (fun v _ w _ x => cwJoin_right_comm a x (cwWord c48 a v) (cwWord c48 a w)) 0

end Sys2Proof.Proofs
end

section
/-! SUPPORT. What the counting of events leaves: every part of the state but registers and what goes to the host (R473, R501). -/

namespace Sys2Proof.Proofs

open Sys2Proof.Machine Sys2Proof.Laws

/-- A state that differs from another at most in registers and in the messages that wait for the host. -/
def OnlyRegsAndHost (s t : State) : Prop := { t with regs := s.regs, hostOut := s.hostOut } = s

theorem OnlyRegsAndHost.refl (s : State) : OnlyRegsAndHost s s := rfl

theorem OnlyRegsAndHost.words32 {s t : State} (h : OnlyRegsAndHost s t) : t.words32 = s.words32 := (congrArg State.words32 h :)

theorem OnlyRegsAndHost.streams {s t : State} (h : OnlyRegsAndHost s t) : t.streams = s.streams := (congrArg State.streams h :)

theorem OnlyRegsAndHost.trans {s t u : State} (h : OnlyRegsAndHost s t) (h' : OnlyRegsAndHost t u) :
    OnlyRegsAndHost s u := by
  unfold OnlyRegsAndHost at h h' ⊢
  calc ({ u with regs := s.regs, hostOut := s.hostOut } : State)
    _ = { ({ u with regs := t.regs, hostOut := t.hostOut } : State) with regs := s.regs, hostOut := s.hostOut } := rfl
    _ = { t with regs := s.regs, hostOut := s.hostOut } := by rw [h']
    _ = s := h

theorem onlyRegsAndHost_toHost (s : State) (m : HostMsg) : OnlyRegsAndHost s (s.toHost m) := by
  unfold State.toHost
  split <;> rfl

theorem onlyRegsAndHost_irqEdge (s t : State) (p : Nat) : OnlyRegsAndHost t (s.irqEdge p t) := by
  unfold State.irqEdge
  split
  · exact onlyRegsAndHost_toHost t _
  · exact .refl t

theorem onlyRegsAndHost_eventOne (s : State) (p code n i : Nat) : OnlyRegsAndHost s (s.eventOne p code n i) := by
  unfold State.eventOne
  dsimp only
  split
  · split
    · exact .trans (by rfl) (onlyRegsAndHost_irqEdge s _ p)
    · rfl
  · exact .refl s

theorem onlyRegsAndHost_foldl {α : Type} (f : State → α → State) (hf : ∀ s x, OnlyRegsAndHost s (f s x)) (l : List α)
    (s : State) : OnlyRegsAndHost s (l.foldl f s) := by
  induction l generalizing s with
  | nil => exact .refl s
  | cons x r ih => exact (hf s x).trans (ih (f s x))

theorem onlyRegsAndHost_event (s : State) (p code n : Nat) : OnlyRegsAndHost s (s.event p code n) := by
  unfold State.event
  split
  · exact .refl s
  · exact onlyRegsAndHost_foldl _ (fun t i => onlyRegsAndHost_eventOne t p code n i) _ s

@[simp] theorem words32_event (s : State) (p code n : Nat) : (s.event p code n).words32 = s.words32 :=
  (onlyRegsAndHost_event s p code n).words32

@[simp] theorem streams_event (s : State) (p code n : Nat) : (s.event p code n).streams = s.streams :=
  (onlyRegsAndHost_event s p code n).streams

/-! The pages of other cores. -/

theorem otherPagesKept_trans {s t u : State} {c : Nat} (h : OtherPagesKept s t c) (h' : OtherPagesKept t u c) :
    OtherPagesKept s u c :=
  fun n o hn hx ho => (h' n o hn hx ho).trans (h n o hn hx ho)

theorem otherPagesKept_setWords32 (s : State) (us : List (Nat × Word)) (c : Nat) : OtherPagesKept s (s.setWords32 us) c :=
  fun _ _ _ _ _ => rfl

/-- An event of a core changes its own page, and the CXL page where the link drops the interrupt. -/
theorem otherPagesKept_event (s : State) (c code n : Nat) : OtherPagesKept s (s.event (Pg.core c) code n) c :=
  fun _ _ hn hx ho => word_event s code n ⟨ho, fun h => hn h.1, fun h => hx h.1⟩

end Sys2Proof.Proofs
end

section
/-! SUPPORT. One group of an MMA (R33, R35, R36): the words that it writes, what else it can change, and the statement about it. -/

namespace Sys2Proof.Proofs

open Sys2Proof.Machine Sys2Proof.Laws

/-! Lists of writes and of lanes. -/

/-- An index that a list of writes names reads the value that all its writes agree on. -/
theorem sget_ssetMany_of_agree {α : Type} [DecidableEq α] (d : Nat → α) (us : List (Nat × α)) (l : Sparse α) {k : Nat} {v : α}
    (hk : ∃ u ∈ us, u.1 = k) (hv : ∀ u ∈ us, u.1 = k → u.2 = v) : sget d (ssetMany d l us) k = v := by
  induction us generalizing l with
  | nil => simp at hk
  | cons u r ih =>
    change sget d (ssetMany d (sset d l u.1 u.2) r) k = v
    by_cases later : ∃ x ∈ r, x.1 = k
    · exact ih _ later fun x hx => hv x (List.mem_cons_of_mem u hx)
    · have here : u.1 = k := by simpa [later] using hk
      rw [sget_ssetMany_ne _ _ _ _ fun x hx e => later ⟨x, hx, e⟩, here, sget_sset_self]
      exact hv u List.mem_cons_self here

theorem word32_setWords32_of_agree (s : State) {us : List (Nat × Word)} {k : Nat} {v : Word} (hk : ∃ u ∈ us, u.1 = k)
    (hv : ∀ u ∈ us, u.1 = k → u.2 = v) : (s.setWords32 us).word32 k = v :=
  sget_ssetMany_of_agree _ us _ hk hv

theorem word32_setWords32_ne (s : State) {us : List (Nat × Word)} {k : Nat} (h : ∀ u ∈ us, u.1 ≠ k) :
    (s.setWords32 us).word32 k = s.word32 k :=
  sget_ssetMany_ne _ us _ k h

theorem zipIdx_map_range {α : Type} (f : Nat → α) (n : Nat) :
    ((List.range n).map f).zipIdx = (List.range n).map fun i => (f i, i) :=
  List.ext_getElem (by simp) (by simp)

/-! The words of an accumulator set. -/

/-- The elements of one set lie at different words. -/
theorem accKey_inj (s : State) {c a m n m' n' : Nat} (hn : n < 64) (hn' : n' < 64)
    (h : s.accKey c a m n = s.accKey c a m' n') : m = m' ∧ n = n' := by
  have aligned : s.coreArea 4 c % 4 = 0 := by unfold State.coreArea; omega
  unfold State.accKey at h
  omega

/-- The exact sum of group `g` for element (m, n) of an MMA's product. -/
def meSum (s : State) (c : Nat) (a b : MeOperand) (g m n : Nat) : FVal :=
  groupSum (groupWeight a.f b.f) (panelLane a.f (s.meBytes c a g) m) (panelLane b.f (s.meBytes c b g) n)
    (s.meScale c a g m) (s.meScale c b g n)

/-- Element (m, n) of set `aset` after group `g`. -/
def meCell (s : State) (c aset : Nat) (zero : Bool) (a b : MeOperand) (g m n : Nat) : Word :=
  (accumulate (if zero then 0 else s.word32 (s.accKey c aset m n)) (meSum s c a b g m n)).1

/-- The writes of group `g`, row by row. -/
def meWrites (s : State) (c aset : Nat) (zero : Bool) (a b : MeOperand) (g : Nat) : List (Nat × Word) :=
  (List.range 64).flatMap fun m => (List.range 64).map fun n => (s.accKey c aset m n, meCell s c aset zero a b g m n)

theorem mem_meWrites {s : State} {c aset : Nat} {zero : Bool} {a b : MeOperand} {g : Nat} {u : Nat × Word} :
    u ∈ meWrites s c aset zero a b g ↔
      ∃ m < 64, ∃ n < 64, (s.accKey c aset m n, meCell s c aset zero a b g m n) = u := by
  simp only [meWrites, List.mem_flatMap, List.mem_map, List.mem_range]

/-- The sum is rounded once, and a sum of zero leaves the accumulator (R33, R36). -/
theorem accumulate_fst (w : Word) (v : FVal) :
    (accumulate w v).1 = if v.isZero then veQuiet w w else rne32 ((f32 w).add v) := by
  unfold accumulate
  split <;> rfl

/-! The group as a list of writes between counts. -/

/-- What a group does besides its writes changes no tile or accumulator word, no memory, no stream and no page of another
core. -/
structure GroupLeaves (s t : State) (c : Nat) : Prop where
  words32 : t.words32 = s.words32
  mem     : t.mem = s.mem
  streams : t.streams = s.streams
  pages   : OtherPagesKept s t c

theorem groupLeaves_refl (s : State) (c : Nat) : GroupLeaves s s c := ⟨rfl, rfl, rfl, fun _ _ _ _ _ => rfl⟩

theorem GroupLeaves.trans {s t u : State} {c : Nat} (h : GroupLeaves s t c) (h' : GroupLeaves t u c) : GroupLeaves s u c :=
  ⟨h'.words32.trans h.words32, h'.mem.trans h.mem, h'.streams.trans h.streams, otherPagesKept_trans h.pages h'.pages⟩

theorem GroupLeaves.setWords32 {s t : State} {c : Nat} (h : GroupLeaves s t c) (us : List (Nat × Word)) :
    GroupLeaves (s.setWords32 us) (t.setWords32 us) c := by
  refine ⟨?_, h.mem, h.streams, h.pages⟩
  rw [State.setWords32, State.setWords32, h.words32]

theorem groupLeaves_event (s : State) (c code n : Nat) : GroupLeaves s (s.event (Pg.core c) code n) c :=
  ⟨words32_event .., mem_event .., streams_event .., otherPagesKept_event s c code n⟩

/-- The zero map records lanes and counts events (R100, R101). -/
theorem groupLeaves_meZeroMap (s : State) (c r ks : Nat) (la lb : List (Nat × List FVal)) :
    GroupLeaves s (s.meZeroMap c r ks la lb) c := by
  obtain ⟨hwords, hmem, hstreams, hpages⟩ := (groupLeaves_event s c 0x0B0 _).trans (groupLeaves_event _ c 0x0B1 _)
  exact ⟨hwords, hmem, hstreams, hpages⟩

/-- A group is its writes, after the zero map where one is kept and before its counts. -/
theorem meGroup_eq (s : State) (c aset : Nat) (zero : Bool) (a b : MeOperand) (g : Nat) (zen : Option Nat) :
    ∃ u i o, GroupLeaves s u c ∧ s.meGroup c aset zero a b g zen =
      ((u.setWords32 (meWrites s c aset zero a b g)).event (Pg.core c) 0x0A0 i).event (Pg.core c) 0x0A1 o := by
  unfold State.meGroup
  simp only [zipIdx_map_range, List.flatMap_map, List.map_map, List.map_flatMap]
  cases zen with
  | none => exact ⟨s, _, _, groupLeaves_refl s c, rfl⟩
  | some r => exact ⟨_, _, _, groupLeaves_meZeroMap s c r _ _ _, rfl⟩

/-- What a group leaves, and the words after its writes. -/
theorem meGroup_frame (s : State) (c aset : Nat) (zero : Bool) (a b : MeOperand) (g : Nat) (zen : Option Nat) :
    GroupLeaves (s.setWords32 (meWrites s c aset zero a b g)) (s.meGroup c aset zero a b g zen) c := by
  obtain ⟨u, i, o, hu, heq⟩ := meGroup_eq s c aset zero a b g zen
  have written := hu.setWords32 (meWrites s c aset zero a b g)
  exact heq ▸ (written.trans (groupLeaves_event _ c 0x0A0 i)).trans (groupLeaves_event _ c 0x0A1 o)

theorem word32_meGroup (s : State) (c aset : Nat) (zero : Bool) (a b : MeOperand) (g : Nat) (zen : Option Nat) (k : Nat) :
    (s.meGroup c aset zero a b g zen).word32 k =
      (s.setWords32 (meWrites s c aset zero a b g)).word32 k := by
  rw [State.word32, (meGroup_frame s c aset zero a b g zen).words32, State.word32]

/-- Settles O6: the group's list of writes names each element of the set once, with the old value and the group's sum
rounded. -/
theorem mmaGroupAccumulates : Obligations.MmaGroupAccumulates := by
  unfold Obligations.MmaGroupAccumulates
  intro s c aset zero a b g zen t
  have kept := meGroup_frame s c aset zero a b g zen
  refine ⟨fun m n hm hn => ?_, fun k hk => ?_, kept.mem.trans (setWords32_mem s _),
    kept.streams.trans (setWords32_streams s _), otherPagesKept_trans (otherPagesKept_setWords32 s _ c) kept.pages⟩
  · have cell : t.word32 (s.accKey c aset m n) = meCell s c aset zero a b g m n := by
      refine (word32_meGroup ..).trans (word32_setWords32_of_agree s ⟨_, mem_meWrites.mpr ⟨m, hm, n, hn, rfl⟩, rfl⟩ ?_)
      intro u hu hkey
      obtain ⟨m', -, n', hn', rfl⟩ := mem_meWrites.mp hu
      obtain ⟨rfl, rfl⟩ := accKey_inj s hn' hn hkey
      rfl
    exact cell.trans (accumulate_fst _ _)
  · refine (word32_meGroup ..).trans (word32_setWords32_ne s fun u hu hkey => ?_)
    obtain ⟨m, hm, n, hn, rfl⟩ := mem_meWrites.mp hu
    exact hk m n hm hn hkey.symm

end Sys2Proof.Proofs
end

section
/-! SUPPORT. The firing of an instruction (R57, R62, R63): when the head fires, what firing does to the queue, and the registers
that a core engine's firing without claims can change. -/

namespace Sys2Proof.Proofs

open Sys2Proof.Machine Sys2Proof.Laws

/-! When the head fires. -/

/-- A head whose tokens are there and that its check lets go takes effect at its index. -/
theorem tryFire_of_fires {s : State} {k : Nat} {i : BitVec 256} {r : List (BitVec 256)} (h : Fires s k i r)
    {want : BitVec 256 → Bool} {check : State → BitVec 256 → Nat → Ready} (home : BitVec 256 → Nat)
    (go : State → BitVec 256 → Nat → State) (hwant : want i = true) (hcheck : check s i (s.engine k).head = .go) :
    s.tryFire k want check home go = go s i (s.engine k).head := by
  simp [State.tryFire, h.queue, hwant, h.runs, h.tokens, hcheck]

/-- An instruction that its own judgement lets go is not behind engines that leave its tokens. -/
theorem behind_go {before : State} {ws : List (Nat × Nat)} (h : before.tokensReady ws = true) :
    Ready.behind .go before ws = .go := by
  simp [Ready.behind, h]

/-! What every firing leaves. -/

/-- A state that differs from another at most in registers, in messages for the host, in the engines' queues and in what is
in flight. -/
def OnlyIssue (s t : State) : Prop :=
  { t with regs := s.regs, hostOut := s.hostOut, engines := s.engines, ids := s.ids, inflight := s.inflight } = s

theorem OnlyIssue.words32 {s t : State} (h : OnlyIssue s t) : t.words32 = s.words32 := (congrArg State.words32 h :)
theorem OnlyIssue.mem {s t : State} (h : OnlyIssue s t) : t.mem = s.mem := (congrArg State.mem h :)
theorem OnlyIssue.streams {s t : State} (h : OnlyIssue s t) : t.streams = s.streams := (congrArg State.streams h :)
theorem OnlyIssue.windows {s t : State} (h : OnlyIssue s t) : t.windows = s.windows := (congrArg State.windows h :)
theorem OnlyIssue.pmapEff {s t : State} (h : OnlyIssue s t) : t.pmapEff = s.pmapEff := (congrArg State.pmapEff h :)
theorem OnlyIssue.landings {s t : State} (h : OnlyIssue s t) : t.landings = s.landings := (congrArg State.landings h :)
theorem OnlyIssue.tags {s t : State} (h : OnlyIssue s t) : t.tags = s.tags := (congrArg State.tags h :)

theorem OnlyRegs.onlyRegsAndHost {s t : State} (h : OnlyRegs s t) : OnlyRegsAndHost s t :=
  (congrArg (fun u : State => { u with hostOut := s.hostOut }) h :)

theorem OnlyRegsAndHost.engines {s t : State} (h : OnlyRegsAndHost s t) : t.engines = s.engines :=
  (congrArg State.engines h :)

theorem onlyRegs_occupancy (s : State) (k : Nat) : OnlyRegs s (s.occupancy k) := by
  unfold State.occupancy
  dsimp only
  split
  · split
    · exact onlyRegs_wr ..
    · exact onlyRegs_wr ..
    · exact onlyRegs_wr ..
    · exact .refl s
  · split
    · exact onlyRegs_wr ..
    · exact onlyRegs_wr ..
    · exact onlyRegs_wr ..
    · exact onlyRegs_wr ..

theorem onlyRegs_takeTokens (s : State) (ws : List (Nat × Nat)) : OnlyRegs s (s.takeTokens ws) :=
  onlyRegs_foldl _ (fun _ _ => onlyRegs_wr ..) ws s

theorem onlyRegs_setValids (s : State) (gs : List (Nat × Nat)) (b : Bool) : OnlyRegs s (s.setValids gs b) :=
  onlyRegs_foldl _ (fun _ _ => onlyRegs_wr ..) gs s

/-- Engine `k` without the head of its queue. -/
def popped (s : State) (k : Nat) : State :=
  s.setEngine k { s.engine k with queue := (s.engine k).queue.drop 1, head := (s.engine k).head + 1 }

/-- The registers of a firing: occupancy, tokens, claims and the count of instructions. -/
def fireRegs (s : State) (k : Nat) (i : BitVec 256) (claims : List (Nat × Nat)) : State :=
  let t := ((s.occupancy k).takeTokens (waitsOf k i)).setValids claims false
  if k < 1024 then t.event (engPage k) (0x0B3 + k % 4) 1 else t

theorem onlyRegsAndHost_fireRegs (s : State) (k : Nat) (i : BitVec 256) (claims : List (Nat × Nat)) :
    OnlyRegsAndHost s (fireRegs s k i claims) := by
  have before := ((onlyRegs_occupancy s k).trans (onlyRegs_takeTokens _ (waitsOf k i))).trans (onlyRegs_setValids _ claims false)
  unfold fireRegs
  dsimp only
  split
  · exact before.onlyRegsAndHost.trans (onlyRegsAndHost_event _ _ _ _)
  · exact before.onlyRegsAndHost

/-- A firing pops the queue, changes registers and puts the instruction in flight. -/
theorem fire_eq (s : State) (k : Nat) (i : BitVec 256) (claims : List (Nat × Nat)) (busy : Bool) :
    ∃ id fl, (s.fire k i claims busy).1 = { fireRegs (popped s k) k i claims with ids := id, inflight := fl } :=
  ⟨_, _, rfl⟩

theorem onlyIssue_fire (s : State) (k : Nat) (i : BitVec 256) (claims : List (Nat × Nat)) (busy : Bool) :
    OnlyIssue s (s.fire k i claims busy).1 := by
  obtain ⟨id, fl, fired⟩ := fire_eq s k i claims busy
  have regs := onlyRegsAndHost_fireRegs (popped s k) k i claims
  rw [fired]
  exact (congrArg (fun u : State => { u with engines := s.engines, ids := s.ids, inflight := s.inflight }) regs :)

/-- A fired instruction has left its engine's queue. -/
theorem leftQueue_fire {s : State} {k : Nat} {i : BitVec 256} {r : List (BitVec 256)} (h : (s.engine k).queue = i :: r)
    (claims : List (Nat × Nat)) (busy : Bool) : LeftQueue s (s.fire k i claims busy).1 k r := by
  obtain ⟨id, fl, fired⟩ := fire_eq s k i claims busy
  have engines : (s.fire k i claims busy).1.engines = (popped s k).engines :=
    (congrArg State.engines fired).trans (onlyRegsAndHost_fireRegs _ k i claims).engines
  have popped : (s.fire k i claims busy).1.engine k
      = { s.engine k with queue := (s.engine k).queue.drop 1, head := (s.engine k).head + 1 } := by
    rw [State.engine, engines]
    exact sget_sset_self _ _ _ _
  exact ⟨by rw [popped, h]; rfl, by rw [popped]⟩

/-- What keeps the queues keeps that the instruction has left. -/
theorem leftQueue_of_engines {s t u : State} {k : Nat} {r : List (BitVec 256)} (h : LeftQueue s t k r)
    (he : u.engines = t.engines) : LeftQueue s u k r := by
  have same : u.engine k = t.engine k := by rw [State.engine, he, State.engine]
  exact ⟨same ▸ h.1, same ▸ h.2⟩

@[simp] theorem engines_event (s : State) (p code n : Nat) : (s.event p code n).engines = s.engines :=
  (onlyRegsAndHost_event s p code n).engines

/-! Registers of a core engine's firing. -/

/-- A word that no firing of an engine of core `c` without claims changes: outside the CXL page, and in the core's page neither
in the common area, nor a token counter, nor at 0x300 or above. -/
def FireKeeps (c n o : Nat) : Prop :=
  o < 4096 ∧ n ≠ Pg.cxl ∧ (n = Pg.core c → 0x100 ≤ o ∧ o < 0x140 ∨ 0x180 ≤ o ∧ o < 0x300)

theorem FireKeeps.eventLeaves {c n o : Nat} (h : FireKeeps c n o) : EventLeaves (Pg.core c) n o := by
  obtain ⟨ho, hcxl, hcore⟩ := h
  refine ⟨ho, fun hn => ?_, fun hn => hcxl hn.1⟩
  have := hcore hn.1
  omega

theorem word_wr_of_fireKeeps (s : State) {c n o : Nat} (h : FireKeeps c n o) (f : FieldSpec) (ix : List Nat) (v : Nat)
    (hlow : 0x140 ≤ f.off ix) (hhigh : f.off ix < 4096) (hgap : f.off ix < 0x180 ∨ 0x300 ≤ f.off ix) :
    (s.wr (Pg.core c) f ix v).word n o = s.word n o := by
  obtain ⟨ho, -, hcore⟩ := h
  refine word_wr_of_ne s f ix v rfl hhigh ho fun same => ?_
  have := hcore same.1
  omega

theorem engPage_core {k : Nat} (hk : k < 1024) : engPage k = Pg.core (k / 4) := if_pos hk

theorem word_occupancy (s : State) {k n o : Nat} (hk : k < 1024) (h : FireKeeps (k / 4) n o) :
    (s.occupancy k).word n o = s.word n o := by
  unfold State.occupancy
  dsimp only
  rw [if_pos hk, engPage_core hk]
  split
  · exact word_wr_of_fireKeeps s h _ _ _ (by decide) (by decide) (by decide)
  · exact word_wr_of_fireKeeps s h _ _ _ (by decide) (by decide) (by decide)
  · exact word_wr_of_fireKeeps s h _ _ _ (by decide) (by decide) (by decide)
  · rfl

theorem bits_lt (n hi lo : Nat) : bits n hi lo < 2 ^ (hi - lo + 1) := Nat.mod_lt _ (Nat.two_pow_pos _)

/-- A core engine's instruction waits for counters of its own core, of which there are 64. -/
theorem mem_coreWaits {c : Nat} {i : BitVec 256} {w : Nat × Nat} (h : w ∈ coreWaits c i) : w.1 = c ∧ w.2 < 64 := by
  obtain ⟨b, -, rfl⟩ := List.mem_map.mp (List.mem_eraseDups.mp h)
  have width : 32 * 1 + (b + 5) - (32 * 1 + b) + 1 = 6 := by omega
  refine ⟨rfl, ?_⟩
  have := bits_lt i.toNat (32 * 1 + (b + 5)) (32 * 1 + b)
  rwa [width] at this

theorem word_setToken (s : State) {c n o t v : Nat} (ht : t < 64) (h : FireKeeps c n o) :
    (s.setToken c t v).word n o = s.word n o := by
  have off : FieldSpec.off ⟨0x140, [(4, 16)], t % 4 * 8 + 7, t % 4 * 8, .ro, 0⟩ [t / 4] = 0x140 + 4 * (t / 4) := by
    simp [FieldSpec.off]
  exact word_wr_of_fireKeeps s h _ _ _ (by omega) (by omega) (by omega)

theorem word_takeTokens (s : State) {c n o : Nat} (i : BitVec 256) (h : FireKeeps c n o) :
    (s.takeTokens (coreWaits c i)).word n o = s.word n o := by
  refine foldl_keeps (fun t : State => t.word n o) _ _ s fun t w hw => ?_
  obtain ⟨core, counter⟩ := mem_coreWaits hw
  rw [core]
  exact word_setToken t counter h

/-- What a firing without claims of an engine of core `c` leaves. -/
structure FireLeaves (s t : State) (c : Nat) : Prop where
  rest  : OnlyIssue s t
  words : ∀ n o, FireKeeps c n o → t.word n o = s.word n o

theorem fireLeaves_fire (s : State) {k : Nat} (hk : k < 1024) (i : BitVec 256) (busy : Bool) :
    FireLeaves s (s.fire k i [] busy).1 (k / 4) := by
  refine ⟨onlyIssue_fire s k i [] busy, fun n o h => ?_⟩
  have waits : waitsOf k i = coreWaits (k / 4) i := if_pos hk
  change (fireRegs (popped s k) k i []).word n o = s.word n o
  unfold fireRegs
  dsimp only
  rw [if_pos hk, engPage_core hk, word_event _ _ _ h.eventLeaves, waits]
  exact (word_takeTokens _ i h).trans (word_occupancy (popped s k) hk h)

/-- A firing changes no tile or accumulator word, no memory, no stream and no page of another core. -/
theorem FireLeaves.groupLeaves {s t : State} {c : Nat} (h : FireLeaves s t c) : GroupLeaves s t c :=
  ⟨h.rest.words32, h.rest.mem, h.rest.streams, fun n o hn hx ho => h.words n o ⟨ho, hx, fun e => absurd e hn⟩⟩

end Sys2Proof.Proofs
end

section
/-! SUPPORT. The VE's operations on tile registers (R120 to R128): when they fire, what they write and what else they change, and
the statements about them. -/

namespace Sys2Proof.Proofs

open Sys2Proof.Machine Sys2Proof.Laws

/-! Tile registers. -/

/-- The elements of one tile register lie at different words. -/
theorem tileKey_inj (s : State) {c v m n m' n' : Nat} (hn : n < 64) (hn' : n' < 64)
    (h : s.tileKey c v m n = s.tileKey c v m' n') : m = m' ∧ n = n' := by
  have aligned : s.coreArea 4 c % 4 = 0 := by unfold State.coreArea; omega
  unfold State.tileKey at h
  omega

/-! Firing. -/

theorem veKey_lt (c : CoreId) : veKey c < 1024 := by
  have := c.isLt
  unfold veKey
  omega

theorem veKey_core (c : Nat) : veKey c / 4 = c := by
  unfold veKey
  omega

/-- Before its VE, a core's ME and MVP fire (R63). -/
theorem firedBefore_veKey (s : State) (c : CoreId) : s.firedBefore (veKey c) = s.mvFires c := by
  have engine : veKey c % 4 = 2 := by unfold veKey; omega
  simp only [State.firedBefore, veKey_lt c, if_true, engine, veKey_core]

/-- The head of the VE's queue fires once its fields are well formed and, for a load or store, its descriptor is legal. -/
theorem veFire_of_fires {s : State} {c : CoreId} {i : BitVec 256} {r : List (BitVec 256)} (h : Fires s (veKey c) i r)
    (hfields : veFieldsOk i = true)
    (hdesc : veOpc i = 1 ∨ veOpc i = 2 → s.checkDesc c (veDesc i) (veOpc i == 1) = none) {want : BitVec 256 → Bool}
    (hwant : want i = true) (go : State → BitVec 256 → Nat → State) :
    s.veFire c want go = go s i (s.engine (veKey c)).head := by
  refine tryFire_of_fires h _ go hwant ?_
  have judged : s.veJudge c i (s.engine (veKey c)).head = .go := by
    unfold State.veJudge
    rw [h.alone, hfields, if_neg (by simp), if_neg (by simp)]
    split
    · next load => rw [hdesc (by simpa using load)]
    · rfl
  have first := h.first
  rw [firedBefore_veKey] at first
  rw [State.veCheck, judged, behind_go first]

theorem fireLeaves_ve (s : State) (c : CoreId) (i : BitVec 256) (busy : Bool) :
    FireLeaves s (s.fire (veKey c) i [] busy).1 c := by
  have leaves := fireLeaves_fire s (veKey_lt c) i busy
  rwa [veKey_core] at leaves

/-! Results. -/

/-- An instruction of the VE has left the queue, written the words `us`, and changed besides them only what a firing and the
counts of its events do. -/
structure VeWrote (s t : State) (c : Nat) (r : List (BitVec 256)) (us : List (Nat × Word)) : Prop where
  queue  : LeftQueue s t (veKey c) r
  leaves : GroupLeaves (s.setWords32 us) t c

section

variable {s t : State} {c : Nat} {r : List (BitVec 256)} {us : List (Nat × Word)} (h : VeWrote s t c r us)

include h

theorem VeWrote.mem : t.mem = s.mem := h.leaves.mem.trans (setWords32_mem s us)

theorem VeWrote.streams : t.streams = s.streams := h.leaves.streams.trans (setWords32_streams s us)

theorem VeWrote.pages : OtherPagesKept s t c := otherPagesKept_trans (otherPagesKept_setWords32 s us c) h.leaves.pages

theorem VeWrote.word32 (k : Nat) : t.word32 k = (s.setWords32 us).word32 k := by
  rw [State.word32, h.leaves.words32, State.word32]

/-- A word that the writes name, all with one value, has that value. -/
theorem VeWrote.word32_of_agree {k : Nat} {v : Word} (hk : ∃ u ∈ us, u.1 = k) (hv : ∀ u ∈ us, u.1 = k → u.2 = v) :
    t.word32 k = v := (h.word32 k).trans (word32_setWords32_of_agree s hk hv)

theorem VeWrote.word32_ne {k : Nat} (hk : ∀ u ∈ us, u.1 ≠ k) : t.word32 k = s.word32 k :=
  (h.word32 k).trans (word32_setWords32_ne s hk)

/-- The count of its events changes no result of an instruction. -/
theorem VeWrote.event (code n : Nat) : VeWrote s (t.event (Pg.core c) code n) c r us :=
  ⟨leftQueue_of_engines h.queue (engines_event t _ code n), h.leaves.trans (groupLeaves_event t c code n)⟩

end

section

variable {s t : State} {c : Nat} {r : List (BitVec 256)} {us : List (Nat × Word)} (h : VeWrote s t c r us)
  {v rows : Nat} {cell : Nat → Nat → Word}
  (named : ∀ {u : Nat × Word}, u ∈ us ↔ ∃ m < rows, ∃ n < 64, (s.tileKey c v m n, cell m n) = u)

include h named

/-- Writes that name each element of the first rows of tile `v` once give it its value. -/
theorem VeWrote.tile_cell {m n : Nat} (hm : m < rows) (hn : n < 64) : t.word32 (s.tileKey c v m n) = cell m n := by
  refine h.word32_of_agree ⟨_, named.mpr ⟨m, hm, n, hn, rfl⟩, rfl⟩ fun u hu hkey => ?_
  obtain ⟨m', -, n', hn', rfl⟩ := named.mp hu
  obtain ⟨rfl, rfl⟩ := tileKey_inj s hn' hn hkey
  rfl

theorem VeWrote.tile_frame {k : Nat} (hk : ∀ m n, m < rows → n < 64 → k ≠ s.tileKey c v m n) :
    t.word32 k = s.word32 k := by
  refine h.word32_ne fun u hu hkey => ?_
  obtain ⟨m, hm, n, hn, rfl⟩ := named.mp hu
  exact hk m n hm hn hkey.symm

end

/-- A fired instruction that writes tile elements has written them. -/
theorem veWrote_fire {s : State} {c : CoreId} {i : BitVec 256} {r : List (BitVec 256)} (h : (s.engine (veKey c)).queue = i :: r)
    (busy : Bool) (us : List (Nat × Word)) : VeWrote s ((s.fire (veKey c) i [] busy).1.setWords32 us) c r us :=
  ⟨leftQueue_of_engines (leftQueue_fire h [] busy) (setWords32_engines _ us),
    (fireLeaves_ve s c i busy).groupLeaves.setWords32 us⟩

/-- An operation on tile elements alone fires, writes them and counts INVALID and OVERFLOW (R127). -/
theorem veWrote_fire_counted {s : State} {c : CoreId} {i : BitVec 256} {r : List (BitVec 256)}
    (h : (s.engine (veKey c)).queue = i :: r) {us ws : List (Nat × Word)} (hus : us = ws) (invalid overflow : Nat) :
    VeWrote s ((((s.fire (veKey c) i [] false).1.setWords32 us).event (Pg.core c) 0x0A8 invalid).event
      (Pg.core c) 0x0A9 overflow) c r ws :=
  hus ▸ ((veWrote_fire h false us).event 0x0A8 invalid).event 0x0A9 overflow

/-! Lane operations (R120, R121). -/

/-- Element (m, n) of a lane operation's result: its function of the operands' elements. -/
def laneCell (s : State) (c : Nat) (i : BitVec 256) (f : Word → Word → Word → Word) (m n : Nat) : Word :=
  let elem := fun o => s.veElem c (veImm i 0) (veImm i 1) o m n
  f (elem (veA i)) (elem (veB i)) (elem (veC i))

/-- The writes of a lane operation, row by row. -/
def laneWrites (s : State) (c : Nat) (i : BitVec 256) (f : Word → Word → Word → Word) : List (Nat × Word) :=
  (List.range (veNr i + 1)).flatMap fun m => (List.range 64).map fun n => (s.tileKey c (veDst i) m n, laneCell s c i f m n)

theorem mem_laneWrites {s : State} {c : Nat} {i : BitVec 256} {f : Word → Word → Word → Word} {u : Nat × Word} :
    u ∈ laneWrites s c i f ↔ ∃ m < veNr i + 1, ∃ n < 64, (s.tileKey c (veDst i) m n, laneCell s c i f m n) = u := by
  simp only [laneWrites, List.mem_flatMap, List.mem_map, List.mem_range]

theorem veWrote_veMap {s : State} {c : CoreId} {hw : HwErr} {i : BitVec 256} {r : List (BitVec 256)}
    (h : (s.engine (veKey c)).queue = i :: r) (hhw : veStruck hw false = false) (pc : Nat)
    (f : Word → Word → Word → Word × FpEvents) :
    VeWrote s (s.veMap c hw i pc f) c r (laneWrites s c i fun x y z => (f x y z).1) := by
  unfold State.veMap
  rw [hhw]
  simp only [Bool.false_eq_true, if_false, List.map_flatMap, List.map_map]
  exact veWrote_fire_counted h rfl _ _

/-- The command of a lane operation is `veMap` of a function whose words are the operation's. -/
def IsVeMap (l : VeLane) : Prop :=
  ∃ f : Word → Word → Word → Word × FpEvents,
    (∀ (c : CoreId) (hw : HwErr) (s : State),
      exec (l.cmd c hw) s = .next (s.veFire c (veIs l.opc l.func) fun s i pc => s.veMap c hw i pc f)) ∧
    ∀ x y z, (f x y z).1 = l.fn x y z

theorem maxMin_eq_veMax (big : Bool) (a b : Word) : maxMin big a b = veMax big a b := by
  unfold maxMin veMax nan32
  cases big <;> cases a.getLsbD 31 <;> rfl

/-- Each lane operation of R124 to R126 with the model's function for it. -/
theorem isVeMap_of_mem_veLanes : ∀ l ∈ veLanes, IsVeMap l := by
  simp only [veLanes, List.forall_mem_cons]
  exact ⟨⟨ewOp .add, fun _ _ _ => rfl, fun _ _ _ => rfl⟩,
    ⟨ewOp .sub, fun _ _ _ => rfl, fun _ _ _ => rfl⟩,
    ⟨ewOp .mul, fun _ _ _ => rfl, fun _ _ _ => rfl⟩,
    ⟨ewOp .fma, fun _ _ _ => rfl, fun _ _ _ => rfl⟩,
    ⟨ewOp .max, fun _ _ _ => rfl, fun x y _ => maxMin_eq_veMax true x y⟩,
    ⟨ewOp .min, fun _ _ _ => rfl, fun x y _ => maxMin_eq_veMax false x y⟩,
    ⟨ewOp .abs, fun _ _ _ => rfl, fun _ _ _ => rfl⟩,
    ⟨ewOp .neg, fun _ _ _ => rfl, fun _ _ _ => rfl⟩,
    ⟨ewOp .mov, fun _ _ _ => rfl, fun _ _ _ => rfl⟩,
    ⟨fun x _ _ => fnOp .exp2 x, fun _ _ _ => rfl, fun _ _ _ => rfl⟩,
    ⟨fun x _ _ => fnOp .log2 x, fun _ _ _ => rfl, fun _ _ _ => rfl⟩,
    ⟨fun x _ _ => fnOp .rcp x, fun _ _ _ => rfl, fun _ _ _ => rfl⟩,
    ⟨fun x _ _ => fnOp .rsqrt x, fun _ _ _ => rfl, fun _ _ _ => rfl⟩,
    ⟨fun x _ _ => fnOp .sqrt x, fun _ _ _ => rfl, fun _ _ _ => rfl⟩,
    ⟨fun x y _ => (cmpOp .lt x y, FpEvents.none), fun _ _ _ => rfl, fun _ _ _ => rfl⟩,
    ⟨fun x y _ => (cmpOp .le x y, FpEvents.none), fun _ _ _ => rfl, fun _ _ _ => rfl⟩,
    ⟨fun x y _ => (cmpOp .eq x y, FpEvents.none), fun _ _ _ => rfl, fun _ _ _ => rfl⟩,
    ⟨fun x y _ => (cmpOp .ne x y, FpEvents.none), fun _ _ _ => rfl, fun _ _ _ => rfl⟩,
    ⟨fun x y z => (selOp x y z, FpEvents.none), fun _ _ _ => rfl, fun _ _ _ => rfl⟩,
    fun _ h => absurd h List.not_mem_nil⟩

/-- The classes of the lane operations take no descriptor. -/
theorem opc_of_mem_veLanes : ∀ l ∈ veLanes, ¬ (l.opc = 1 ∨ l.opc = 2) := by
  simp [veLanes]

/-- Settles O3: the operation's list of writes names each element of rows 0 to NR once. -/
theorem veLaneResults : Obligations.VeLaneResults := by
  unfold Obligations.VeLaneResults
  intro s c hw i r l hl fires hfields hopc hfunc hhw
  obtain ⟨f, command, word⟩ := isVeMap_of_mem_veLanes l hl
  have noDesc : ¬ (veOpc i = 1 ∨ veOpc i = 2) := hopc ▸ opc_of_mem_veLanes l hl
  have wanted : veIs l.opc l.func i = true := by simp [veIs, hopc, hfunc]
  have wrote := veWrote_veMap fires.queue hhw (s.engine (veKey c)).head f
  simp only [word] at wrote
  refine ⟨_, ?_, wrote.queue, fun m n hm hn => ?_, fun k hk => ?_, wrote.mem, wrote.streams, wrote.pages⟩
  · rw [command, veFire_of_fires fires hfields (fun h => absurd h noDesc) wanted]
  · exact wrote.tile_cell mem_laneWrites (Nat.lt_succ_of_le hm) hn
  · exact wrote.tile_frame mem_laneWrites fun m n hm => hk m n (Nat.le_of_lt_succ hm)

end Sys2Proof.Proofs
end

section
/-! SUPPORT. The VE's reductions (R128): the line of results that one writes, and the statement about them. -/

namespace Sys2Proof.Proofs

open Sys2Proof.Machine Sys2Proof.Laws

/-- FUNC of a reduction (R117). -/
def redFunc : RedOp → Nat
  | .sum => 0
  | .max => 1
  | .min => 2

/-- The element of tile `v` at place `y` of line `x`: a row (AXIS 0) or a column (AXIS 1). -/
def lineKey (s : State) (c : Nat) (i : BitVec 256) (v x y : Nat) : Nat :=
  if veAxis i = 0 then s.tileKey c v x y else s.tileKey c v y x

/-- The result of line `x`. -/
def redCell (s : State) (c : Nat) (i : BitVec 256) (o : RedOp) (x : Nat) : Word :=
  let v := (redLine o (veNr i + 1) fun y => s.word32 (lineKey s c i (veA i).tile x y)).1
  if veRacc i then (o.op (s.word32 (lineKey s c i (veDst i) x (veDidx i))) v).1 else v

/-- The writes of a reduction, line by line. -/
def redWrites (s : State) (c : Nat) (i : BitVec 256) (o : RedOp) : List (Nat × Word) :=
  (List.range 64).map fun x => (lineKey s c i (veDst i) x (veDidx i), redCell s c i o x)

theorem mem_redWrites {s : State} {c : Nat} {i : BitVec 256} {o : RedOp} {u : Nat × Word} :
    u ∈ redWrites s c i o ↔ ∃ x < 64, (lineKey s c i (veDst i) x (veDidx i), redCell s c i o x) = u := by
  simp only [redWrites, List.mem_map, List.mem_range]

/-- Results of different lines lie at different words. -/
theorem lineKey_inj (s : State) {c v x x' y : Nat} {i : BitVec 256} (hx : x < 64) (hx' : x' < 64) (hy : y < 64)
    (h : lineKey s c i v x y = lineKey s c i v x' y) : x = x' := by
  unfold lineKey at h
  split at h
  · exact (tileKey_inj s hy hy h).1
  · exact (tileKey_inj s hx hx' h).2

theorem veDidx_lt (i : BitVec 256) : veDidx i < 64 := bits_lt _ _ _

/-- A reduction's effect from firing on, as `State.veRed` says it, leaves its line of results. -/
theorem veRed_of_fires {s : State} {c : CoreId} {hw : HwErr} {i : BitVec 256} {r : List (BitVec 256)} {o : RedOp}
    (h : Fires s (veKey c) i r) (hfields : veFieldsOk i = true) (hopc : veOpc i = 5) (hfunc : veFunc i = redFunc o)
    (hhw : veStruck hw false = false) : VeWrote s (s.veRed c hw (redFunc o) o) c r (redWrites s c i o) := by
  have wanted : veIs 5 (redFunc o) i = true := by simp [veIs, hopc, hfunc]
  have noDesc : ¬ (veOpc i = 1 ∨ veOpc i = 2) := by omega
  rw [State.veRed, veFire_of_fires h hfields (fun d => absurd d noDesc) wanted, hhw]
  simp only [Bool.false_eq_true, if_false, List.map_map]
  refine veWrote_fire_counted h.queue (List.map_congr_left fun x _ => ?_) _ _
  dsimp only [Function.comp, redCell, lineKey]
  split <;> rfl

/-- The command of a reduction. -/
def redCmd : RedOp → CoreId → HwErr → Instr
  | .sum => .redSum
  | .max => .redMax
  | .min => .redMin

theorem exec_redCmd (o : RedOp) (c : CoreId) (hw : HwErr) (s : State) :
    exec (redCmd o c hw) s = .next (s.veRed c hw (redFunc o) o) := by
  cases o <;> rfl

/-- Settles O4: the reduction's list of writes names the result of each line once. -/
theorem veReductionResults : Obligations.VeReductionResults := by
  unfold Obligations.VeReductionResults
  intro s c hw i r o fires hfields hopc hfunc hhw
  have func : veFunc i = redFunc o := by cases o <;> exact hfunc
  have wrote := veRed_of_fires fires hfields hopc func hhw
  refine ⟨_, ?_, wrote.queue, fun x hx => ?_, fun k hk => ?_, wrote.mem, wrote.pages⟩
  · cases o with
    | sum => exact exec_redCmd .sum c hw s
    | max => exact exec_redCmd .max c hw s
    | min => exact exec_redCmd .min c hw s
  · refine wrote.word32_of_agree ⟨_, mem_redWrites.mpr ⟨x, hx, rfl⟩, rfl⟩ fun u hu hkey => ?_
    obtain ⟨x', hx', rfl⟩ := mem_redWrites.mp hu
    obtain rfl := lineKey_inj s hx' hx (veDidx_lt i) hkey
    rfl
  · refine wrote.word32_ne fun u hu hkey => ?_
    obtain ⟨x, hx, rfl⟩ := mem_redWrites.mp hu
    exact hk x hx hkey.symm

end Sys2Proof.Proofs
end

section
/-! SUPPORT. What a core engine's firing leaves of what the core reads: memory through its map, windows, scoreboard and tags, and
the numbers of its step (R58, R66, R143, R171, R194, R286). -/

namespace Sys2Proof.Proofs

open Sys2Proof.Machine Sys2Proof.Laws

/-! Pages. -/

theorem core_ne_cxl (c : Nat) : Pg.core c ≠ Pg.cxl := by
  unfold Pg.core Pg.cxl
  omega

/-- Words of a page that is no core's and not the CXL page. -/
theorem fireKeeps_of_page {c n o : Nat} (hcxl : n ≠ Pg.cxl) (hcore : n ≠ Pg.core c) (ho : o < 4096) : FireKeeps c n o :=
  ⟨ho, hcxl, fun e => absurd e hcore⟩

theorem fireKeeps_hub {c n o : Nat} (hcxl : n ≠ Pg.cxl) (hn : n < 0x100) (ho : o < 4096) : FireKeeps c n o :=
  fireKeeps_of_page hcxl (by unfold Pg.core; omega) ho

theorem fireKeeps_die {c d o : Nat} (ho : o < 4096) : FireKeeps c (Pg.die d) o :=
  fireKeeps_of_page (by unfold Pg.die Pg.cxl; omega) (by unfold Pg.die Pg.core; omega) ho

theorem fireKeeps_clu {c cl o : Nat} (ho : o < 4096) : FireKeeps c (Pg.clu cl) o :=
  fireKeeps_of_page (by unfold Pg.clu Pg.cxl; omega) (by unfold Pg.clu Pg.core; omega) ho

/-- Spare banks and valid bits in the page of any core. -/
theorem fireKeeps_core {c c' o : Nat} (ho : 0x100 ≤ o ∧ o < 0x140 ∨ 0x180 ≤ o ∧ o < 0x300) : FireKeeps c (Pg.core c') o :=
  ⟨by omega, core_ne_cxl c', fun _ => ho⟩

/-! Reads. -/

/-- Functions that agree on a list's members find the same there. -/
theorem findSome?_eq_of_forall_mem {α β : Type} {f g : α → Option β} {l : List α} (h : ∀ x ∈ l, f x = g x) :
    l.findSome? f = l.findSome? g := by
  induction l with
  | nil => rfl
  | cons x r ih =>
    rw [List.findSome?_cons, List.findSome?_cons, h x List.mem_cons_self, ih fun y hy => h y (List.mem_cons_of_mem x hy)]

section

variable {s t : State} {c : Nat} (h : FireLeaves s t c)

include h

theorem FireLeaves.rd {p : Nat} {f : FieldSpec} {ix : List Nat} (hk : FireKeeps c p (f.off ix)) : t.rd p f ix = s.rd p f ix := by
  rw [State.rd, h.words _ _ hk, State.rd]

theorem FireLeaves.coreArea (space c' : Nat) : t.coreArea space c' = s.coreArea space c' := by
  have map := h.words (Pg.clu (c' / 8)) 0x100 (fireKeeps_clu (by decide))
  simp only [State.coreArea, State.physCore, map]

theorem FireLeaves.tileKey (c' v m n : Nat) : t.tileKey c' v m n = s.tileKey c' v m n := by
  rw [State.tileKey, h.coreArea, State.tileKey]

theorem FireLeaves.poolBank (c' b : Nat) : t.poolBank c' b = s.poolBank c' b := by
  have spareA : t.rd (Pg.core c') Reg.Core.SPARE_A_FOR = s.rd (Pg.core c') Reg.Core.SPARE_A_FOR :=
    h.rd (fireKeeps_core (by decide))
  have spareB : t.rd (Pg.core c') Reg.Core.SPARE_B_FOR = s.rd (Pg.core c') Reg.Core.SPARE_B_FOR :=
    h.rd (fireKeeps_core (by decide))
  simp only [State.poolBank, spareA, spareB]

theorem FireLeaves.sstBank (d b : Nat) {sr : Nat} (hsr : sr < 2) : t.sstBank d sr b = s.sstBank d sr b := by
  have spare (f : FieldSpec) (hrep : f.rep = [(4, 2)]) (hbase : f.base = 0x100) :
      t.rd (Pg.die d) f [sr] = s.rd (Pg.die d) f [sr] := by
    have off : f.off [sr] = 0x100 + 4 * sr := by simp [FieldSpec.off, hrep, hbase]
    exact h.rd (fireKeeps_die (by omega))
  simp only [State.sstBank, spare Reg.Die.SPARE_A_FOR rfl rfl, spare Reg.Die.SPARE_B_FOR rfl rfl]

theorem FireLeaves.phys (a : Nat) : t.phys a = s.phys a := by
  have bank (d b o : Nat) : t.sstBank d (bits o 12 12) b = s.sstBank d (bits o 12 12) b := h.sstBank d b (bits_lt _ _ _)
  simp only [State.phys, State.lpPage, h.rest.pmapEff, bank, h.coreArea, h.poolBank]

theorem FireLeaves.byteAt : t.byteAt = s.byteAt := by
  funext a
  simp only [State.byteAt, State.peek, h.phys, h.rest.mem]

theorem FireLeaves.valid (c' : Nat) {g : Nat} (hg : g < 2048) : t.valid c' g = s.valid c' g := by
  rw [State.valid, h.words _ _ (fireKeeps_core (by omega)), State.valid]

theorem FireLeaves.stream (c' n : Nat) : t.stream c' n = s.stream c' n := by
  rw [State.stream, h.rest.streams, State.stream]

theorem FireLeaves.voidAt (c' g : Nat) : t.voidAt c' g = s.voidAt c' g := by
  simp only [State.voidAt, h.stream]

theorem FireLeaves.inRing (c' g : Nat) : t.inRing c' g = s.inRing c' g := by
  simp only [State.inRing, h.stream]

theorem FireLeaves.inWindow (who a : Nat) (wr : Bool) : t.inWindow who a wr = s.inWindow who a wr := by
  rw [State.inWindow, h.rest.windows, State.inWindow]

theorem FireLeaves.tagWindow (a : Nat) : t.tagWindow a = s.tagWindow a := by
  have window {w : Nat} (hw : w < 32) (f : FieldSpec) (hrep : f.rep = [(0x10, 32)]) (hbase : f.base < 0x300) :
      t.rd Pg.landings f [w] = s.rd Pg.landings f [w] := by
    have off : f.off [w] = f.base + 0x10 * w := by simp [FieldSpec.off, hrep]
    exact h.rd (fireKeeps_hub (by decide) (by decide) (by omega))
  unfold State.tagWindow
  refine findSome?_eq_of_forall_mem fun w hw => ?_
  have hw := List.mem_range.mp hw
  simp only [window hw Reg.Landings.TW_BASE rfl (by decide), window hw Reg.Landings.TW_BASE_HI rfl (by decide),
    window hw Reg.Landings.LEN rfl (by decide), window hw Reg.Landings.EN rfl (by decide),
    window hw Reg.Landings.TW_LANDING rfl (by decide), window hw Reg.Landings.TOFF rfl (by decide)]

theorem FireLeaves.staleTag (a : Nat) : t.staleTag a = s.staleTag a := by
  rw [State.staleTag, h.tagWindow, State.staleTag]
  unfold State.landing
  rw [h.rest.landings, h.rest.tags]

/-- A read that goes ahead before the firing goes ahead after it, and a read that stops stops for the same reason. -/
theorem FireLeaves.readStop (who a : Nat) : t.readStop who a = s.readStop who a := by
  have granule : poolOff a / 4096 < 2048 := by unfold poolOff; omega
  simp only [State.readStop, h.inWindow, h.phys, h.valid (poolCore a) granule, h.voidAt, h.inRing, h.staleTag]

theorem FireLeaves.polderOfCore (c' : Nat) : t.polderOfCore c' = s.polderOfCore c' := by
  have pcfg : t.pcfg = s.pcfg := h.rd (fireKeeps_hub (by decide) (by decide) (by decide))
  rw [State.polderOfCore, State.polderOfDie, pcfg, State.polderOfCore, State.polderOfDie]

theorem FireLeaves.runKey {p : Nat} (hp : p < 4) : t.runKey p = s.runKey p := by
  have lo : Reg.Commit.RUN_KEY_LO.off [p] = 0x180 + 8 * p := by simp [FieldSpec.off, Reg.Commit.RUN_KEY_LO]
  have hi : Reg.Commit.RUN_KEY_HI.off [p] = 0x184 + 8 * p := by simp [FieldSpec.off, Reg.Commit.RUN_KEY_HI]
  rw [State.runKey, State.rd2, h.rd (fireKeeps_hub (by decide) (by decide) (by omega)),
    h.rd (fireKeeps_hub (by decide) (by decide) (by omega)), State.runKey, State.rd2]

theorem FireLeaves.stepNo {p : Nat} (hp : p < 4) : t.stepNo p = s.stepNo p := by
  have off : Reg.Commit.STEP.off [p] = 0x1A0 + 4 * p := by simp [FieldSpec.off, Reg.Commit.STEP]
  exact h.rd (fireKeeps_hub (by decide) (by decide) (by omega))

end

theorem polderOfCore_lt (s : State) (c : CoreId) : s.polderOfCore c < 4 := by
  have := c.isLt
  unfold State.polderOfCore State.polderOfDie
  split <;> omega

end Sys2Proof.Proofs
end

section
/-! SUPPORT. VE loads from the pool (R130): the words that one writes, and the statement about it. -/

namespace Sys2Proof.Proofs

open Sys2Proof.Machine Sys2Proof.Laws

/-! The tile that a load writes. -/

/-- The descriptor of a load or store instruction, as core `c` reads it. -/
def descOf (s : State) (c : Nat) (i : BitVec 256) : StoreDesc := storeDesc (s.bytesAt (poolAddr c (veDesc i)) 64)

/-- Element (m, n) of the tile after a load of the bytes `g`: decoded inside ROWS and COLS, cleared outside. -/
def ldCell (s : State) (c : Nat) (d : StoreDesc) (g : Nat → Byte) (m n : Nat) : Word :=
  if m ≤ d.rows ∧ n ≤ d.cols then (d.decode (s.runKey (s.polderOfCore c)) (s.stepNo (s.polderOfCore c)) g m n).1 else 0

/-- The elements outside ROWS and COLS with their cleared words. -/
def ldZeros (s : State) (c dst : Nat) (d : StoreDesc) : List (Nat × Word) :=
  ((List.range 64).flatMap fun m => (List.range 64).map fun n => (m, n)).filterMap fun e =>
    if e.1 ≤ d.rows ∧ e.2 ≤ d.cols then none else some (s.tileKey c dst e.1 e.2, (0 : Word))

/-- The writes of a load with every line moved: the decoded elements, then the cleared ones. -/
def ldWrites (s : State) (c dst : Nat) (d : StoreDesc) (g : Nat → Byte) : List (Nat × Word) :=
  (d.elems.map fun e => (s.tileKey c dst e.1 e.2,
    (d.decode (s.runKey (s.polderOfCore c)) (s.stepNo (s.polderOfCore c)) g e.1 e.2).1)) ++ ldZeros s c dst d

theorem mem_elems {d : StoreDesc} {e : Nat × Nat} : e ∈ d.elems ↔ e.1 ≤ d.rows ∧ e.2 ≤ d.cols := by
  simp only [StoreDesc.elems, List.mem_flatMap, List.mem_map, List.mem_range]
  constructor
  · rintro ⟨m, hm, n, hn, rfl⟩
    exact ⟨Nat.le_of_lt_succ hm, Nat.le_of_lt_succ hn⟩
  · rintro ⟨hm, hn⟩
    exact ⟨e.1, Nat.lt_succ_of_le hm, e.2, Nat.lt_succ_of_le hn, rfl⟩

theorem mem_ldZeros {s : State} {c dst : Nat} {d : StoreDesc} {u : Nat × Word} :
    u ∈ ldZeros s c dst d ↔ ∃ m < 64, ∃ n < 64, ¬ (m ≤ d.rows ∧ n ≤ d.cols) ∧ (s.tileKey c dst m n, 0) = u := by
  simp only [ldZeros, List.mem_filterMap, List.mem_flatMap, List.mem_map, List.mem_range, Option.ite_none_left_eq_some,
    Option.some.injEq]
  constructor
  · rintro ⟨e, ⟨m, hm, n, hn, rfl⟩, outside, rfl⟩
    exact ⟨m, hm, n, hn, outside, rfl⟩
  · rintro ⟨m, hm, n, hn, outside, rfl⟩
    exact ⟨(m, n), ⟨m, hm, n, hn, rfl⟩, outside, rfl⟩

/-- A load writes each element of its tile. -/
theorem mem_ldWrites {s : State} {c dst : Nat} {d : StoreDesc} {g : Nat → Byte} {u : Nat × Word} (hr : d.rows < 64)
    (hc : d.cols < 64) :
    u ∈ ldWrites s c dst d g ↔ ∃ m < 64, ∃ n < 64, (s.tileKey c dst m n, ldCell s c d g m n) = u := by
  rw [ldWrites, List.mem_append, List.mem_map, mem_ldZeros]
  constructor
  · rintro (⟨⟨m, n⟩, he, rfl⟩ | ⟨m, hm, n, hn, outside, rfl⟩)
    · have inside := mem_elems.mp he
      exact ⟨m, by omega, n, by omega, by rw [ldCell, if_pos inside]⟩
    · exact ⟨m, hm, n, hn, by rw [ldCell, if_neg outside]⟩
  · rintro ⟨m, hm, n, hn, rfl⟩
    by_cases inside : m ≤ d.rows ∧ n ≤ d.cols
    · exact Or.inl ⟨(m, n), mem_elems.mpr inside, by rw [ldCell, if_pos inside]⟩
    · exact Or.inr ⟨m, hm, n, hn, inside, by rw [ldCell, if_neg inside]⟩

theorem descOf_rows_lt (s : State) (c : Nat) (i : BitVec 256) : (descOf s c i).rows < 64 := bits_lt _ _ _
theorem descOf_cols_lt (s : State) (c : Nat) (i : BitVec 256) : (descOf s c i).cols < 64 := bits_lt _ _ _

/-- With every line moved a load is its writes and the counts of its events. -/
theorem ldTile_eq (s : State) (c dst : Nat) (d : StoreDesc) (g : Nat → Byte) :
    ∃ invalid overflow lost, s.ldTile c dst d g none =
      (((s.setWords32 (ldWrites s c dst d g)).event (Pg.core c) 0x0A8 invalid).event (Pg.core c) 0x0A9 overflow).event
        (Pg.core c) 0x0AA lost := by
  have all : d.elems.filter (fun _ => true) = d.elems := List.filter_eq_self.mpr fun _ _ => rfl
  unfold State.ldTile
  simp only [all, List.map_map]
  exact ⟨_, _, _, rfl⟩

/-- A firing leaves what a load writes. -/
theorem FireLeaves.ldWrites {s t : State} {c : CoreId} (h : FireLeaves s t c) (dst : Nat) (d : StoreDesc) (g : Nat → Byte) :
    ldWrites t c dst d g = ldWrites s c dst d g := by
  have polder := polderOfCore_lt s c
  simp only [Proofs.ldWrites, ldZeros, h.tileKey, h.polderOfCore, h.runKey polder, h.stepNo polder]

/-! The load's end. -/

theorem groupLeaves_wr_core (s : State) (c : Nat) {f : FieldSpec} {ix : List Nat} (v : Nat) (hf : f.off ix < 4096) :
    GroupLeaves s (s.wr (Pg.core c) f ix v) c :=
  ⟨rfl, rfl, rfl, fun _ _ hn _ ho => word_wr_of_ne s f ix v rfl hf ho fun e => hn e.1⟩

/-- With its job the VE's issue stage is emptied (R139). -/
theorem dropJob_veKey (s : State) (c : CoreId) :
    s.dropJob (veKey c) = (({ s with jobs := s.jobs.filter fun e => e.1 != veKey c } : State).wr
      (Pg.core c) Reg.Core.PEND [] 0).wr (Pg.core c) Reg.Core.ISSUING [] 0 := by
  have engine : veKey c < 1024 ∧ veKey c % 4 = 2 := ⟨veKey_lt c, by unfold veKey; omega⟩
  rw [State.dropJob, if_pos engine, engPage_core (veKey_lt c), veKey_core]

theorem groupLeaves_jobs (s : State) (js : List (Nat × Job)) (c : Nat) : GroupLeaves s { s with jobs := js } c :=
  ⟨rfl, rfl, rfl, fun _ _ _ _ _ => rfl⟩

theorem groupLeaves_finish (s : State) (id c : Nat) : GroupLeaves s (s.finish id) c := ⟨rfl, rfl, rfl, fun _ _ _ _ _ => rfl⟩

theorem groupLeaves_dropJob (s : State) (c : CoreId) : GroupLeaves s (s.dropJob (veKey c)) c := by
  rw [dropJob_veKey]
  exact ((groupLeaves_jobs s _ c).trans (groupLeaves_wr_core _ c 0 (by decide))).trans (groupLeaves_wr_core _ c 0 (by decide))

theorem engines_dropJob (s : State) (c : CoreId) : (s.dropJob (veKey c)).engines = s.engines := by
  rw [dropJob_veKey, State.wr, setWord_engines, State.wr, setWord_engines]

/-- The end of its job changes no result of a load. -/
theorem VeWrote.ended {s t : State} {c : CoreId} {r : List (BitVec 256)} {us : List (Nat × Word)} (h : VeWrote s t c r us)
    (id : Nat) : VeWrote s ((t.dropJob (veKey c)).finish id) c r us :=
  ⟨leftQueue_of_engines h.queue (engines_dropJob t c),
    (h.leaves.trans (groupLeaves_dropJob t c)).trans (groupLeaves_finish _ id c)⟩

/-- A load whose lines can all be read moves them in one command. -/
theorem veLdPool_readable {s : State} {c : Nat} {j : Job}
    (h : ∀ a ∈ (storeDesc j.desc).touched.lines.map (·.1), s.readStop c a = none) :
    s.veLdPool c j = ((s.ldTile c (veDst j.instr) (storeDesc j.desc) s.byteAt none).dropJob (veKey c)).finish j.id := by
  have all : ((storeDesc j.desc).touched.lines.map (·.1)).takeWhile (fun a => (s.readStop c a).isNone)
      = (storeDesc j.desc).touched.lines.map (·.1) := by
    have whole := List.takeWhile_append_of_pos (p := fun a => (s.readStop c a).isNone) (l₂ := []) fun a ha => by rw [h a ha]; rfl
    rwa [List.append_nil, List.takeWhile_nil, List.append_nil] at whole
  unfold State.veLdPool
  dsimp only
  rw [all, List.drop_length]
  rfl

/-- A load from the pool fires without a claim and reads at once. -/
theorem veLdGo_pool {s : State} {c : Nat} {hw : HwErr} {i : BitVec 256} (pc : Nat) (hhw : veStruck hw true = false)
    (hdstk : (descOf s c i).dstk = false) :
    s.veLdGo c hw i pc = (s.fire (veKey c) i [] true).1.veLdPool c
      ⟨i, pc, (s.fire (veKey c) i [] true).2, 0, 0, 0, s.bytesAt (poolAddr c (veDesc i)) 64, true⟩ := by
  unfold descOf at hdstk
  simp only [State.veLdGo, State.veLdRun, hhw, hdstk, Bool.false_eq_true, if_false, Bool.not_false, if_true]

/-- A readable load from the pool has written its tile. -/
theorem veWrote_veLdGo {s : State} {c : CoreId} {hw : HwErr} {i : BitVec 256} {r : List (BitVec 256)} (pc : Nat)
    (h : (s.engine (veKey c)).queue = i :: r) (hhw : veStruck hw true = false)
    (hdstk : (descOf s c i).dstk = false) (hread : ∀ a ∈ (descOf s c i).touched.lines.map (·.1), s.readStop c a = none) :
    VeWrote s (s.veLdGo c hw i pc) c r (ldWrites s c (veDst i) (descOf s c i) s.byteAt) := by
  have fired := fireLeaves_ve s c i true
  rw [veLdGo_pool pc hhw hdstk, veLdPool_readable, fired.byteAt]
  · obtain ⟨invalid, overflow, lost, tile⟩ := ldTile_eq (s.fire (veKey c) i [] true).1 c (veDst i) (descOf s c i) s.byteAt
    rw [descOf] at tile
    rw [tile, fired.ldWrites]
    exact ((((veWrote_fire h true _).event 0x0A8 invalid).event 0x0A9 overflow).event 0x0AA lost).ended _
  · exact fun a ha => (fired.readStop c a).trans (hread a ha)

/-- With no load in progress VE_LD takes the head of the queue. -/
theorem exec_veLd_idle {s : State} {c : CoreId} (hw : HwErr) (h : s.job (veKey c) = none) :
    exec (.veLd c hw) s = .next (s.veFire c (fun i => veOpc i == 1 || (veUses (veOpc i) (veFunc i)).isNone)
      fun s i pc => s.veLdGo c hw i pc) := by
  change execVeLd c hw s = _
  simp only [execVeLd, h]

/-- Settles O5: the load's list of writes names each element of the tile once. -/
theorem veLoadFromPool : Obligations.VeLoadFromPool := by
  unfold Obligations.VeLoadFromPool
  intro s c hw i r fires hfields hopc hhw hcheck d hdstk hread
  have wanted : (veOpc i == 1 || (veUses (veOpc i) (veFunc i)).isNone) = true := by simp [hopc]
  have legal : veOpc i = 1 ∨ veOpc i = 2 → s.checkDesc c (veDesc i) (veOpc i == 1) = none := fun _ => by
    rw [hopc]
    exact hcheck
  have wrote := veWrote_veLdGo (s.engine (veKey c)).head fires.queue hhw hdstk hread
  have named {u : Nat × Word} := mem_ldWrites (s := s) (c := c) (dst := veDst i) (g := s.byteAt) (u := u)
    (descOf_rows_lt s c i) (descOf_cols_lt s c i)
  refine ⟨_, ?_, wrote.queue, fun m n hm hn => ?_, fun k hk => ?_, wrote.mem, wrote.pages⟩
  · rw [exec_veLd_idle hw fires.alone, veFire_of_fires fires hfields legal wanted]
  · exact wrote.tile_cell named hm hn
  · exact wrote.tile_frame named hk

end Sys2Proof.Proofs
end

section
/-! SUPPORT. A stream's own words and its requests (R67, R77, R191, R194, R201): what their record changes, and the statement
about PREFETCH_REQUEST. -/

namespace Sys2Proof.Proofs

open Sys2Proof.Machine Sys2Proof.Laws

/-! Streams. -/

@[simp] theorem stream_setStream_self (s : State) (c n : Nat) (x : Stream) : (s.setStream c n x).stream c n = x :=
  sget_sset_self _ _ _ _

/-- Streams 0 to 7 of a core have their own entries. -/
theorem stream_setStream_ne (s : State) {c n c' n' : Nat} (x : Stream) (hn : n < 8) (hn' : n' < 8) (h : (c', n') ≠ (c, n)) :
    (s.setStream c n x).stream c' n' = s.stream c' n' := by
  refine sget_sset_ne _ _ _ _ _ fun same => h ?_
  rw [Prod.mk.injEq]
  omega

theorem stream_of_streams {s t : State} (h : t.streams = s.streams) (c n : Nat) : t.stream c n = s.stream c n := by
  rw [State.stream, h, State.stream]

/-! Requests. -/

theorem onlyRegs_acctMem (s : State) (p a n : Nat) (write : Bool) : OnlyRegs s (s.acctMem p a n write) := by
  unfold State.acctMem
  split
  · exact (onlyRegs_wr s _ _ _ _).trans (onlyRegs_wr _ _ _ _ _)
  · exact (onlyRegs_wr s _ _ _ _).trans (onlyRegs_wr _ _ _ _ _)
  · exact .refl s

theorem onlyRegs_showClass (s : State) (c cls : Nat) : OnlyRegs s (s.showClass c cls) :=
  (onlyRegs_wr s _ _ _ _).trans (onlyRegs_wr _ _ _ _ _)

/-- Requests that are added stand behind those that are there; besides them only registers and the next identifier change. -/
theorem onlyRegs_addReqs (s : State) (c cls : Nat) (rs : List Req) :
    OnlyRegs { s with reqs := s.reqs ++ rs, ids := s.ids + rs.length } (s.addReqs c cls rs) := by
  refine (onlyRegs_foldl _ (fun t r => ?_) rs _).trans (onlyRegs_showClass _ c cls)
  split
  · exact .refl t
  · exact onlyRegs_acctMem t _ _ _ _

section

variable (s : State) (c cls : Nat) (rs : List Req)

theorem reqs_addReqs : (s.addReqs c cls rs).reqs = s.reqs ++ rs := (congrArg State.reqs (onlyRegs_addReqs s c cls rs) :)
theorem streams_addReqs : (s.addReqs c cls rs).streams = s.streams := (congrArg State.streams (onlyRegs_addReqs s c cls rs) :)
theorem mem_addReqs : (s.addReqs c cls rs).mem = s.mem := (congrArg State.mem (onlyRegs_addReqs s c cls rs) :)
theorem words32_addReqs : (s.addReqs c cls rs).words32 = s.words32 := (congrArg State.words32 (onlyRegs_addReqs s c cls rs) :)

end

/-! The request of a stream. -/

/-- The first index of a range at which a search answers. -/
theorem findSome?_range_some {β : Type} {g : Nat → Option β} {k : Nat} {b : β} (h : (List.range k).findSome? g = some b) :
    ∃ n < k, g n = some b ∧ ∀ m < n, g m = none := by
  induction k with
  | zero => simp at h
  | succ k ih =>
    rw [List.range_succ, List.findSome?_append, Option.or_eq_some_iff] at h
    rcases h with before | ⟨none_before, last⟩
    · obtain ⟨n, hn, found, first⟩ := ih before
      exact ⟨n, Nat.lt_succ_of_lt hn, found, first⟩
    · refine ⟨k, Nat.lt_succ_self k, ?_, fun m hm => List.findSome?_eq_none_iff.mp none_before m (List.mem_range.mpr hm)⟩
      simpa using last

/-- The stream that issues is the lowest-numbered one with a request ready. -/
theorem firstFetch_some {s : State} {c n : Nat} {f : Fetch} (h : s.firstFetch c = some (n, f)) :
    n < 8 ∧ s.nextFetch c n = some f ∧ ∀ m < n, s.nextFetch c m = none := by
  obtain ⟨k, hk, found, first⟩ := findSome?_range_some h
  obtain ⟨f', ready, same⟩ := Option.map_eq_some_iff.mp found
  obtain ⟨rfl, rfl⟩ := Prod.mk.inj same
  exact ⟨hk, ready, fun m hm => Option.map_eq_none_iff.mp (first m hm)⟩

/-- Issuing a request moves a stream on and leaves its descriptor. -/
theorem desc_advance (x : Stream) (f : Fetch) : (x.advance f).desc = x.desc := by
  unfold Stream.advance
  split <;> rfl

/-- A request is issued by the record of its stream and one new request. -/
theorem issueFetch_eq (s : State) (c n : Nat) (f : Fetch) : ∃ (q : Req) (st : Nat),
    s.issueFetch c n f = ((s.setStream c n ((s.stream c n).advance f)).showStream c n st).addReqs c 0 [q] ∧
      q.core = c ∧ q.cls = 0 ∧ q.write = false ∧ q.addr = f.1 ∧ q.len = f.2.1 ∧ q.dest = f.2.2 ∧
      q.cvm = (s.stream c n).desc.cvm ∧ q.void = s.suppressed c f.1 := by
  refine ⟨_, _, rfl, rfl, rfl, rfl, rfl, rfl, rfl, ?_, rfl⟩
  exact congrArg StreamDesc.cvm (desc_advance (s.stream c n) f)

/-- Settles O12: the search finds the lowest-numbered stream, and its request is the only one added. -/
theorem prefetchIssuesRequest : Obligations.PrefetchIssuesRequest := by
  unfold Obligations.PrefetchIssuesRequest
  intro s c n f hrun hfirst hroom
  obtain ⟨hn, -, lowest⟩ := firstFetch_some hfirst
  obtain ⟨q, st, issued, request⟩ := issueFetch_eq s c n f
  obtain ⟨core, cls, write, addr, len, dest, cvm, void⟩ := request
  have streams : (s.issueFetch c n f).streams = (s.setStream c n ((s.stream c n).advance f)).streams := by
    rw [issued, streams_addReqs]
    rfl
  refine ⟨s.issueFetch c n f, q, ?_, ?_, core, cls, write, addr, len, dest, cvm, void, ?_, fun m hm hne => ?_, lowest, ?_, ?_⟩
  · change execPrefetchRequest c s = _
    simp only [execPrefetchRequest, hrun, hfirst, Nat.not_le.mpr hroom, Bool.not_true, Bool.false_eq_true, if_false]
  · rw [issued, reqs_addReqs]
    rfl
  · rw [stream_of_streams streams, stream_setStream_self]
  · rw [stream_of_streams streams, stream_setStream_ne s _ hn hm fun e => hne (Prod.mk.inj e).2]
  · rw [issued, mem_addReqs]
    rfl
  · rw [issued, words32_addReqs]
    rfl

end Sys2Proof.Proofs
end

section
/-! SUPPORT. The stream unit's ARM and DISARM (R187, R193, R195, R201): the words of a core's page that each part of them
writes, and the statement about them. -/

namespace Sys2Proof.Proofs

open Sys2Proof.Machine Sys2Proof.Laws

/-! Words of one stretch of a core's page. -/

/-- A state that differs from another at most in the words [lo, hi) of the page of core `c`. -/
structure OnlyCoreWords (s t : State) (c lo hi : Nat) : Prop where
  rest  : OnlyRegs s t
  words : ∀ n o, o < 4096 → ¬ (n = Pg.core c ∧ lo ≤ o ∧ o < hi) → t.word n o = s.word n o

section

variable {s t u : State} {c lo hi : Nat}

theorem OnlyCoreWords.refl : OnlyCoreWords s s c lo hi := ⟨.refl s, fun _ _ _ _ => rfl⟩

theorem OnlyCoreWords.trans (h : OnlyCoreWords s t c lo hi) (h' : OnlyCoreWords t u c lo hi) : OnlyCoreWords s u c lo hi :=
  ⟨h.rest.trans h'.rest, fun n o ho hout => (h'.words n o ho hout).trans (h.words n o ho hout)⟩

theorem OnlyCoreWords.foldl {α : Type} {f : State → α → State} {l : List α}
    (hf : ∀ t, ∀ x ∈ l, OnlyCoreWords t (f t x) c lo hi) (s : State) : OnlyCoreWords s (l.foldl f s) c lo hi := by
  induction l generalizing s with
  | nil => exact .refl
  | cons x r ih => exact (hf s x List.mem_cons_self).trans (ih (fun t y hy => hf t y (List.mem_cons_of_mem x hy)) _)

theorem onlyCoreWords_wr (s : State) {f : FieldSpec} {ix : List Nat} (v : Nat) {b : Nat} (hf : f.off ix = b) (hlo : lo ≤ b)
    (hhi : b < hi) (hbound : hi ≤ 4096 ∧ lo % 4 = 0 ∧ hi % 4 = 0) : OnlyCoreWords s (s.wr (Pg.core c) f ix v) c lo hi :=
  ⟨onlyRegs_wr s _ f ix v, fun _ _ ho hout => word_wr_of_ne s f ix v hf (by omega) ho (by omega)⟩

theorem OnlyCoreWords.rd (h : OnlyCoreWords s t c lo hi) {f : FieldSpec} {ix : List Nat} {b : Nat} (hf : f.off ix = b)
    (hout : b < 4096 ∧ (b < lo ∨ hi ≤ b)) : t.rd (Pg.core c) f ix = s.rd (Pg.core c) f ix := by
  subst hf
  rw [State.rd, h.words _ _ hout.1 (by omega), State.rd]

end

/-- A fold of which one step gives `g` a value that no step takes from it. -/
theorem foldl_sets {α β γ : Type} (g : β → γ) (f : β → α → β) {v : γ} {a : α} {l : List α} (ha : a ∈ l)
    (sets : ∀ t, g (f t a) = v) (keeps : ∀ t, ∀ x ∈ l, g t = v → g (f t x) = v) (s : β) : g (l.foldl f s) = v := by
  have kept (r : List α) (hr : ∀ x ∈ r, x ∈ l) (t : β) (ht : g t = v) : g (r.foldl f t) = v := by
    induction r generalizing t with
    | nil => exact ht
    | cons x r ih =>
      exact ih (fun y hy => hr y (List.mem_cons_of_mem x hy)) _ (keeps t x (hr x List.mem_cons_self) ht)
  obtain ⟨before, after, rfl⟩ := List.append_of_mem ha
  rw [List.foldl_append, List.foldl_cons]
  exact kept after (fun x hx => by simp [hx]) _ (sets _)

/-! A stream's state and deliveries. -/

theorem onlyCoreWords_showStream (s : State) (c st : Nat) {n : Nat} (hn : n < 8) :
    OnlyCoreWords s (s.showStream c n st) c 0x400 0x440 :=
  (onlyCoreWords_wr s _ (b := 0x400 + 8 * n) rfl (by omega) (by omega) (by decide)).trans
    (onlyCoreWords_wr _ _ (b := 0x400 + 8 * n) rfl (by omega) (by omega) (by decide))

theorem onlyCoreWords_delivered (s : State) (c v : Nat) {n : Nat} (hn : n < 8) :
    OnlyCoreWords s (s.wr (Pg.core c) Reg.Core.DELIVERED [n] v) c 0x400 0x440 :=
  onlyCoreWords_wr s v (b := 0x404 + 8 * n) rfl (by omega) (by omega) (by decide)

theorem rd_state_showStream (s : State) (c n st : Nat) :
    (s.showStream c n st).rd (Pg.core c) Reg.Core.STATE [n] = st % 4 :=
  (rd_wr_field_ne _ _ Reg.Core.VOID Reg.Core.STATE [n] [n] _ (by decide) (by decide) (by decide) (by decide)).trans
    (rd_wr_self s _ Reg.Core.STATE [n] st (by decide) (by decide))

theorem rd_delivered_showStream (s : State) (c n st v : Nat) :
    ((s.wr (Pg.core c) Reg.Core.DELIVERED [n] v).showStream c n st).rd (Pg.core c) Reg.Core.DELIVERED [n] = v % 2 ^ 32 := by
  have apart : regKey (Pg.core c) (0x404 + 8 * n) ≠ regKey (Pg.core c) (0x400 + 8 * n) := by
    unfold regKey
    omega
  rw [State.showStream, rd_wr_word_ne _ _ _ _ _ _ _ _ apart, rd_wr_word_ne _ _ _ _ _ _ _ _ apart]
  exact rd_wr_self s _ Reg.Core.DELIVERED [n] v (by decide) (by decide)

/-! Valid bits. -/

/-- A valid bit reads back as written, and the others of its core stand. -/
theorem valid_setValid (s : State) (c g g' : Nat) (b : Bool) :
    (s.setValid c g b).valid c g' = if g' = g then b else s.valid c g' := by
  have put (w : Word) : (putField w ⟨0x200, [(4, 48)], g % 32, g % 32, .ro, 0⟩ (bit b)).getLsbD (g' % 32)
      = if g' % 32 = g % 32 then b else w.getLsbD (g' % 32) := by
    rw [getLsbD_putField _ _ _ _ (Nat.le_refl _) (by omega)]
    by_cases same : g' % 32 = g % 32
    · cases b <;> simp [same, bit]
    · rw [if_neg same, if_neg (by dsimp only; omega)]
  have key : regKey (Pg.core c) (0x200 + 4 * (g' / 32)) = regKey (Pg.core c) (0x200 + 4 * (g / 32)) ↔ g' / 32 = g / 32 := by
    unfold regKey
    omega
  change (State.word (s.setWord _ (0x200 + 4 * (g / 32)) _) _ _).getLsbD _ = _
  rw [word_setWord]
  by_cases line : g' / 32 = g / 32
  · rw [if_pos (key.mpr line)]
    refine (put _).trans (ite_congr (propext (by omega)) (fun _ => rfl) fun _ => ?_)
    rw [State.valid, line]
    rfl
  · rw [if_neg (mt key.mp line), if_neg (by omega), State.valid]

theorem onlyCoreWords_setValid (s : State) (c : Nat) (b : Bool) {g : Nat} (hg : g < 4096) :
    OnlyCoreWords s (s.setValid c g b) c 0x200 0x400 :=
  onlyCoreWords_wr s _ (b := 0x200 + 4 * (g / 32)) rfl (by omega) (by omega) (by decide)

/-- The granules of a ring. -/
def ringGranules (c : Nat) (d : StreamDesc) : List (Nat × Nat) := (List.range d.rgn).map fun g => (c, d.rbase + g)

theorem mem_ringGranules {c : Nat} {d : StreamDesc} {x : Nat × Nat} :
    x ∈ ringGranules c d ↔ ∃ g < d.rgn, (c, d.rbase + g) = x := by
  simp only [ringGranules, List.mem_map, List.mem_range]

theorem onlyCoreWords_clearRing (s : State) (c : Nat) {d : StreamDesc} (hd : d.rbase + d.rgn ≤ 4096) :
    OnlyCoreWords s (s.setValids (ringGranules c d) false) c 0x200 0x400 := by
  refine OnlyCoreWords.foldl (fun t x hx => ?_) s
  obtain ⟨g, hg, rfl⟩ := mem_ringGranules.mp hx
  exact onlyCoreWords_setValid t c false (by omega)

theorem valid_clearRing (s : State) (c : Nat) {d : StreamDesc} {g : Nat} (hg : g < d.rgn) :
    (s.setValids (ringGranules c d) false).valid c (d.rbase + g) = false := by
  refine foldl_sets (fun t : State => t.valid c (d.rbase + g)) _ (mem_ringGranules.mpr ⟨g, hg, rfl⟩) (fun t => ?_)
    (fun t x hx ht => ?_) s
  · exact (valid_setValid t c _ _ false).trans (if_pos rfl)
  · obtain ⟨g', -, rfl⟩ := mem_ringGranules.mp hx
    exact (valid_setValid t c _ _ false).trans (by rw [ht, ite_self])

theorem OnlyCoreWords.valid {s t : State} {c lo hi g : Nat} (h : OnlyCoreWords s t c lo hi) (hlo : 0x400 ≤ lo) (hg : g < 4096) :
    t.valid c g = s.valid c g := by
  rw [State.valid, h.words _ _ (by omega) (by omega), State.valid]

/-! Comparators. -/

/-- ARMED of comparator `w`. -/
def armedBit (c w : Nat) (s : State) : Nat := s.rd (Pg.core c) Reg.Core.ARMED [w]

/-- A field of another comparator leaves it. -/
theorem armedBit_wr_ne (s : State) {c w w' : Nat} {f : FieldSpec} (v : Nat) (h : w' ≠ w) {b : Nat}
    (hf : f.off [w'] = b + 16 * w') (hb : 0x700 ≤ b ∧ b < 0x710) :
    armedBit c w (s.wr (Pg.core c) f [w'] v) = armedBit c w s := by
  refine rd_wr_word_ne s _ _ _ _ _ _ _ ?_
  rw [hf]
  change regKey _ (0x704 + 16 * w) ≠ _
  unfold regKey
  omega

theorem armedBit_wr_self (s : State) (c w : Nat) (v : Nat) (hv : v < 2) :
    armedBit c w (s.wr (Pg.core c) Reg.Core.ARMED [w] v) = v :=
  (rd_wr_self s _ Reg.Core.ARMED [w] v (by decide) (by decide)).trans (Nat.mod_eq_of_lt hv)

theorem onlyCoreWords_showComp (s : State) (c : Nat) {e : Nat × Nat × Nat} (he : e.1 < 16) :
    OnlyCoreWords s (s.showComp c e) c 0x700 0x800 := by
  have field (t : State) (f : FieldSpec) (v b : Nat) (hf : f.off [e.1] = b + 16 * e.1) (hb : 0x700 ≤ b ∧ b < 0x710) :
      OnlyCoreWords t (t.wr (Pg.core c) f [e.1] v) c 0x700 0x800 :=
    onlyCoreWords_wr t v hf (by omega) (by omega) (by decide)
  exact ((((field s _ _ 0x700 rfl (by decide)).trans (field _ _ _ 0x704 rfl (by decide))).trans
    (field _ _ _ 0x708 rfl (by decide))).trans (field _ _ _ 0x70C rfl (by decide))).trans (field _ _ _ 0x704 rfl (by decide))

theorem armedBit_showComp_ne (s : State) {c w : Nat} {e : Nat × Nat × Nat} (h : e.1 ≠ w) :
    armedBit c w (s.showComp c e) = armedBit c w s := by
  rw [State.showComp, armedBit_wr_ne _ _ h (b := 0x704) rfl (by decide), armedBit_wr_ne _ _ h (b := 0x70C) rfl (by decide),
    armedBit_wr_ne _ _ h (b := 0x708) rfl (by decide), armedBit_wr_ne _ _ h (b := 0x704) rfl (by decide),
    armedBit_wr_ne _ _ h (b := 0x700) rfl (by decide)]

/-- A list of comparators that are all armed, or all freed, is. -/
theorem armedBit_foldl {c v : Nat} {f : State → Nat × Nat × Nat → State} (same : ∀ t e, armedBit c e.1 (f t e) = v)
    (other : ∀ t e w, e.1 ≠ w → armedBit c w (f t e) = armedBit c w t) {l : List (Nat × Nat × Nat)} {e : Nat × Nat × Nat}
    (he : e ∈ l) (s : State) : armedBit c e.1 (l.foldl f s) = v := by
  refine foldl_sets (armedBit c e.1) f he (fun t => same t e) (fun t x _ ht => ?_) s
  by_cases h : x.1 = e.1
  · exact h ▸ same t x
  · exact (other t x e.1 h).trans ht

theorem onlyCoreWords_freeComps (s : State) (c : Nat) {x : Stream} (hx : ∀ e ∈ x.comps, e.1 < 16) :
    OnlyCoreWords s (s.freeComps c x) c 0x700 0x800 :=
  OnlyCoreWords.foldl (fun t e he => by
    have := hx e he
    exact onlyCoreWords_wr t 0 (b := 0x704 + 16 * e.1) rfl (by omega) (by omega) (by decide)) s

theorem armedBit_freeComps (s : State) (c : Nat) {x : Stream} {e : Nat × Nat × Nat} (he : e ∈ x.comps) :
    armedBit c e.1 (s.freeComps c x) = 0 :=
  armedBit_foldl (fun t e => armedBit_wr_self t c e.1 0 (by decide))
    (fun t _ _ h => armedBit_wr_ne t 0 h (b := 0x704) rfl (by decide)) he s

/-! What the stream unit leaves. -/

/-- What is done with stream `n` of core `c`: no queue, memory, tile or other stream changes, and no page of another core. -/
structure StreamLeaves (s t : State) (c n : Nat) : Prop where
  engines : t.engines = s.engines
  others  : ∀ c' n', n' < 8 → (c', n') ≠ (c, n) → t.stream c' n' = s.stream c' n'
  mem     : t.mem = s.mem
  words32 : t.words32 = s.words32
  pages   : OtherPagesKept s t c

theorem StreamLeaves.trans {s t u : State} {c n : Nat} (h : StreamLeaves s t c n) (h' : StreamLeaves t u c n) :
    StreamLeaves s u c n :=
  ⟨h'.engines.trans h.engines, fun c' n' hn hne => (h'.others c' n' hn hne).trans (h.others c' n' hn hne),
    h'.mem.trans h.mem, h'.words32.trans h.words32, otherPagesKept_trans h.pages h'.pages⟩

theorem OnlyCoreWords.streams {s t : State} {c lo hi : Nat} (h : OnlyCoreWords s t c lo hi) : t.streams = s.streams :=
  (congrArg State.streams h.rest :)

theorem OnlyCoreWords.streamLeaves {s t : State} {c lo hi : Nat} (h : OnlyCoreWords s t c lo hi) (n : Nat) :
    StreamLeaves s t c n :=
  ⟨(congrArg State.engines h.rest :), fun c' n' _ _ => stream_of_streams h.streams c' n', (congrArg State.mem h.rest :),
    (congrArg State.words32 h.rest :), fun n o hn _ ho => h.words n o ho fun e => hn e.1⟩

theorem streamLeaves_setStream (s : State) (c : Nat) {n : Nat} (hn : n < 8) (x : Stream) :
    StreamLeaves s (s.setStream c n x) c n :=
  ⟨rfl, fun _ _ hn' hne => stream_setStream_ne s x hn hn' hne, rfl, rfl, fun _ _ _ _ _ => rfl⟩

/-- An instruction of the stream unit about stream `n` has left the queue, and the rest is as before. -/
structure StreamActed (s t : State) (c n : Nat) (r : List (BitVec 256)) : Prop where
  queue   : LeftQueue s t (suKey c) r
  others  : ∀ c' n', n' < 8 → (c', n') ≠ (c, n) → t.stream c' n' = s.stream c' n'
  mem     : t.mem = s.mem
  words32 : t.words32 = s.words32
  pages   : OtherPagesKept s t c

/-! Firing. -/

theorem suKey_lt (c : CoreId) : suKey c < 1024 := by
  have := c.isLt
  unfold suKey
  omega

theorem suKey_core (c : Nat) : suKey c / 4 = c := by
  unfold suKey
  omega

theorem suKey_engine (c : Nat) : suKey c % 4 = 3 := by
  unfold suKey
  omega

/-- Before a core's stream unit, every engine of its cluster fires (R187). -/
theorem firedBefore_suKey (s : State) (c : CoreId) : s.firedBefore (suKey c) = s.cluFires (c / 8) := by
  have cluster : suKey c / 32 = c / 8 := by unfold suKey; omega
  simp only [State.firedBefore, suKey_lt c, if_true, suKey_engine, cluster]

theorem streamActed_of_fire {s t : State} {c : CoreId} {i : BitVec 256} {r : List (BitVec 256)}
    (h : (s.engine (suKey c)).queue = i :: r) (busy : Bool) {n : Nat}
    (ht : StreamLeaves (s.fire (suKey c) i [] busy).1 t c n) : StreamActed s t c n r := by
  have leaves := fireLeaves_fire s (suKey_lt c) i busy
  rw [suKey_core] at leaves
  obtain ⟨words32, mem, streams, pages⟩ := leaves.groupLeaves
  exact ⟨leftQueue_of_engines (leftQueue_fire h [] busy) ht.engines,
    fun c' n' hn hne => (ht.others c' n' hn hne).trans (stream_of_streams streams c' n'), ht.mem.trans mem,
    ht.words32.trans words32, otherPagesKept_trans pages ht.pages⟩

theorem onlyCoreWords_takeTokens (s : State) (c : Nat) (i : BitVec 256) :
    OnlyCoreWords s (s.takeTokens (coreWaits c i)) c 0x140 0x180 := by
  refine OnlyCoreWords.foldl (fun t w hw => ?_) s
  obtain ⟨core, counter⟩ := mem_coreWaits hw
  rw [core]
  exact onlyCoreWords_wr t _ (b := 0x140 + 4 * (w.2 / 4)) rfl (by omega) (by omega) (by decide)

/-- The stream unit's queue has no word in the core's page, so that its firing leaves the comparators. -/
theorem armedBit_fire (s : State) (c : CoreId) (i : BitVec 256) (busy : Bool) {w : Nat} (hw : w < 16) :
    armedBit c w (s.fire (suKey c) i [] busy).1 = armedBit c w s := by
  have waits : waitsOf (suKey c) i = coreWaits c i := by rw [waitsOf, if_pos (suKey_lt c), suKey_core]
  have shown : (popped s (suKey c)).occupancy (suKey c) = popped s (suKey c) := by
    simp only [State.occupancy, suKey_lt c, if_true, suKey_engine]
  have counted (t : State) (code : Nat) : armedBit c w (t.event (Pg.core c) code 1) = armedBit c w t := by
    have kept : EventLeaves (Pg.core c) (Pg.core c) (Reg.Core.ARMED.off [w]) := by
      change EventLeaves _ _ (0x704 + 16 * w)
      exact ⟨by omega, by omega, fun e => core_ne_cxl c e.1⟩
    rw [armedBit, State.rd, word_event t code 1 kept, armedBit, State.rd]
  change armedBit c w (fireRegs (popped s (suKey c)) (suKey c) i []) = _
  rw [fireRegs, if_pos (suKey_lt c), engPage_core (suKey_lt c), suKey_core, counted, shown, waits]
  exact (onlyCoreWords_takeTokens _ c i).rd (b := 0x704 + 16 * w) rfl (by omega)

theorem freeCompNums_fire (s : State) (c : CoreId) (i : BitVec 256) (busy : Bool) :
    (s.fire (suKey c) i [] busy).1.freeCompNums c = s.freeCompNums c := by
  refine List.filter_congr fun w hw => ?_
  have kept := armedBit_fire s c i busy (List.mem_range.mp hw)
  unfold armedBit at kept
  rw [kept]

/-! A stream's ring and comparators. -/

/-- The ring of a stream, where it has one, holds no valid granule (R193, R195). -/
def emptyRing (s : State) (c : Nat) (x : Stream) : State :=
  if x.desc.kind = 0 then s.setValids (ringGranules c x.desc) false else s

/-- The comparators of a stream are armed (R195). -/
def showComps (s : State) (c : Nat) (x : Stream) : State := x.comps.foldl (fun t e => t.showComp c e) s

theorem onlyCoreWords_emptyRing (s : State) (c : Nat) {x : Stream} (hx : x.desc.rbase + x.desc.rgn ≤ 4096) :
    OnlyCoreWords s (emptyRing s c x) c 0x200 0x400 := by
  unfold emptyRing
  split
  · exact onlyCoreWords_clearRing s c hx
  · exact .refl

theorem valid_emptyRing (s : State) (c : Nat) {x : Stream} (hkind : x.desc.kind = 0) {g : Nat} (hg : g < x.desc.rgn) :
    (emptyRing s c x).valid c (x.desc.rbase + g) = false := by
  rw [emptyRing, if_pos hkind]
  exact valid_clearRing s c hg

theorem onlyCoreWords_showComps (s : State) (c : Nat) {x : Stream} (hx : ∀ e ∈ x.comps, e.1 < 16) :
    OnlyCoreWords s (showComps s c x) c 0x700 0x800 :=
  OnlyCoreWords.foldl (fun t e he => onlyCoreWords_showComp t c (hx e he)) s

theorem armedBit_showComps (s : State) (c : Nat) {x : Stream} {e : Nat × Nat × Nat} (he : e ∈ x.comps) :
    armedBit c e.1 (showComps s c x) = 1 :=
  armedBit_foldl (fun _ e => armedBit_wr_self _ c e.1 1 (by decide)) (fun t _ _ h => armedBit_showComp_ne t h) he s

theorem OnlyCoreWords.armedBit {s t : State} {c lo hi w : Nat} (h : OnlyCoreWords s t c lo hi) (hhi : hi ≤ 0x700)
    (hw : w < 16) : armedBit c w t = armedBit c w s :=
  h.rd (b := 0x704 + 16 * w) rfl (by omega)

/-! ARM. -/

/-- The state in which stream `n` is armed as `x`, its comparators are shown and its ring is empty (R187, R195). -/
def armedAs (s : State) (c n : Nat) (x : Stream) : State :=
  ((emptyRing (showComps (s.setStream c n x) c x) c x).wr (Pg.core c) Reg.Core.DELIVERED [n] 0).showStream c n 1

/-- A stream is armed by its record, its comparators, its ring and its own words. -/
theorem armedAs_shows (s : State) (c : Nat) {n : Nat} (hn : n < 8) (x : Stream) :
    OnlyCoreWords (emptyRing (showComps (s.setStream c n x) c x) c x) (armedAs s c n x) c 0x400 0x440 :=
  (onlyCoreWords_delivered _ c 0 hn).trans (onlyCoreWords_showStream _ c 1 hn)

section

variable (s : State) (c : Nat) {n : Nat} {x : Stream} (hn : n < 8) (hcomps : ∀ e ∈ x.comps, e.1 < 16)
  (hring : x.desc.rbase + x.desc.rgn ≤ 4096)

include hn hcomps hring

theorem streamLeaves_armedAs : StreamLeaves s (armedAs s c n x) c n :=
  (((streamLeaves_setStream s c hn x).trans ((onlyCoreWords_showComps _ c hcomps).streamLeaves n)).trans
    ((onlyCoreWords_emptyRing _ c hring).streamLeaves n)).trans ((armedAs_shows s c hn x).streamLeaves n)

theorem stream_armedAs : (armedAs s c n x).stream c n = x := by
  have streams := (armedAs_shows s c hn x).streams.trans
    ((onlyCoreWords_emptyRing _ c hring).streams.trans (onlyCoreWords_showComps _ c hcomps).streams)
  rw [stream_of_streams streams, stream_setStream_self]

theorem armedBit_armedAs {e : Nat × Nat × Nat} (he : e ∈ x.comps) : armedBit c e.1 (armedAs s c n x) = 1 := by
  rw [(armedAs_shows s c hn x).armedBit (by decide) (hcomps e he),
    (onlyCoreWords_emptyRing _ c hring).armedBit (by decide) (hcomps e he), armedBit_showComps _ c he]

omit hcomps in
theorem valid_armedAs (hkind : x.desc.kind = 0) {g : Nat} (hg : g < x.desc.rgn) :
    (armedAs s c n x).valid c (x.desc.rbase + g) = false := by
  rw [(armedAs_shows s c hn x).valid (by decide) (by omega), valid_emptyRing _ c hkind hg]

end

/-- The ring of a descriptor as ARM reads it has granules of 11 bits. -/
theorem ring_parseStream_le (raw : List Byte) : (parseStream raw).rbase + (parseStream raw).rgn ≤ 4096 := by
  have base : (parseStream raw).rbase < 2048 := bits_lt _ 30 20
  have size : (parseStream raw).rgn < 2048 := bits_lt _ 19 9
  omega

theorem mem_freeCompNums_lt {s : State} {c w : Nat} (h : w ∈ s.freeCompNums c) : w < 16 :=
  List.mem_range.mp (List.mem_filter.mp h).1

/-- ARM fires and arms its stream with the comparators that were free. -/
theorem armGo_eq (s : State) (c : CoreId) (i : BitVec 256) (pc : Nat) :
    let d := parseStream (s.bytesAt (poolAddr c (suDesc i)) 64)
    let w := if d.swing then parseSwing (s.bytesAt (poolAddr c d.swd) 32) else SwingDesc.zero
    let x := freshStream d w
    s.armGo c i pc = armedAs (s.fire (suKey c) i [] false).1 c (suStream i)
      { x with comps := (s.freeCompNums c).zip ([dataBounds d w] ++ if d.scl then [scaleBounds d w x.groups] else []) } := by
  intro d w x
  rw [← freeCompNums_fire s c i false]
  rfl

theorem suStream_lt (i : BitVec 256) : suStream i < 8 := bits_lt _ _ _

/-- ARM at the head of the queue takes effect where its check lets it. -/
theorem exec_arm {s : State} {c : CoreId} {i : BitVec 256} {r : List (BitVec 256)} (h : Fires s (suKey c) i r)
    (hopc : suOpc i = 1) (hcheck : s.suCheck c i (s.engine (suKey c)).head = .go) :
    exec (.arm c .none) s = .next (s.armGo c i (s.engine (suKey c)).head) := by
  have wanted : (suOpc i != 2) = true := by rw [hopc]; rfl
  exact congrArg Host.Outcome.next (tryFire_of_fires h (want := fun i => suOpc i != 2) (check := fun s i pc => s.suCheck c i pc)
    (fun _ => 0) (fun s i pc => s.armGo c i pc) wanted hcheck)

/-! DISARM. -/

/-- The state in which stream `n`, as `x`, has ended: its ring is empty and its comparators are free (R193). -/
def endedFrom (s : State) (c n : Nat) (x : Stream) : State :=
  (((emptyRing s c x).freeComps c x).setStream c n Stream.idle).showStream c n 0

theorem disarmNow_eq {s : State} {c n : Nat} (h : (s.stream c n).armed = true)
    (hring : (s.stream c n).desc.rbase + (s.stream c n).desc.rgn ≤ 4096) :
    s.disarmNow c n = endedFrom s c n (s.stream c n) := by
  have emptied : (if (s.stream c n).armed ∧ (s.stream c n).desc.kind = 0 then
      s.setValids ((List.range (s.stream c n).desc.rgn).map fun i => (c, (s.stream c n).desc.rbase + i)) false else s)
      = emptyRing s c (s.stream c n) := by
    simp only [h, true_and]
    rfl
  have same := stream_of_streams (onlyCoreWords_emptyRing s c hring).streams c n
  unfold State.disarmNow
  dsimp only
  rw [emptied, State.endStream, same]
  rfl

/-- Stream `n` of core `c`, which was `x`, has ended. -/
structure StreamEnded (t : State) (c n : Nat) (x : Stream) : Prop where
  idle  : t.stream c n = Stream.idle
  shown : t.rd (Pg.core c) Reg.Core.STATE [n] = 0
  ring  : x.desc.kind = 0 → ∀ g, g < x.desc.rgn → t.valid c (x.desc.rbase + g) = false
  comps : ∀ e ∈ x.comps, t.rd (Pg.core c) Reg.Core.ARMED [e.1] = 0

section

variable (s : State) (c : Nat) {n : Nat} {x : Stream} (hn : n < 8) (hcomps : ∀ e ∈ x.comps, e.1 < 16)
  (hring : x.desc.rbase + x.desc.rgn ≤ 4096)

include hn hcomps hring

theorem streamLeaves_endedFrom : StreamLeaves s (endedFrom s c n x) c n :=
  ((((onlyCoreWords_emptyRing s c hring).streamLeaves n).trans ((onlyCoreWords_freeComps _ c hcomps).streamLeaves n)).trans
    (streamLeaves_setStream _ c hn _)).trans ((onlyCoreWords_showStream _ c 0 hn).streamLeaves n)

theorem streamEnded_endedFrom : StreamEnded (endedFrom s c n x) c n x := by
  have shown := onlyCoreWords_showStream (((emptyRing s c x).freeComps c x).setStream c n Stream.idle) c 0 hn
  refine ⟨?_, rd_state_showStream _ c n 0, fun hkind g hg => ?_, fun e he => ?_⟩
  · rw [endedFrom, stream_of_streams shown.streams, stream_setStream_self]
  · have freed : ((emptyRing s c x).freeComps c x).valid c (x.desc.rbase + g) = false := by
      rw [(onlyCoreWords_freeComps _ c hcomps).valid (by decide) (by omega), valid_emptyRing s c hkind hg]
    exact (shown.valid (by decide) (by omega)).trans freed
  · exact (shown.armedBit (by decide) (hcomps e he)).trans (armedBit_freeComps _ c he)

end

/-! The end of the instructions that wait for a stream. -/

/-- Instructions without work of their own are still in flight; nothing else changes. -/
theorem streamLeaves_finish (s : State) (ids : List Nat) (c n : Nat) : StreamLeaves s (ids.foldl State.finish s) c n := by
  have kept {γ : Type} (g : State → γ) (hg : ∀ t id, g (State.finish t id) = g t) : g (ids.foldl State.finish s) = g s :=
    foldl_keeps g _ ids s fun t id _ => hg t id
  have streams := kept State.streams fun _ _ => rfl
  have regs := kept State.regs fun _ _ => rfl
  exact ⟨kept State.engines fun _ _ => rfl, fun c' n' _ _ => stream_of_streams streams c' n', kept State.mem fun _ _ => rfl,
    kept State.words32 fun _ _ => rfl, fun m o _ _ _ => by rw [State.word, regs, State.word]⟩

theorem StreamEnded.finish {s : State} {c n : Nat} {x : Stream} (h : StreamEnded s c n x) (ids : List Nat) :
    StreamEnded (ids.foldl State.finish s) c n x := by
  induction ids generalizing s with
  | nil => exact h
  | cons id r ih => exact ih ⟨h.idle, h.shown, h.ring, h.comps⟩

/-- The identifier of a fired instruction is the next one. -/
theorem fire_snd (s : State) (k : Nat) (i : BitVec 256) (claims : List (Nat × Nat)) (busy : Bool) :
    (s.fire k i claims busy).2 = s.ids :=
  (congrArg State.ids (onlyRegsAndHost_fireRegs (popped s k) k i claims) :)

/-- A stream that an instruction disarms, with that instruction among those that wait for its end. -/
def endingOf (s : State) (x : Stream) : Stream := { x with ending := x.ending ++ [s.ids] }

/-- The state in which a DISARM has fired and its stream is disarming (R193). -/
def disarming (s : State) (c : Nat) (i : BitVec 256) : State :=
  ((s.fire (suKey c) i [] true).1.setStream c (suStream i) (endingOf s (s.stream c (suStream i)))).showStream c (suStream i) 3

section

variable (s : State) (c : CoreId) (i : BitVec 256) (pc : Nat)

theorem disarmGo_idle (h : (s.stream c (suStream i)).armed = false) :
    s.disarmGo c i pc = (s.fire (suKey c) i [] false).1 := by
  simp only [State.disarmGo, h, Bool.false_eq_true, if_false]

theorem disarmGo_armed (h : (s.stream c (suStream i)).armed = true) :
    s.disarmGo c i pc = (disarming s c i).tryEnd c (suStream i) := by
  have fired : s.fire (suKey c) i [] (s.stream c (suStream i)).armed = s.fire (suKey c) i [] true := by rw [h]
  unfold State.disarmGo
  dsimp only
  rw [if_pos h, fired, fire_snd]
  rfl

theorem stream_disarming : (disarming s c i).stream c (suStream i) = endingOf s (s.stream c (suStream i)) := by
  rw [disarming, stream_of_streams (onlyCoreWords_showStream _ c 3 (suStream_lt i)).streams, stream_setStream_self]

theorem streamReqs_disarming : (disarming s c i).streamReqs c (suStream i) = s.streamReqs c (suStream i) := by
  have reqs : (disarming s c i).reqs = s.reqs := (congrArg State.reqs (onlyIssue_fire s (suKey c) i [] true) :)
  rw [State.streamReqs, reqs, State.streamReqs]

theorem streamLeaves_disarming : StreamLeaves (s.fire (suKey c) i [] true).1 (disarming s c i) c (suStream i) :=
  (streamLeaves_setStream _ c (suStream_lt i) _).trans ((onlyCoreWords_showStream _ c 3 (suStream_lt i)).streamLeaves _)

/-- With requests in flight the stream goes on disarming. -/
theorem tryEnd_owing (h : s.streamReqs c (suStream i) ≠ []) :
    (disarming s c i).tryEnd c (suStream i) = disarming s c i := by
  have owing : ((disarming s c i).streamReqs c (suStream i)).isEmpty = false := by
    rw [streamReqs_disarming]
    simpa using h
  simp only [State.tryEnd, owing, Bool.and_false, Bool.false_eq_true, if_false]

/-- Without requests in flight the stream ends at once. -/
theorem tryEnd_clear (harmed : (s.stream c (suStream i)).armed = true)
    (hring : (s.stream c (suStream i)).desc.rbase + (s.stream c (suStream i)).desc.rgn ≤ 4096)
    (h : s.streamReqs c (suStream i) = []) :
    (disarming s c i).tryEnd c (suStream i) = (endingOf s (s.stream c (suStream i))).ending.foldl State.finish
      (endedFrom (disarming s c i) c (suStream i) (endingOf s (s.stream c (suStream i)))) := by
  have ended : (disarming s c i).disarmNow c (suStream i)
      = endedFrom (disarming s c i) c (suStream i) (endingOf s (s.stream c (suStream i))) := by
    rw [← stream_disarming s c i]
    refine disarmNow_eq ?_ ?_
    · rw [stream_disarming]
      exact harmed
    · rw [stream_disarming]
      exact hring
  have waiting : (endingOf s (s.stream c (suStream i))).ending.isEmpty = false := by simp [endingOf]
  have clear : ((disarming s c i).streamReqs c (suStream i)).isEmpty = true := by rw [streamReqs_disarming, h]; rfl
  rw [State.tryEnd, stream_disarming, waiting, clear, ended]
  rfl

end

/-- DISARM at the head of the queue takes effect. -/
theorem exec_disarm {s : State} {c : CoreId} {i : BitVec 256} {r : List (BitVec 256)} (h : Fires s (suKey c) i r)
    (hopc : suOpc i = 2) (hfields : suFieldsOk i = true) :
    exec (.disarm c) s = .next (s.disarmGo c i (s.engine (suKey c)).head) := by
  have wanted : (suOpc i == 2) = true := by rw [hopc]; rfl
  have first := h.first
  rw [firedBefore_suKey] at first
  have judged : s.suCheck c i (s.engine (suKey c)).head = .go := by
    rw [State.suCheck, hfields, if_neg (by simp), if_pos hopc, behind_go first]
  exact congrArg Host.Outcome.next (tryFire_of_fires h (want := fun i => suOpc i == 2) (check := fun s i pc => s.suCheck c i pc)
    (fun _ => 0) (fun s i pc => s.disarmGo c i pc) wanted judged)

/-- Settles O21: ARM is the record of its stream with its comparators and its empty ring; DISARM is one of three ends, by
whether its stream is armed and has requests in flight. -/
theorem streamsStartAndEnd : Obligations.StreamsStartAndEnd := by
  unfold Obligations.StreamsStartAndEnd
  refine ⟨fun s c i r fires hopc hcheck => ?_, fun s c i r fires hopc hfields => ?_⟩
  · intro n d w x comps
    have hn : n < 8 := suStream_lt i
    have hring := ring_parseStream_le (s.bytesAt (poolAddr c (suDesc i)) 64)
    have hcomps : ∀ e ∈ comps, e.1 < 16 := fun e he => mem_freeCompNums_lt (List.of_mem_zip he).1
    have kept := streamLeaves_armedAs (s.fire (suKey c) i [] false).1 c (x := { x with comps := comps }) hn hcomps hring
    obtain ⟨queue, others, mem, words32, pages⟩ := streamActed_of_fire fires.queue false kept
    refine ⟨_, (exec_arm fires hopc hcheck).trans (congrArg _ (armGo_eq s c i _)), queue, ?_, others, ?_, ?_, fun e he => ?_,
      fun hkind g hg => ?_, mem, words32, pages⟩
    · exact stream_armedAs _ c hn hcomps hring
    · exact rd_state_showStream _ c n 1
    · exact rd_delivered_showStream _ c n 1 0
    · exact armedBit_armedAs _ c hn hcomps hring he
    · exact valid_armedAs _ c hn hring hkind hg
  · intro n x hx
    have hn : n < 8 := suStream_lt i
    refine ⟨_, exec_disarm fires hopc hfields, ?_⟩
    rcases Bool.eq_false_or_eq_true x.armed with harmed | harmed
    case inr =>
      rw [disarmGo_idle s c i _ harmed]
      obtain ⟨queue, others, mem, words32, pages⟩ := streamActed_of_fire fires.queue false
        (OnlyCoreWords.refl.streamLeaves (lo := 0) (hi := 0) n)
      have streams := (onlyIssue_fire s (suKey c) i [] false).streams
      exact ⟨queue, by simp [harmed], by simp [harmed], fun _ => streams, others, mem, words32, pages⟩
    case inl =>
      obtain ⟨hring, hcomps⟩ := hx harmed
      have fits : x.desc.rbase + x.desc.rgn ≤ 4096 := by omega
      have begun := streamLeaves_disarming s c i
      rw [disarmGo_armed s c i _ harmed]
      by_cases hreqs : s.streamReqs c n = []
      · have kept := (begun.trans (streamLeaves_endedFrom (disarming s c i) c (x := endingOf s x) hn hcomps fits)).trans
          (streamLeaves_finish _ (endingOf s x).ending c n)
        obtain ⟨queue, others, mem, words32, pages⟩ := streamActed_of_fire fires.queue true kept
        obtain ⟨idle, shown, ring, comps⟩ :=
          (streamEnded_endedFrom (disarming s c i) c (x := endingOf s x) hn hcomps fits).finish (endingOf s x).ending
        rw [tryEnd_clear s c i harmed fits hreqs]
        exact ⟨queue, fun _ _ => ⟨idle, shown, ring, comps⟩, fun _ h => absurd hreqs h, by simp [harmed], others, mem,
          words32, pages⟩
      · obtain ⟨queue, others, mem, words32, pages⟩ := streamActed_of_fire fires.queue true begun
        rw [tryEnd_owing s c i hreqs]
        refine ⟨queue, fun _ h => absurd h hreqs, fun _ _ => ⟨stream_disarming s c i, ?_⟩, by simp [harmed], others, mem,
          words32, pages⟩
        exact rd_state_showStream _ c n 3

end Sys2Proof.Proofs
end

section
/-! SUPPORT. Module holds (R199, R263 to R267): what the beginning and the end of one write in the page of holds, what a hold's
end finds with nothing waiting, the temperature mode, and the statement about them. -/

namespace Sys2Proof.Proofs

open Sys2Proof.Machine Sys2Proof.Laws

/-! Counters of two words. -/

/-- A counter of two words wraps at the width of both. -/
theorem rd2_add2 (s : State) (p : Nat) {lo hi : FieldSpec} (ix : List Nat) (n : Nat) (hlo : lo.lo ≤ lo.hi ∧ lo.hi < 32)
    (hhi : hi.lo ≤ hi.hi ∧ hi.hi < 32) (apart : regKey p (lo.off ix) ≠ regKey p (hi.off ix)) :
    (s.add2 p lo hi ix n).rd2 p lo hi ix = (s.rd2 p lo hi ix + n) % 2 ^ (lo.width + hi.width) := by
  rw [State.add2, State.wr2, State.rd2, rd_wr_self _ _ hi _ _ hhi.1 hhi.2, rd_wr_word_ne _ _ _ _ _ _ _ _ apart,
    rd_wr_self _ _ lo _ _ hlo.1 hlo.2, Nat.pow_add, Nat.mod_mul, Nat.mul_comm (_ % _)]

/-! The page of holds. -/

theorem code_lt (c : HoldCause) : c.code < 4 := by
  cases c <;> decide

/-- The words of the page of holds below its counters stand while a count is written. -/
theorem rd_addHold (s : State) (c : HoldCause) (f : FieldSpec) (hf : f.off [] < 0x110) :
    (s.add2 Pg.holds Reg.Holds.COUNT_LO Reg.Holds.COUNT_HI [c.code] 1).rd Pg.holds f = s.rd Pg.holds f := by
  have code := code_lt c
  rw [State.add2, State.wr2, State.rd, word_wr_of_ne _ _ _ _ (b := 0x114 + 0x10 * c.code) rfl (by omega) (by omega) (by omega),
    word_wr_of_ne _ _ _ _ (b := 0x110 + 0x10 * c.code) rfl (by omega) (by omega) (by omega), State.rd]

/-- The counts of holds stand while the words below them are written. -/
theorem rd2_count_wr (s : State) (c : HoldCause) (f : FieldSpec) (v : Nat) (hf : f.off [] < 0x110) :
    (s.wr Pg.holds f [] v).rd2 Pg.holds Reg.Holds.COUNT_LO Reg.Holds.COUNT_HI [c.code] =
      s.rd2 Pg.holds Reg.Holds.COUNT_LO Reg.Holds.COUNT_HI [c.code] := by
  have keep (g : FieldSpec) (b : Nat) (hg : g.off [c.code] = b + 0x10 * c.code) (hb : b % 4 = 0 ∧ 0x110 ≤ b) :
      (s.wr Pg.holds f [] v).rd Pg.holds g [c.code] = s.rd Pg.holds g [c.code] := by
    refine rd_wr_word_ne _ _ _ _ _ _ _ _ ?_
    unfold regKey
    omega
  rw [State.rd2, keep _ 0x110 rfl (by decide), keep _ 0x114 rfl (by decide), State.rd2]

/-- The hold of cause `c` has come into force, shown and counted (R264, R267). -/
structure HoldBegun (s t : State) (c : HoldCause) : Prop where
  hold    : t.hold = { s.hold with now := some c, sclk := 0, done := s.holdIdle c }
  active  : t.rd Pg.holds Reg.Holds.ACTIVE = 1
  cause   : t.rd Pg.holds Reg.Holds.CAUSE = c.code
  lead    : t.rd Pg.holds Reg.Holds.LEAD = s.rd Pg.holds Reg.Holds.LEAD
  length  : t.rd Pg.holds Reg.Holds.LAST_LEN = s.rd Pg.holds Reg.Holds.LAST_LEN
  count   : t.rd2 Pg.holds Reg.Holds.COUNT_LO Reg.Holds.COUNT_HI [c.code] =
    (s.rd2 Pg.holds Reg.Holds.COUNT_LO Reg.Holds.COUNT_HI [c.code] + 1) % 2 ^ 48
  mem     : t.mem = s.mem
  words32 : t.words32 = s.words32

/-- The state in which the hold is in force and shown, before it is counted. -/
def holdShown (s : State) (c : HoldCause) : State :=
  (({ s with hold := { s.hold with now := some c, sclk := 0, done := s.holdIdle c } } : State).wr
    Pg.holds Reg.Holds.ACTIVE [] 1).wr Pg.holds Reg.Holds.CAUSE [] c.code

theorem holdBegins_eq (s : State) (c : HoldCause) :
    s.holdBegins c = (holdShown s c).add2 Pg.holds Reg.Holds.COUNT_LO Reg.Holds.COUNT_HI [c.code] 1 := rfl

/-- Of the words of the page of holds only the first shows the hold. -/
theorem rd_holdShown (s : State) (c : HoldCause) (f : FieldSpec) (hf : f.hi < 32 ∧ f.lo ≤ f.hi)
    (hout : f.off [] = 0x104 ∨ 3 ≤ f.lo) : (holdShown s c).rd Pg.holds f = s.rd Pg.holds f := by
  have keep (u : State) (g : FieldSpec) (v : Nat) (hg : g.off [] = 0x100) (hbits : g.lo ≤ g.hi ∧ g.hi < 3) :
      (u.wr Pg.holds g [] v).rd Pg.holds f = u.rd Pg.holds f := by
    rcases hout with word | bits
    · exact rd_wr_word_ne _ _ _ _ _ _ _ _ (by rw [hg, word]; decide)
    · exact rd_wr_field_ne _ _ _ _ _ _ _ hbits.1 hf.1 hf.2 (by omega)
  rw [holdShown, keep _ _ _ rfl (by decide), keep _ _ _ rfl (by decide)]
  rfl

theorem rd2_count_holdShown (s : State) (c : HoldCause) :
    (holdShown s c).rd2 Pg.holds Reg.Holds.COUNT_LO Reg.Holds.COUNT_HI [c.code] =
      s.rd2 Pg.holds Reg.Holds.COUNT_LO Reg.Holds.COUNT_HI [c.code] := by
  rw [holdShown, rd2_count_wr _ _ _ _ (by decide), rd2_count_wr _ _ _ _ (by decide)]
  rfl

theorem holdBegun_holdBegins (s : State) (c : HoldCause) : HoldBegun s (s.holdBegins c) c := by
  rw [holdBegins_eq]
  refine ⟨rfl, ?_, ?_, ?_, ?_, ?_, rfl, rfl⟩
  · rw [rd_addHold _ _ _ (by decide), holdShown,
      rd_wr_field_ne _ _ _ _ _ _ _ (by decide) (by decide) (by decide) (by decide),
      rd_wr_self _ _ _ _ _ (by decide) (by decide)]
    rfl
  · rw [rd_addHold _ _ _ (by decide), holdShown, rd_wr_self _ _ _ _ _ (by decide) (by decide)]
    exact Nat.mod_eq_of_lt (code_lt c)
  · rw [rd_addHold _ _ _ (by decide), rd_holdShown s c _ (by decide) (by decide)]
  · rw [rd_addHold _ _ _ (by decide), rd_holdShown s c _ (by decide) (by decide)]
  · have apart : regKey Pg.holds (0x110 + 0x10 * c.code) ≠ regKey Pg.holds (0x114 + 0x10 * c.code) := by
      unfold regKey
      omega
    rw [rd2_add2 _ _ _ _ (by decide) (by decide) apart, rd2_count_holdShown]
    rfl

/-! The request and the start of a hold. -/

/-- A hold that is not yet asked for begins its lead where no other has begun its own, and waits otherwise (R264, R265). -/
theorem requestHold_leads {s : State} {c : HoldCause} (h : s.holdAsked c = false) (hnow : s.hold.now = none)
    (hlead : s.hold.lead = none) : s.requestHold c = s.holdLead c := by
  simp [State.requestHold, h, hnow, hlead]

theorem requestHold_waits {s : State} {c : HoldCause} (h : s.holdAsked c = false)
    (hbusy : s.hold.now ≠ none ∨ s.hold.lead ≠ none) : s.requestHold c = s.holdWaits c := by
  have busy : (s.hold.now.isSome || s.hold.lead.isSome) = true := by
    simpa [Option.isSome_iff_ne_none] using hbusy
  simp [State.requestHold, h, busy]

theorem exec_refreshRequest {s : State} (hf : s.frozen = false) (ht : s.wheel.turns = true) :
    exec .refreshRequest s = .next (s.requestHold .refresh) := by
  change execRefreshRequest s = _
  simp [execRefreshRequest, hf, ht]

/-- A REFRESH_REQUEST begins the lead of a hold, or puts it behind the hold that has begun. -/
theorem refreshRequest_holds {s : State} (hf : s.frozen = false) (ht : s.wheel.turns = true)
    (ha : s.holdAsked .refresh = false) :
    ∃ t, exec .refreshRequest s = .next t ∧ t.mem = s.mem ∧ t.words32 = s.words32 ∧ t.hold.now = s.hold.now ∧
      (s.hold.now = none → s.hold.lead = none → t.hold.lead = some .refresh ∧ t.rd Pg.holds Reg.Holds.LEAD = 1) ∧
      (s.hold.now ≠ none ∨ s.hold.lead ≠ none → t.hold.lead = s.hold.lead ∧ .refresh ∈ t.hold.waiting) := by
  rw [exec_refreshRequest hf ht]
  by_cases hbusy : s.hold.now ≠ none ∨ s.hold.lead ≠ none
  · rw [requestHold_waits ha hbusy]
    refine ⟨_, rfl, rfl, rfl, rfl, fun hnow hlead => ?_, fun _ => ⟨rfl, ?_⟩⟩
    · simp [hnow, hlead] at hbusy
    · exact List.mem_append_right _ (List.mem_singleton.mpr rfl)
  · obtain ⟨hnow, hlead⟩ : s.hold.now = none ∧ s.hold.lead = none := by simpa using hbusy
    rw [requestHold_leads ha hnow hlead]
    refine ⟨_, rfl, rfl, rfl, rfl, fun _ _ => ⟨rfl, ?_⟩, fun h => absurd h hbusy⟩
    exact rd_wr_self _ _ Reg.Holds.LEAD [] 1 (by decide) (by decide)

theorem exec_holdStart {s : State} {c : HoldCause} (hf : s.frozen = false) (h : s.hold.lead = some c) :
    exec .holdStart s = .next
      ((({ s with hold := { s.hold with lead := none } } : State).wr Pg.holds Reg.Holds.LEAD [] 0).holdBegins c) := by
  change execHoldStart s = _
  simp [execHoldStart, h, hf]

/-! The end of a hold. -/

/-- A fold none of whose steps changes its start ends there. -/
theorem foldl_of_fixed {α β : Type} {f : β → α → β} {s : β} (h : ∀ x, f s x = s) (l : List α) : l.foldl f s = s := by
  induction l with
  | nil => rfl
  | cons x r ih => rw [List.foldl_cons, h x, ih]

/-- Where no request has come, no completion was held back. -/
theorem heldComplete_of_none {s : State} (h : ∀ r ∈ s.reqs, s.arrivedReq r = false) : s.heldComplete = s := by
  refine foldl_of_fixed (fun r => ?_) s.reqs
  split
  · next x found => rw [h x (List.mem_of_find?_eq_some found), if_neg (by simp)]
  · rfl

/-- A port of the module is one of its list, and no other has kept anything. -/
theorem port_cases (s : State) (p : Nat) :
    (∃ h : p < s.ports.length, s.port p = s.ports[p]) ∨ (s.ports.length ≤ p ∧ s.port p = Port.fresh) := by
  rcases Nat.lt_or_ge p s.ports.length with inside | outside
  · exact Or.inl ⟨inside, by rw [State.port, List.getD_eq_getElem?_getD, List.getElem?_eq_getElem inside, Option.getD_some]⟩
  · exact Or.inr ⟨outside, by rw [State.port, List.getD_eq_getElem?_getD, List.getElem?_eq_none outside, Option.getD_none]⟩

theorem setPort_port (s : State) (p : Nat) : s.setPort p (s.port p) = s := by
  have same : s.ports.set p (s.port p) = s.ports := by
    rcases port_cases s p with ⟨inside, port⟩ | ⟨outside, -⟩
    · rw [port, List.set_getElem_self]
    · exact List.set_eq_of_length_le outside
  rw [State.setPort, same]

/-- Where no port has kept a crossing, none is delivered. -/
theorem drainRxAll_of_empty {s : State} (h : ∀ o ∈ s.ports, o.rxBuf = []) : s.drainRxAll = s := by
  refine foldl_of_fixed (fun p => ?_) _
  have empty : (s.port p).rxBuf = [] := by
    rcases port_cases s p with ⟨inside, port⟩ | ⟨-, port⟩
    · rw [port]
      exact h _ (List.getElem_mem inside)
    · rw [port]
      rfl
  have same : ({ s.port p with rxBuf := [] } : Port) = s.port p := by rw [← empty]
  rw [State.drainRx, same, empty, setPort_port]
  rfl

theorem drainIngest_of_empty {s : State} (h : s.ingestRx = []) : s.drainIngest = s := by
  have same : ({ s with ingestRx := [] } : State) = s := by rw [← h]
  rw [State.drainIngest, same, h]
  rfl

/-- The state in which the hold in force is no more, with its length recorded (R267). -/
def holdOver (s : State) : State :=
  (({ s with hold := { s.hold with now := none, sclk := 0, done := false } } : State).wr Pg.holds Reg.Holds.ACTIVE [] 0).wr
    Pg.holds Reg.Holds.LAST_LEN [] s.hold.sclk

/-- A hold whose cause has completed ends in the next waiting hold, or in what was held back. -/
theorem exec_holdEnd {s : State} (hf : s.frozen = false) (hnow : s.hold.now ≠ none) (hdone : s.hold.done = true) :
    (∀ c, s.nextHold = some c → exec .holdEnd s = .next ((holdOver s).holdFollows c)) ∧
    (s.nextHold = none → exec .holdEnd s = .next (holdOver s).heldComplete.drainRxAll.drainIngest) := by
  have ends : ¬ (s.frozen || s.hold.now.isNone || !s.hold.done) = true := by
    simp [hf, hnow, hdone]
  refine ⟨fun c h => ?_, fun h => ?_⟩
  all_goals
    change execHoldEnd s = _
    unfold execHoldEnd
    rw [if_neg ends]
    change (holdOver s).nextHold = _ at h
    unfold holdOver at h ⊢
    simp only [h]

theorem rd_length_holdOver (s : State) : (holdOver s).rd Pg.holds Reg.Holds.LAST_LEN = s.hold.sclk % 2 ^ 32 :=
  rd_wr_self _ _ Reg.Holds.LAST_LEN [] _ (by decide) (by decide)

theorem rd_active_holdOver (s : State) : (holdOver s).rd Pg.holds Reg.Holds.ACTIVE = 0 :=
  (rd_wr_word_ne _ _ _ _ _ _ _ _ (by decide)).trans (rd_wr_self _ _ Reg.Holds.ACTIVE [] 0 (by decide) (by decide))

/-- The state in which the hold of cause `c` waits no more and its pending bit is clear. -/
def waitOver (s : State) (c : HoldCause) : State :=
  ({ s with hold := { s.hold with waiting := s.hold.waiting.filter (· != c) } } : State).setWord Pg.holds 0x100
    (s.word Pg.holds 0x100 &&& ~~~(BitVec.ofNat 32 (2 ^ (4 + c.code))))

theorem holdFollows_eq (s : State) (c : HoldCause) : s.holdFollows c = (waitOver s c).holdBegins c := rfl

theorem not_mem_waiting_waitOver (s : State) (c : HoldCause) : c ∉ (waitOver s c).hold.waiting := by
  change c ∉ s.hold.waiting.filter (· != c)
  simp

theorem rd_length_waitOver (s : State) (c : HoldCause) :
    (waitOver s c).rd Pg.holds Reg.Holds.LAST_LEN = s.rd Pg.holds Reg.Holds.LAST_LEN := by
  have apart : regKey Pg.holds (Reg.Holds.LAST_LEN.off []) ≠ regKey Pg.holds 0x100 := by decide
  rw [State.rd, waitOver, word_setWord, if_neg apart]
  rfl

/-! The temperature mode. -/

/-- The devices that ask for a doubled refresh rate after one of them has spoken (R199). -/
def hotAfter (s : State) (dev : DevId) (hot : Bool) : List Nat :=
  s.hotDevs.filter (· != dev.val) ++ if hot then [dev.val] else []

theorem mem_hotAfter {s : State} {dev : DevId} {hot : Bool} {e : Nat} :
    e ∈ hotAfter s dev hot ↔ (e = dev.val ∧ hot = true) ∨ (e ∈ s.hotDevs ∧ e ≠ dev.val) := by
  cases hot <;> simp [hotAfter, or_comm]

theorem hotAfter_isEmpty {s : State} {dev : DevId} {hot : Bool} :
    (!(hotAfter s dev hot).isEmpty) = true ↔ hot = true ∨ ∃ e ∈ s.hotDevs, e ≠ dev.val := by
  rw [Bool.not_eq_true', List.isEmpty_eq_false_iff_exists_mem]
  simp only [mem_hotAfter]
  constructor
  · rintro ⟨e, ⟨-, hot⟩ | other⟩
    · exact Or.inl hot
    · exact Or.inr ⟨e, other⟩
  · rintro (hot | ⟨e, other⟩)
    · exact ⟨dev.val, Or.inl ⟨rfl, hot⟩⟩
    · exact ⟨e, Or.inr other⟩

/-- HOT in the pages of all dies. -/
def showHot (s : State) (b : Bool) : State := (List.range 4).foldl (fun t d => t.wr (Pg.die d) Reg.Die.HOT [] (bit b)) s

theorem onlyRegs_showHot (s : State) (b : Bool) : OnlyRegs s (showHot s b) :=
  onlyRegs_foldl _ (fun t _ => onlyRegs_wr t _ _ _ _) _ s

theorem rd_showHot (s : State) (b : Bool) (d : DieId) : (showHot s b).rd (Pg.die d) Reg.Die.HOT = bit b := by
  have sets (t : State) : (t.wr (Pg.die d) Reg.Die.HOT [] (bit b)).rd (Pg.die d) Reg.Die.HOT = bit b := by
    rw [rd_wr_self _ _ _ _ _ (by decide) (by decide)]
    cases b <;> rfl
  refine foldl_sets (fun t : State => t.rd (Pg.die d) Reg.Die.HOT) (fun t x => t.wr (Pg.die x) Reg.Die.HOT [] (bit b))
    (a := d.val) (List.mem_range.mpr d.isLt) sets (fun t x _ ht => ?_) s
  by_cases here : x = d
  · subst here
    exact sets t
  · have apart : regKey (Pg.die d) (Reg.Die.HOT.off []) ≠ regKey (Pg.die x) (Reg.Die.HOT.off []) := by
      unfold regKey Pg.die
      omega
    exact (rd_wr_word_ne t _ _ _ _ _ _ _ apart).trans ht

theorem word_showHot (s : State) (b : Bool) {n o : Nat} (ho : o < 4096) (h : ∀ d : DieId, n ≠ Pg.die d) :
    (showHot s b).word n o = s.word n o :=
  foldl_keeps (fun t : State => t.word n o) _ _ s fun t d hd =>
    word_wr_of_ne t _ _ _ (b := 0x180) rfl (by decide) ho fun e => h ⟨d, List.mem_range.mp hd⟩ e.1

theorem exec_temperatureModeChange (s : State) (dev : DevId) (hot : Bool) :
    exec (.temperatureModeChange dev hot) s =
      .next (showHot { s with hotDevs := hotAfter s dev hot } (!(hotAfter s dev hot).isEmpty)) := by
  change execTemperatureModeChange dev hot s = _
  unfold execTemperatureModeChange showHot hotAfter
  dsimp only

/-- Settles O29: each command of a hold's life is a write of the page of holds beside the hold itself. -/
theorem holdLifecycle : Obligations.HoldLifecycle := by
  unfold Obligations.HoldLifecycle
  refine ⟨⟨fun s hf ht ha => refreshRequest_holds hf ht ha, fun s c hf hlead => ?_, fun s hf hnow => ?_,
    fun s hf hnow hdone hports hrx hreqs => ?_⟩, fun s dev hot => ?_⟩
  · -- HOLD_START
    obtain ⟨hold, active, cause, lead, -, count, mem, words32⟩ := holdBegun_holdBegins
      (({ s with hold := { s.hold with lead := none } } : State).wr Pg.holds Reg.Holds.LEAD [] 0) c
    refine ⟨_, exec_holdStart hf hlead, by rw [hold], by rw [hold]; rfl, by rw [hold], active, cause, lead.trans ?_, ?_, mem,
      words32⟩
    · exact rd_wr_self _ _ Reg.Holds.LEAD [] 0 (by decide) (by decide)
    · rw [count]
      rw [rd2_count_wr _ _ _ _ (by decide)]
      rfl
  · -- REFRESH_COMPLETE
    change execRefreshComplete s = _
    simp [execRefreshComplete, hf, hnow]
  · -- HOLD_END
    obtain ⟨follows, resumes⟩ := exec_holdEnd hf hnow hdone
    cases hnext : s.nextHold with
    | some c =>
      obtain ⟨hold, -, cause, -, length, -, mem, words32⟩ := holdBegun_holdBegins (waitOver (holdOver s) c) c
      have recorded := (rd_length_waitOver (holdOver s) c).trans (rd_length_holdOver s)
      refine ⟨_, (follows c hnext).trans (congrArg _ (holdFollows_eq _ c)), length.trans recorded, by simp, fun d hd => ?_, mem,
        words32⟩
      obtain rfl := Option.some.inj hd
      exact ⟨by rw [hold], hold ▸ not_mem_waiting_waitOver (holdOver s) c, cause⟩
    | none =>
      have nothing : (holdOver s).heldComplete.drainRxAll.drainIngest = holdOver s := by
        rw [heldComplete_of_none (s := holdOver s) hreqs, drainRxAll_of_empty (s := holdOver s) hports,
          drainIngest_of_empty (s := holdOver s) hrx]
      exact ⟨_, (resumes hnext).trans (congrArg _ nothing), rd_length_holdOver s, fun _ => ⟨rfl, rd_active_holdOver s⟩, by simp,
        rfl, rfl⟩
  · -- TEMPERATURE_MODE_CHANGE
    have kept := onlyRegs_showHot { s with hotDevs := hotAfter s dev hot } (!(hotAfter s dev hot).isEmpty)
    refine ⟨_, exec_temperatureModeChange s dev hot, fun d => ?_, fun e => ?_, (congrArg State.mem kept :),
      (congrArg State.words32 kept :), (congrArg State.hold kept :), fun n o ho hn => word_showHot _ _ ho hn⟩
    · rw [rd_showHot, bit]
      exact ite_congr (propext hotAfter_isEmpty) (fun _ => rfl) fun _ => rfl
    · rw [(congrArg State.hotDevs kept :)]
      exact mem_hotAfter

end Sys2Proof.Proofs
end

section
/-! SUPPORT. The shuffle of an epoch (R238): the Feistel rounds permute, the walk ends at the first value below N, and the
statement about them. Maps, their iterates and the pigeonhole stand here in core Lean's terms, since the package's modules come
without Mathlib. -/

namespace Sys2Proof.Proofs

open Sys2Proof.Machine Sys2Proof.Laws

/-! The half width. -/

theorem pqHalf_le {n : Nat} (h : n ≤ 2 ^ 32) : pqHalf n ≤ 16 := by
  have bits_le : (if n ≤ 1 then 0 else Nat.log2 (n - 1) + 1) ≤ 32 := by
    split
    · exact Nat.zero_le 32
    · exact (Nat.log2_lt (by omega)).mpr (by omega)
  unfold pqHalf
  dsimp only
  omega

/-- E is over at least the epoch's positions. -/
theorem le_two_pow_pqHalf (n : Nat) : n ≤ 2 ^ (2 * pqHalf n) := by
  have bits_enough : n ≤ 2 ^ (if n ≤ 1 then 0 else Nat.log2 (n - 1) + 1) := by
    split
    · next h => exact h
    · have top := Nat.lt_log2_self (n := n - 1)
      omega
  refine Nat.le_trans bits_enough (Nat.pow_le_pow_right (by decide) ?_)
  unfold pqHalf
  dsimp only
  omega

/-! Maps of the numbers below a bound into themselves. -/

/-- `E` takes the numbers below `M` to such numbers, each from one of them at most. -/
structure Permutes (E : Nat → Nat) (M : Nat) : Prop where
  lt  : ∀ v < M, E v < M
  inj : ∀ v < M, ∀ w < M, E v = E w → v = w

/-- `E` applied `k` times. -/
def iterated (E : Nat → Nat) : Nat → Nat → Nat
  | 0, v => v
  | k + 1, v => iterated E k (E v)

theorem iterated_add (E : Nat → Nat) (k d v : Nat) : iterated E (k + d) v = iterated E k (iterated E d v) := by
  induction d generalizing v with
  | zero => rfl
  | succ d ih => exact ih (E v)

section
variable {E : Nat → Nat} {M : Nat} (hE : Permutes E M)
include hE

theorem Permutes.iterated_lt (k : Nat) {v : Nat} (hv : v < M) : iterated E k v < M := by
  induction k generalizing v with
  | zero => exact hv
  | succ k ih => exact ih (hE.lt v hv)

theorem Permutes.iterated_inj (k : Nat) {v w : Nat} (hv : v < M) (hw : w < M) (h : iterated E k v = iterated E k w) : v = w := by
  induction k generalizing v w with
  | zero => exact h
  | succ k ih => exact hE.inj v hv w hw (ih (hE.lt v hv) (hE.lt w hw) h)

/-- It comes back to each number within `M` steps: of `M + 1` numbers below `M`, two are the same. -/
theorem Permutes.exists_iterated_eq {v : Nat} (hv : v < M) : ∃ k < M, iterated E (k + 1) v = v := by
  refine Classical.byContradiction fun never => ?_
  have apart {i j : Nat} (hij : i < j) (hj : j ∈ List.range (M + 1)) : iterated E i v ≠ iterated E j v := by
    intro same
    have hjM := List.mem_range.mp hj
    rw [show j = i + (j - i) by omega, iterated_add] at same
    have back := hE.iterated_inj i hv (hE.iterated_lt (j - i) hv) same
    exact never ⟨j - i - 1, by omega, by rw [show j - i - 1 + 1 = j - i by omega, ← back]⟩
  have nodup : ((List.range (M + 1)).map (iterated E · v)).Nodup :=
    List.pairwise_map.mpr (List.pairwise_lt_range.imp_of_mem fun _ hj hij => apart hij hj)
  have below : (List.range (M + 1)).map (iterated E · v) ⊆ List.range M := by
    intro w hw
    obtain ⟨i, -, rfl⟩ := List.mem_map.mp hw
    exact List.mem_range.mpr (hE.iterated_lt i hv)
  have count := nodup.length_le_of_subset below
  rw [List.length_map, List.length_range, List.length_range] at count
  omega

end

section
variable {key : BitVec 64} {epoch h : Nat}

/-! The rounds. -/

theorem pqF_lt (hh : h ≤ 32) (i x : Nat) : pqF key epoch h i x < 2 ^ h := by
  unfold pqF
  refine Nat.div_lt_of_lt_mul ?_
  rw [← Nat.pow_add, Nat.sub_add_cancel hh]
  exact BitVec.isLt _

/-- A pair of halves. -/
structure Halves (h : Nat) (p : Nat × Nat) : Prop where
  left  : p.1 < 2 ^ h
  right : p.2 < 2 ^ h

theorem halves_pqRound (hh : h ≤ 32) (i : Nat) {p : Nat × Nat} (hp : Halves h p) : Halves h (pqRound key epoch h i p) :=
  ⟨hp.right, Nat.xor_lt_two_pow hp.left (pqF_lt hh i _)⟩

theorem xor_right_cancel {a b c : Nat} (h : a ^^^ c = b ^^^ c) : a = b := by
  calc a
    _ = a ^^^ c ^^^ c := by rw [Nat.xor_assoc, Nat.xor_self, Nat.xor_zero]
    _ = b ^^^ c ^^^ c := by rw [h]
    _ = b := by rw [Nat.xor_assoc, Nat.xor_self, Nat.xor_zero]

/-- The right half is kept, and with it what was added to the left one. -/
theorem pqRound_inj (i : Nat) {p q : Nat × Nat} (heq : pqRound key epoch h i p = pqRound key epoch h i q) : p = q := by
  obtain ⟨hright, hleft⟩ := Prod.mk.inj heq
  rw [hright] at hleft
  exact Prod.ext (xor_right_cancel hleft) hright

/-- Rounds in the order of a list. -/
def pqRounds (key : BitVec 64) (epoch h : Nat) (l : List Nat) (p : Nat × Nat) : Nat × Nat :=
  l.foldl (fun p i => pqRound key epoch h i p) p

theorem halves_pqRounds (hh : h ≤ 32) (l : List Nat) {p : Nat × Nat} (hp : Halves h p) : Halves h (pqRounds key epoch h l p) := by
  induction l generalizing p with
  | nil => exact hp
  | cons i l ih => exact ih (halves_pqRound hh i hp)

theorem pqRounds_inj (l : List Nat) {p q : Nat × Nat} (heq : pqRounds key epoch h l p = pqRounds key epoch h l q) : p = q := by
  induction l generalizing p q with
  | nil => exact heq
  | cons i l ih => exact pqRound_inj i (ih heq)

/-! E: numbers below 2^(2h) are pairs of halves, by quotient and remainder. -/

theorem halves_of_lt {v : Nat} (hv : v < 2 ^ (2 * h)) : Halves h (v / 2 ^ h, v % 2 ^ h) := by
  rw [Nat.two_mul, Nat.pow_add] at hv
  exact ⟨Nat.div_lt_of_lt_mul hv, Nat.mod_lt _ (Nat.two_pow_pos h)⟩

theorem joined_lt {p : Nat × Nat} (hp : Halves h p) : p.1 * 2 ^ h + p.2 < 2 ^ (2 * h) := by
  calc p.1 * 2 ^ h + p.2
    _ < p.1 * 2 ^ h + 2 ^ h := Nat.add_lt_add_left hp.right _
    _ = (p.1 + 1) * 2 ^ h := (Nat.succ_mul ..).symm
    _ ≤ 2 ^ h * 2 ^ h := Nat.mul_le_mul_right _ hp.left
    _ = 2 ^ (2 * h) := by rw [← Nat.pow_add, Nat.two_mul]

theorem joined_inj {p q : Nat × Nat} (hp : Halves h p) (hq : Halves h q)
    (heq : p.1 * 2 ^ h + p.2 = q.1 * 2 ^ h + q.2) : p = q := by
  have parts {x : Nat × Nat} (hx : Halves h x) :
      ((x.1 * 2 ^ h + x.2) / 2 ^ h, (x.1 * 2 ^ h + x.2) % 2 ^ h) = x := by
    rw [Nat.mul_add_mod', Nat.mod_eq_of_lt hx.right, Nat.mul_comm, Nat.mul_add_div (Nat.two_pow_pos h),
      Nat.div_eq_of_lt hx.right, Nat.add_zero]
  rw [← parts hp, heq, parts hq]

theorem pqE_permutes (key : BitVec 64) (epoch : Nat) (hh : h ≤ 32) : Permutes (pqE key epoch h) (2 ^ (2 * h)) where
  lt _ hv := joined_lt (halves_pqRounds hh (List.range 4) (halves_of_lt hv))
  inj v hv w hw heq := by
    have rounds := joined_inj (halves_pqRounds hh (List.range 4) (halves_of_lt hv))
      (halves_pqRounds hh (List.range 4) (halves_of_lt hw)) heq
    obtain ⟨hdiv, hmod⟩ := Prod.mk.inj (pqRounds_inj (List.range 4) rounds)
    rw [← Nat.div_add_mod v (2 ^ h), hdiv, hmod, Nat.div_add_mod]

/-! The walk. -/

/-- With fuel for one that is below `n`, the walk stops at the first of E's iterates that is. -/
theorem pqWalk_first {n : Nat} (f : Nat) {y : Nat} (hstop : ∃ k < f, iterated (pqE key epoch h) k y < n) :
    ∃ k, pqWalk key epoch h n f y = iterated (pqE key epoch h) k y ∧ iterated (pqE key epoch h) k y < n ∧
      ∀ j < k, n ≤ iterated (pqE key epoch h) j y := by
  induction f generalizing y with
  | zero =>
    obtain ⟨k, hk, -⟩ := hstop
    exact absurd hk k.not_lt_zero
  | succ f ih =>
    rw [pqWalk]
    split
    · next hy => exact ⟨0, rfl, hy, fun j hj => absurd hj j.not_lt_zero⟩
    · next hy =>
      obtain ⟨k, hk, hlt⟩ := hstop
      cases k with
      | zero => exact absurd hlt hy
      | succ k =>
        obtain ⟨m, hwalk, hm, hfirst⟩ := ih ⟨k, Nat.lt_of_succ_lt_succ hk, hlt⟩
        refine ⟨m + 1, hwalk, hm, fun j hj => ?_⟩
        cases j with
        | zero => exact Nat.le_of_not_lt hy
        | succ j => exact hfirst j (Nat.lt_of_succ_lt_succ hj)

end

section
variable {key : BitVec 64} {epoch n : Nat} (hn : n ≤ 2 ^ 32)
include hn

theorem pqHalf_le_32 : pqHalf n ≤ 32 := Nat.le_trans (pqHalf_le hn) (by decide)

/-- π(p) is the first below N of what E makes of p, again and again. -/
theorem shuffle_first {p : Nat} (hp : p < n) :
    ∃ k, shuffle key epoch n p = iterated (pqE key epoch (pqHalf n)) (k + 1) p ∧
      iterated (pqE key epoch (pqHalf n)) (k + 1) p < n ∧ ∀ j < k, n ≤ iterated (pqE key epoch (pqHalf n)) (j + 1) p := by
  obtain ⟨k, hk, hback⟩ := (pqE_permutes key epoch (pqHalf_le_32 hn)).exists_iterated_eq
    (Nat.lt_of_lt_of_le hp (le_two_pow_pqHalf n))
  unfold shuffle
  exact pqWalk_first _ ⟨k, hk, Nat.lt_of_le_of_lt (Nat.le_of_eq hback) hp⟩

/-- Two positions of one image would meet before the end of the longer walk. -/
theorem shuffle_inj_of_le {p q k m : Nat} (hp : p < n) (hq : q < n) (hkm : k ≤ m)
    (heq : iterated (pqE key epoch (pqHalf n)) (k + 1) p = iterated (pqE key epoch (pqHalf n)) (m + 1) q)
    (hfirst : ∀ j < m, n ≤ iterated (pqE key epoch (pqHalf n)) (j + 1) q) : p = q := by
  have le := le_two_pow_pqHalf n
  have perm := pqE_permutes key epoch (pqHalf_le_32 hn)
  have met : p = iterated (pqE key epoch (pqHalf n)) (m - k) q := by
    refine perm.iterated_inj (k + 1) (Nat.lt_of_lt_of_le hp le) (perm.iterated_lt _ (Nat.lt_of_lt_of_le hq le)) ?_
    rw [heq, ← iterated_add, show k + 1 + (m - k) = m + 1 by omega]
  cases hd : m - k with
  | zero => rwa [hd] at met
  | succ d =>
    rw [hd] at met
    exact absurd (met ▸ hp) (Nat.not_lt_of_le (hfirst d (by omega)))

end

/-- Settles O44: E permutes since each round does, and a walk of E that ends at the first value below N can be walked back. -/
theorem shufflePermutesEpoch : Obligations.ShufflePermutesEpoch := by
  unfold Obligations.ShufflePermutesEpoch
  intro key epoch n _ hn
  have perm := pqE_permutes key epoch (pqHalf_le_32 hn)
  refine ⟨perm.lt, fun v w hv hw => perm.inj v hv w hw, fun p hp => ?_, fun p q hp hq heq => ?_⟩
  · obtain ⟨k, hshuffle, hlt, -⟩ := shuffle_first (key := key) (epoch := epoch) hn hp
    rwa [hshuffle]
  · obtain ⟨k, hk, -, hfirstp⟩ := shuffle_first (key := key) (epoch := epoch) hn hp
    obtain ⟨m, hm, -, hfirstq⟩ := shuffle_first (key := key) (epoch := epoch) hn hq
    rw [hk, hm] at heq
    cases Nat.le_total k m with
    | inl hle => exact shuffle_inj_of_le hn hp hq hle heq hfirstq
    | inr hle => exact (shuffle_inj_of_le hn hq hp hle heq.symm hfirstp).symm

end Sys2Proof.Proofs
end

section
/-! SUPPORT. The raising of a fault (R268, R400, R502): the record that it fills, the words and parts of the state that it leaves,
and the polders that it stops. -/

namespace Sys2Proof.Proofs

open Sys2Proof.Machine Sys2Proof.Laws

/-! Words of the fault record, which no event of a page changes. -/

section
variable (s : State) {p m x : Nat} (hx : x < 0x20)
include hx

theorem word_wr_above (f : FieldSpec) (ix : List Nat) (v : Nat) (hlo : 0x20 ≤ f.off ix) (hhi : f.off ix < 4096) :
    (s.wr p f ix v).word m x = s.word m x :=
  word_wr_of_ne s f ix v rfl hhi (by omega) (by omega)

theorem low_word_toHost (msg : HostMsg) : (s.toHost msg).word m x = s.word m x := by
  unfold State.toHost
  split
  · rfl
  · exact word_wr_above s hx Reg.Cxl.LINK_DROPPED [] _ (by decide) (by decide)

theorem low_word_irqEdge (t : State) : (s.irqEdge p t).word m x = t.word m x := by
  unfold State.irqEdge
  split
  · exact low_word_toHost t hx _
  · rfl

theorem low_word_eventOne (code n : Nat) {i : Nat} (hi : i < 8) : (s.eventOne p code n i).word m x = s.word m x := by
  have cntOff (j : Nat) : Reg.Common.EVCNT.off [j] = 0x40 + 4 * j := by simp [FieldSpec.off, Reg.Common.EVCNT]
  have ovfOff : Reg.Common.EVSEL_OVF.off [i] = 0x20 + 4 * i := by simp [FieldSpec.off, Reg.Common.EVSEL_OVF]
  have cnt (t : State) (j v : Nat) (hj : j < 16) : (t.wr p Reg.Common.EVCNT [j] v).word m x = t.word m x :=
    word_wr_above t hx _ _ _ (by rw [cntOff]; omega) (by rw [cntOff]; omega)
  have ovf (t : State) (v : Nat) : (t.wr p Reg.Common.EVSEL_OVF [i] v).word m x = t.word m x :=
    word_wr_above t hx _ _ _ (by omega) (by omega)
  unfold State.eventOne
  dsimp only
  split
  · split
    · rw [low_word_irqEdge _ hx, word_wr_above _ hx Reg.Common.OVF [] _ (by decide) (by decide), ovf, cnt _ _ _ (by omega),
        cnt _ _ _ (by omega)]
    · rw [cnt _ _ _ (by omega), cnt _ _ _ (by omega)]
  · rfl

theorem low_word_event (code n : Nat) : (s.event p code n).word m x = s.word m x := by
  unfold State.event
  split
  · rfl
  · exact foldl_keeps (·.word m x) _ _ _ fun t i hi => low_word_eventOne t hx code n (List.mem_range.mp hi)

end

/-! The record (R502). -/

/-- The first word of the record that fault `f` fills. -/
def recordWord (s : State) (f : FaultRec) : Nat :=
  f.code + f.engine * 2 ^ 8 + f.core % 8 * 2 ^ 12 + f.unit % 32 * 2 ^ 15 + bit (s.isPrimary f.page) * 2 ^ 28 + bit f.lone * 2 ^ 29
    + 2 ^ 31

theorem word_fillRecord_self (s : State) (f : FaultRec) :
    (s.fillRecord f).word f.page 0x010 = BitVec.ofNat 32 (recordWord s f) := by
  unfold State.fillRecord
  dsimp only
  rw [low_word_irqEdge _ (by decide), low_word_event _ (by decide),
    word_wr_above _ (by decide) Reg.Common.FAULT_080 [] _ (by decide) (by decide),
    word_wr_of_ne _ Reg.Common.FAULT_008 [] _ (b := 0x008) rfl (by decide) (by decide) (by omega),
    word_setWord_at _ _ (by decide) (by decide) (by decide) (by decide), if_neg (by omega),
    word_setWord_at _ _ (by decide) (by decide) (by decide) (by decide), if_neg (by omega),
    word_setWord_at _ _ (by decide) (by decide) (by decide) (by decide), if_neg (by omega), word_setWord_self]
  rfl

theorem word_fillRecord (s : State) (f : FaultRec) {m x : Nat} (h : EventLeaves f.page m x) :
    (s.fillRecord f).word m x = s.word m x := by
  have kept (t : State) (o : Nat) (v : Word) (ho : o < 0x100) : (t.setWord f.page o v).word m x = t.word m x := by
    obtain ⟨hx, hpage, -⟩ := h
    refine (word_setWord ..).trans (if_neg fun e => hpage ?_)
    obtain ⟨hm, hword⟩ := (regKey_inj hx (by omega)).mp e
    exact ⟨hm, by omega⟩
  unfold State.fillRecord
  dsimp only
  rw [word_irqEdge _ _ _ h, word_event _ _ _ h, word_wr_common _ h _ _ _ (by decide), word_wr_common _ h _ _ _ (by decide),
    kept _ _ _ (by decide), kept _ _ _ (by decide), kept _ _ _ (by decide), kept _ _ _ (by decide)]

theorem onlyRegsAndHost_fillRecord (s : State) (f : FaultRec) : OnlyRegsAndHost s (s.fillRecord f) := by
  unfold State.fillRecord
  dsimp only
  refine (OnlyRegs.onlyRegsAndHost ?_).trans ((onlyRegsAndHost_event _ _ _ _).trans (onlyRegsAndHost_irqEdge s _ _))
  exact (onlyRegs_setWord s _ _ _).trans ((onlyRegs_setWord _ _ _ _).trans ((onlyRegs_setWord _ _ _ _).trans
    ((onlyRegs_setWord _ _ _ _).trans ((onlyRegs_wr _ _ _ _ _).trans (onlyRegs_wr _ _ _ _ _)))))

/-- CODE and VALID of a record. -/
theorem recordWord_reads (s : State) {f : FaultRec} (hcode : f.code < 256) (hengine : f.engine < 16) :
    (BitVec.ofNat 32 (recordWord s f)).toNat % 256 = f.code ∧
      bits (BitVec.ofNat 32 (recordWord s f)).toNat Reg.Common.FC_VALID.hi Reg.Common.FC_VALID.lo = 1 := by
  have bit_le (b : Bool) : bit b ≤ 1 := by cases b <;> decide
  have primary := bit_le (s.isPrimary f.page)
  have lone := bit_le f.lone
  have small : recordWord s f < 2 ^ 32 := by
    unfold recordWord
    omega
  rw [BitVec.toNat_ofNat, Nat.mod_eq_of_lt small]
  simp only [bits, Reg.Common.FC_VALID, recordWord]
  omega

/-! The polders that stop (R400). -/

/-- A polder's step that is marked stays marked. -/
theorem fault_markFaults {d : List (Nat × Nat)} (ps : List Nat) {s : State} {n : Nat} (hn : n < s.polders.length)
    (h : n ∈ ps ∨ (s.polder n).fault = true) : ((ps.foldl (fun t p => t.markFault p d) s).polder n).fault = true := by
  induction ps generalizing s with
  | nil => exact h.resolve_left List.not_mem_nil
  | cons p ps ih =>
    refine ih (s := s.markFault p d) (by simpa [State.markFault, State.setPolder] using hn) ?_
    by_cases hp : n = p
    · refine .inr ?_
      subst hp
      simp [State.markFault, State.setPolder, State.polder, hn]
    · refine h.imp (fun hmem => (List.mem_cons.mp hmem).resolve_left hp) fun hfault => ?_
      simpa [State.markFault, State.setPolder, State.polder, List.getElem?_set_ne (Ne.symm hp)] using hfault

theorem markFaults_frame {d : List (Nat × Nat)} (ps : List Nat) (s : State) :
    { ps.foldl (fun t p => t.markFault p d) s with polders := s.polders } = s := by
  induction ps generalizing s with
  | nil => rfl
  | cons p ps ih => exact congrArg (fun t : State => { t with polders := s.polders }) (ih (s.markFault p d))

/-! A fault raised. -/

/-- The primary fault of the SCLK so far is one no longer where page `pg` comes before it (R268). -/
def demoted (s : State) (pg : Nat) : State :=
  match s.faultAt with
  | some (t, q) => if t = s.timestamp ∧ s.isPrimary pg then s.wr q Reg.Common.FC_PRIMARY [] 0 else s
  | none => s

/-- The record of `f`, or MULTI where the page holds one. -/
def recorded (s : State) (f : FaultRec) : State :=
  if s.rd f.page Reg.Common.FC_VALID = 1 then (demoted s f.page).wr f.page Reg.Common.FC_MULTI [] 1
  else (demoted s f.page).fillRecord f

/-- The place of the primary fault. -/
def notedAt (s : State) (f : FaultRec) (t : State) : State :=
  if s.isPrimary f.page then { t with faultAt := some (s.timestamp, f.page) } else t

theorem raise_eq (s : State) (f : FaultRec) :
    s.raise f = (s.faultPolders f).foldl (fun t p => t.markFault p f.down) (notedAt s f (recorded s f)) := rfl

theorem demoted_cases (s : State) (pg : Nat) : demoted s pg = s ∨ ∃ q, demoted s pg = s.wr q Reg.Common.FC_PRIMARY [] 0 := by
  unfold demoted
  split
  · split
    · exact .inr ⟨_, rfl⟩
    · exact .inl rfl
  · exact .inl rfl

theorem onlyRegs_demoted (s : State) (pg : Nat) : OnlyRegs s (demoted s pg) := by
  obtain h | ⟨q, h⟩ := demoted_cases s pg <;> rw [h]
  · exact .refl s
  · exact onlyRegs_wr s _ _ _ _

theorem onlyRegsAndHost_recorded (s : State) (f : FaultRec) : OnlyRegsAndHost s (recorded s f) := by
  have before := (onlyRegs_demoted s f.page).onlyRegsAndHost
  unfold recorded
  split
  · exact before.trans (onlyRegs_wr _ _ _ _ _).onlyRegsAndHost
  · exact before.trans (onlyRegsAndHost_fillRecord _ f)

theorem notedAt_frame (s : State) (f : FaultRec) (t : State) : { notedAt s f t with faultAt := t.faultAt } = t := by
  unfold notedAt
  split <;> rfl

/-- A state that differs from another at most in what a fault changes. -/
def OnlyFault (s t : State) : Prop :=
  { t with regs := s.regs, hostOut := s.hostOut, faultAt := s.faultAt, polders := s.polders } = s

theorem OnlyFault.mem {s t : State} (h : OnlyFault s t) : t.mem = s.mem := (congrArg State.mem h :)

theorem OnlyFault.chans {s t : State} (h : OnlyFault s t) : t.chans = s.chans := (congrArg State.chans h :)

theorem OnlyFault.chan {s t : State} (h : OnlyFault s t) (c : Nat) : t.chan c = s.chan c := (congrArg (State.chan · c) h :)

theorem onlyFault_raise (s : State) (f : FaultRec) : OnlyFault s (s.raise f) := by
  have record := onlyRegsAndHost_recorded s f
  have noted := notedAt_frame s f (recorded s f)
  have marked := markFaults_frame (d := f.down) (s.faultPolders f) (notedAt s f (recorded s f))
  rw [← raise_eq] at marked
  unfold OnlyFault
  calc ({ s.raise f with regs := s.regs, hostOut := s.hostOut, faultAt := s.faultAt, polders := s.polders } : State)
    _ = { notedAt s f (recorded s f) with
          regs := s.regs, hostOut := s.hostOut, faultAt := s.faultAt, polders := s.polders } :=
        congrArg (fun t : State =>
          { t with regs := s.regs, hostOut := s.hostOut, faultAt := s.faultAt, polders := s.polders }) marked
    _ = { recorded s f with regs := s.regs, hostOut := s.hostOut, faultAt := s.faultAt, polders := s.polders } :=
        congrArg (fun t : State =>
          { t with regs := s.regs, hostOut := s.hostOut, faultAt := s.faultAt, polders := s.polders }) noted
    _ = s := congrArg (fun t : State => { t with faultAt := s.faultAt, polders := s.polders }) record

/-- The words of a raised fault are those of its record. -/
theorem word_raise_eq (s : State) (f : FaultRec) (m x : Nat) : (s.raise f).word m x = (recorded s f).word m x := by
  have marked := congrArg (State.word · m x) (markFaults_frame (d := f.down) (s.faultPolders f) (notedAt s f (recorded s f)))
  have noted := congrArg (State.word · m x) (notedAt_frame s f (recorded s f))
  rw [raise_eq]
  exact marked.trans noted

/-- From offset 0x100 on a fault changes no word but the count of messages that the link dropped. -/
theorem word_raise (s : State) (f : FaultRec) {m x : Nat} (hx : 0x100 ≤ x) (h : EventLeaves f.page m x) :
    (s.raise f).word m x = s.word m x := by
  have before : (demoted s f.page).word m x = s.word m x := by
    obtain hd | ⟨q, hd⟩ := demoted_cases s f.page <;> rw [hd]
    exact word_wr_of_ne s Reg.Common.FC_PRIMARY [] 0 (b := 0x010) rfl (by decide) h.1 (by omega)
  rw [word_raise_eq, ← before, recorded]
  split
  · exact word_wr_common _ h Reg.Common.FC_MULTI [] 1 (by decide)
  · exact word_fillRecord _ f h

/-- The first fault of a page fills the record with its CODE (R502). -/
theorem raise_records (s : State) {f : FaultRec} (h : s.rd f.page Reg.Common.FC_VALID = 0) (hcode : f.code < 256)
    (hengine : f.engine < 16) : (s.raise f).rd f.page Reg.Common.FC_VALID = 1 ∧
      ((s.raise f).word f.page 0x010).toNat % 256 = f.code := by
  have record : (s.raise f).word f.page 0x010 = BitVec.ofNat 32 (recordWord (demoted s f.page) f) := by
    rw [word_raise_eq, recorded, if_neg (by omega), word_fillRecord_self]
  obtain ⟨code, valid⟩ := recordWord_reads (demoted s f.page) hcode hengine
  refine ⟨?_, by rw [record, code]⟩
  rw [State.rd, show Reg.Common.FC_VALID.off [] = 0x010 from rfl, record, valid]

/-- A fault stops its polders (R400). -/
theorem raise_stops (s : State) (f : FaultRec) {n : Nat} (hn : n ∈ s.faultPolders f) (hlen : n < s.polders.length) :
    ((s.raise f).polder n).fault = true := by
  have kept : (notedAt s f (recorded s f)).polders = s.polders :=
    (congrArg State.polders (notedAt_frame s f (recorded s f)) :).trans (congrArg State.polders (onlyRegsAndHost_recorded s f) :)
  rw [raise_eq]
  exact fault_markFaults _ (kept ▸ hlen) (.inl hn)

end Sys2Proof.Proofs
end

section
/-! SUPPORT. The ingest commands (R204, R211, R216, R222, R224, R242, R243, R265): what a frame's count, a stopped channel, a slice
without replay and a probe change, and the statement about them. -/

namespace Sys2Proof.Proofs

open Sys2Proof.Machine Sys2Proof.Laws

/-! Counts of a page of the hub. -/

theorem onlyRegsAndHost_count (s : State) (p : Nat) (f : FieldSpec) (ix : List Nat) (n : Nat) :
    OnlyRegsAndHost s (s.count p f ix n) :=
  (onlyRegs_wr s p f ix _).onlyRegsAndHost.trans (onlyRegsAndHost_event _ _ _ _)

theorem OnlyRegsAndHost.chans {s t : State} (h : OnlyRegsAndHost s t) : t.chans = s.chans := (congrArg State.chans h :)

theorem OnlyRegsAndHost.batches {s t : State} (h : OnlyRegsAndHost s t) : t.batches = s.batches := (congrArg State.batches h :)

/-- The words from 0x100 on of a page other than CXL are no event's. -/
theorem eventLeaves_own {p x : Nat} (hp : p ≠ Pg.cxl) (hx : 0x100 ≤ x) (hx' : x < 4096) : EventLeaves p p x :=
  ⟨hx', fun h => absurd h.2 (by omega), fun h => hp h.1⟩

theorem ingest_ne_cxl (p : Nat) : Pg.ingest p ≠ Pg.cxl := by
  unfold Pg.ingest Pg.cxl
  omega

/-- What a count of an ingest port shows, and what it leaves. -/
theorem count_ingest (s : State) (p : Nat) (f : FieldSpec) (hl : f.lo ≤ f.hi) (hh : f.hi < 32) (hlo : 0x100 ≤ f.off [])
    (hhi : f.off [] < 4096) :
    (s.count (Pg.ingest p) f [] 1).rd (Pg.ingest p) f = min (s.rd (Pg.ingest p) f + 1) (2 ^ f.width - 1) ∧
      (s.count (Pg.ingest p) f [] 1).mem = s.mem ∧ (s.count (Pg.ingest p) f [] 1).chans = s.chans :=
  ⟨rd_count s 1 hl hh (eventLeaves_own (ingest_ne_cxl p) hlo hhi), mem_count .., (onlyRegsAndHost_count ..).chans⟩

/-! BATCH_DESCRIPTOR (R204, R243). -/

/-- Address of the descriptor at the ingest queue's head (R204). -/
def batchAddr (s : State) : Nat :=
  s.rd2 Pg.wharf Reg.Wharf.IQ_BASE_LO Reg.Wharf.IQ_BASE_HI + 128 * s.rd Pg.wharf Reg.Wharf.IQ_HEAD

section
variable {s : State} (hstill : s.still = false) (hgranted : .sequencer ∈ s.granted)
  (hread : s.hubReadStop seqGrantee (batchAddr s) 128 false = none)
include hstill hgranted hread

theorem exec_batchDescriptor_unit :
    exec (.batchDescriptor .unit) s = .next (s.takeBatch.ingestFault 0x49 0 (batchAddr s)) := by
  change execBatchDescriptor s .unit = _
  have taken := List.contains_iff_mem.mpr hgranted
  unfold batchAddr at hread ⊢
  simp only [execBatchDescriptor, hstill, taken, hread, State.sequencerHw, Bool.not_true, Bool.or_self, Bool.false_eq_true,
    if_false]

/-- The taking of a descriptor changes neither the batches nor the Towpath ordinals. -/
theorem exec_batchDescriptor_taken {p : Nat} (hok : batchOk (s.bytesAt (batchAddr s) 128) = true)
    (hpolder : s.polderHolding (batchDesc (s.bytesAt (batchAddr s) 128)).pbase = some p)
    (hpatch : s.hubReadStop seqGrantee (batchDesc (s.bytesAt (batchAddr s) 128)).pdesc 64 false = none) :
    let d := s.bytesAt (batchAddr s) 128
    let x := batchDesc d
    let t := s.takeBatch.setTow p { s.tow p with drawn := (s.tow p).drawn + x.nsamp + 1 }
    let b : Batch := ⟨s.ids, s.rd Pg.wharf Reg.Wharf.IQ_HEAD, d, s.bytesAt x.pdesc 64, p, s.runKey p, (s.tow p).drawn, [], 0⟩
    let u : State := { t with batches := s.batches ++ [b], ids := s.ids + 1 }
    exec (.batchDescriptor .none) s =
      .next ((u.ingestTraffic 15 0 p false (batchAddr s) 128).ingestTraffic 15 0 p false x.pdesc 64).assignAll := by
  change execBatchDescriptor s .none = _
  have taken := List.contains_iff_mem.mpr hgranted
  unfold batchAddr at hread hok hpolder hpatch ⊢
  simp only [execBatchDescriptor, hstill, taken, hread, hok, hpolder, hpatch, Bool.not_true, Bool.or_self, Bool.false_eq_true,
    if_false]
  rfl

end

/-! Frames (R211, R265). -/

section
variable {s : State} {p : Nat} {f dg : List Byte}

theorem exec_frame {p : IngestPort} {i : Instr} (hi : i = .wharfData p f ∨ i = .wharfFail p f ∨ i = .frameDropped p f) :
    exec i s = .next (s.frameIn p f) := by
  obtain rfl | rfl | rfl := hi <;> rfl

theorem frameIn_bad (h : s.frameFate p f = .bad) (hf : s.frozen = false) :
    s.frameIn p f = s.count (Pg.ingest p) Reg.Ingest.RX_BAD [] 1 := by
  simp only [State.frameIn, h, hf, Bool.false_eq_true, if_false]

theorem frameIn_filter (h : s.frameFate p f = .filter) (hf : s.frozen = false) :
    s.frameIn p f = s.count (Pg.ingest p) Reg.Ingest.RX_FILTER [] 1 := by
  simp only [State.frameIn, h, hf, Bool.false_eq_true, if_false]

theorem frameIn_accept (h : s.frameFate p f = .accept dg) (hs : s.still = false) : s.frameIn p f = s.datagramIn p dg := by
  simp only [State.frameIn, h, hs, Bool.not_false, if_true]

theorem frameIn_waits (h : s.frameFate p f = .accept dg) (hs : s.still = true) (hroom : s.ingestHeld p + f.length ≤ 2097152) :
    s.frameIn p f = { s with ingestRx := s.ingestRx ++ [(p, f)] } := by
  simp only [State.frameIn, h, hs, Nat.not_lt.mpr hroom, Bool.not_true, Bool.false_eq_true, if_false]

theorem frameIn_full (h : s.frameFate p f = .accept dg) (hs : s.still = true) (hfull : 2097152 < s.ingestHeld p + f.length) :
    s.frameIn p f = s := by
  simp only [State.frameIn, h, hs, hfull, Bool.not_true, Bool.false_eq_true, if_false, if_true]

/-- A datagram without a Wharf header is stray, whatever its TYPE. -/
theorem datagramIn_stray (h : (wharfHdr dg).ok = false) :
    s.datagramIn p dg = (s.count (Pg.ingest p) Reg.Ingest.RX_ACCEPT [] 1).stray p := by
  unfold State.datagramIn
  dsimp only
  split
  · simp only [State.wharfFail, h, Bool.false_and, Bool.false_eq_true, if_false]
  · simp only [State.wharfData, h, Bool.false_and, Bool.false_eq_true, if_false]

theorem datagramIn_stray_shows (s : State) (p : Nat) (h : (wharfHdr dg).ok = false) :
    (s.datagramIn p dg).rd (Pg.ingest p) Reg.Ingest.STRAY =
        min (s.rd (Pg.ingest p) Reg.Ingest.STRAY + 1) (2 ^ Reg.Ingest.STRAY.width - 1) ∧
      (s.datagramIn p dg).chans = s.chans ∧ (s.datagramIn p dg).mem = s.mem := by
  obtain ⟨-, hmem, hchans⟩ := count_ingest s p Reg.Ingest.RX_ACCEPT (by decide) (by decide) (by decide) (by decide)
  obtain ⟨hstray, hmem', hchans'⟩ := count_ingest (s.count (Pg.ingest p) Reg.Ingest.RX_ACCEPT [] 1) p Reg.Ingest.STRAY
    (by decide) (by decide) (by decide) (by decide)
  have before : (s.count (Pg.ingest p) Reg.Ingest.RX_ACCEPT [] 1).rd (Pg.ingest p) Reg.Ingest.STRAY
      = s.rd (Pg.ingest p) Reg.Ingest.STRAY := by
    rw [State.rd, State.rd, word_count s 1 (by decide) (eventLeaves_own (ingest_ne_cxl p) (by decide) (by decide))
      fun e => absurd e.2 (by decide)]
  rw [before] at hstray
  rw [datagramIn_stray h]
  exact ⟨hstray, hchans'.trans hchans, hmem'.trans hmem⟩

theorem frameFate_bad (h : 9216 < f.length ∨ fcsOk f = false) : s.frameFate p f = .bad := by
  unfold State.frameFate
  exact if_pos (h.imp_right fun hf => by rw [hf, Bool.not_false])

theorem frameFate_filter (hlen : f.length ≤ 9216) (hfcs : fcsOk f = true)
    (hmac : beNat (f.take 6) ≠ macOf (s.rd (Pg.ingest p) Reg.Ingest.MAC_HI) (s.rd (Pg.ingest p) Reg.Ingest.MAC_LO)) :
    s.frameFate p f = .filter := by
  unfold State.frameFate
  dsimp only
  have judged : ¬ (9216 < f.length ∨ (!fcsOk f) = true) := by
    rw [hfcs]
    exact fun h => h.elim (Nat.not_lt.mpr hlen) Bool.false_ne_true
  rw [if_neg judged, if_pos (by rwa [List.drop_zero])]

end

/-! RTO_EXPIRY (R216). -/

section
variable {s : State} {c : Nat} {x : Chan}

theorem chan_setChan (k : Nat) : (s.setChan c x).chan k = if k = c then some x else s.chan k :=
  sget_sset (fun _ => none) s.chans c k (some x)

/-- A channel whose sample is stopped keeps it, without READs. -/
theorem chan_failChan (h : s.chan c = some x) (k : Nat) :
    (s.failChan c).chan k = if k = c then some { x with failed := true, reads := [], todo := [] } else s.chan k := by
  unfold State.failChan
  rw [h]
  exact chan_setChan (s := s.disarmOut c) k

theorem failChan_frame (s : State) (c : Nat) : { s.failChan c with hubCmp := s.hubCmp, chans := s.chans } = s := by
  unfold State.failChan
  split <;> rfl

end

/-- The WHARF_TIMEOUT of READ `r` of channel `c`, at the first byte of its range that has not arrived (R216). -/
def timeoutFault (c : Nat) (x : Chan) (b : Batch) (r : Read) : FaultRec :=
  ⟨Pg.ingest r.port, 0x47, 10, 0, c % 32, noPc, ((sampleEntry x.entry).off
    + ((missingRuns r (maxData (batchDesc b.desc).buflog)).head?.map (·.1)).getD r.off) % 2 ^ 48, none, false⟩

section
variable {s : State} {c : ChannelId} {tag : Nat} {x : Chan} {b : Batch} {r : Read} (hf : s.frozen = false)
  (hx : s.chan c = some x) (hb : s.batchOf x = some b) (hr : (x.reads.find? fun r => r.tag == tag) = some r)
include hf hx hb hr

theorem exec_rtoExpiry_again (h : r.tries ≤ s.rd Pg.wharf Reg.Wharf.RETRY_MAX) :
    exec (.rtoExpiry c tag) s = .next ((s.setChan c { x with
      reads := x.reads.filter fun q => q.tag != tag
      todo := x.todo ++ (missingRuns r (maxData (batchDesc b.desc).buflog)).map fun e => (e.1, e.2, r.tries) }).sendReads c 8) := by
  change execRtoExpiry c tag s = _
  simp only [execRtoExpiry, hf, hx, hb, hr, Nat.not_lt.mpr h, Bool.false_eq_true, if_false]

/-- The sample of a READ that has had its tries is stopped with WHARF_TIMEOUT in the port's page. -/
theorem exec_rtoExpiry_over (h : s.rd Pg.wharf Reg.Wharf.RETRY_MAX < r.tries) :
    exec (.rtoExpiry c tag) s = .next
      (((s.setChan c { x with reads := x.reads.filter fun q => q.tag != tag }).failChan c).raise (timeoutFault c x b r)) := by
  change execRtoExpiry c tag s = _
  simp only [execRtoExpiry, timeoutFault, hf, hx, hb, hr, h, Bool.false_eq_true, if_false, if_true]

end

/-- A READ's timeout names no polder, so that every polder stops (R400). -/
theorem faultPolders_timeout {s : State} {c : Nat} {x : Chan} {b : Batch} {r : Read} (hport : r.port < 2) :
    s.faultPolders (timeoutFault c x b r) = List.range s.npolders := by
  have page : ¬ 0x100 ≤ Pg.ingest r.port := by
    unfold Pg.ingest
    omega
  simp only [State.faultPolders, timeoutFault, page, Bool.false_eq_true, if_false]

/-- The READ's last try has expired: its sample is stopped, the port's page records WHARF_TIMEOUT, and every polder stops. -/
theorem rtoExpiry_stops {s : State} {c : ChannelId} {tag : Nat} {x : Chan} {b : Batch} {r : Read} (hf : s.frozen = false)
    (hx : s.chan c = some x) (hb : s.batchOf x = some b) (hr : (x.reads.find? fun r => r.tag == tag) = some r)
    (htries : s.rd Pg.wharf Reg.Wharf.RETRY_MAX < r.tries) (hport : r.port < 2)
    (hvalid : s.rd (Pg.ingest r.port) Reg.Common.FC_VALID = 0) :
    ∃ t, exec (.rtoExpiry c tag) s = .next t ∧ t.chan c = some { x with failed := true, reads := [], todo := [] } ∧
      (∀ k, k ≠ c.val → t.chan k = s.chan k) ∧ t.rd (Pg.ingest r.port) Reg.Common.FC_VALID = 1 ∧
      (t.word (Pg.ingest r.port) 0x010).toNat % 256 = 0x47 ∧
      (∀ n, n < s.npolders → n < s.polders.length → (t.polder n).fault = true) ∧ t.mem = s.mem := by
  have own : (s.setChan c { x with reads := x.reads.filter fun q => q.tag != tag }).chan c
      = some { x with reads := x.reads.filter fun q => q.tag != tag } := (chan_setChan _).trans (if_pos rfl)
  refine ⟨_, exec_rtoExpiry_over hf hx hb hr htries, ?_⟩
  generalize hv : (s.setChan c { x with reads := x.reads.filter fun q => q.tag != tag }).failChan c = v
  have kept : { v with hubCmp := s.hubCmp, chans := s.chans } = s := by
    rw [← hv]
    exact congrArg (fun t : State => { t with hubCmp := s.hubCmp, chans := s.chans }) (failChan_frame _ c)
  have chan (k : Nat) : v.chan k = if k = c then some { x with failed := true, reads := [], todo := [] } else s.chan k := by
    rw [← hv, chan_failChan own]
    split
    · rfl
    · next hk => exact (chan_setChan k).trans (if_neg hk)
  have fault := onlyFault_raise v (timeoutFault c x b r)
  have valid : v.rd (Pg.ingest r.port) Reg.Common.FC_VALID = 0 :=
    (congrArg (State.rd · (Pg.ingest r.port) Reg.Common.FC_VALID) kept :).trans hvalid
  obtain ⟨shown, code⟩ := raise_records v (f := timeoutFault c x b r) valid (show 0x47 < 256 by decide) (show 10 < 16 by decide)
  refine ⟨(fault.chan c).trans ((chan c).trans (if_pos rfl)), fun k hk => (fault.chan k).trans ((chan k).trans (if_neg hk)),
    shown, code, fun n hn hlen => raise_stops v _ ?_ ?_, fault.mem.trans (congrArg State.mem kept :)⟩
  · rw [faultPolders_timeout hport, List.mem_range]
    exact Nat.lt_of_lt_of_eq hn (congrArg State.npolders kept :).symm
  · exact Nat.lt_of_lt_of_eq hlen (congrArg (fun t : State => t.polders.length) kept :).symm

/-! The entropy engines (R222). -/

/-- Outside replay no channel of the unit takes its bytes from records. -/
theorem replayUnit_of_recording {s : State} (h : ∀ b ∈ s.batches, s.towMode b.pol ≠ 3) (u : Nat) : s.replayUnit u = s := by
  refine foldl_of_fixed (fun i => ?_) _
  dsimp only
  split
  · rfl
  · split
    · rfl
    · next b hb => exact if_pos (.inl (h b (List.mem_of_find?_eq_some hb)))

section
variable (s : State) (p : Nat) (f : FieldSpec) (ix : List Nat) (n c : Nat) (x : Chan)

@[simp] theorem chan_count : (s.count p f ix n).chan c = s.chan c := by
  rw [State.chan, (onlyRegsAndHost_count s p f ix n).chans, State.chan]

@[simp] theorem batchOf_count : (s.count p f ix n).batchOf x = s.batchOf x := by
  rw [State.batchOf, (onlyRegsAndHost_count s p f ix n).batches, State.batchOf]

theorem chan_entropyAt (e : Sparse Nat) : ({ s with entropyAt := e } : State).chan c = s.chan c := rfl

theorem batchOf_entropyAt (e : Sparse Nat) : ({ s with entropyAt := e } : State).batchOf x = s.batchOf x := rfl

theorem reedbedHw_none (a : Nat) : s.reedbedHw c a .none = none := rfl

theorem noteHw_none (a : Nat) : s.noteHw a .none = s := rfl

end

section
variable {s : State} {u : ReedbedId} (hstill : s.still = false) (hmode : ∀ b ∈ s.batches, s.towMode b.pol ≠ 3)
include hstill hmode

theorem exec_entropyTimeSlice_none (h : s.entropyNext u = none) : exec (.entropyTimeSlice u .none) s = .next s.assignAll := by
  change execEntropyTimeSlice u .none s = _
  simp only [execEntropyTimeSlice, hstill, replayUnit_of_recording hmode, h, Bool.false_eq_true, if_false]

theorem exec_entropyTimeSlice_some {c : Nat} {x : Chan} {b : Batch} (h : s.entropyNext u = some c) (hx : s.chan c = some x)
    (hb : s.batchOf x = some b) :
    let t := ({ s with entropyAt := sset (fun _ => 31) s.entropyAt u (c % 32) } : State).count (Pg.die (u.val / 4))
      Reg.Die.SLICES [u.val % 4] 1
    exec (.entropyTimeSlice u .none) s = .next (if x.dec then t.nextPicture c x b else t.consume c x b).assignAll := by
  change execEntropyTimeSlice u .none s = _
  simp only [execEntropyTimeSlice, hstill, replayUnit_of_recording hmode, h, chan_count, chan_entropyAt, hx, batchOf_count,
    batchOf_entropyAt, hb, reedbedHw_none, noteHw_none, Bool.false_eq_true, if_false]

end

/-! A picture's output turn (R224). -/

section
variable {s : State} {c : ChannelId} {x : Chan} {b : Batch} {p : Pic} (hstill : s.still = false) (hx : s.chan c = some x)
  (hb : s.batchOf x = some b) (hp : x.pics.head? = some p) (hfail : x.failed = false) (hover : x.isOver = false)
  (hheld : s.writesHeld ((batchDesc b.desc).slotAt c p.slot) (batchDesc b.desc).picb = false)
include hstill hx hb hp hfail hover hheld

theorem exec_pictureComplete : exec (.pictureComplete c .none) s = .next (s.runPicture c x b p) := by
  change execPictureComplete c .none s = _
  simp only [execPictureComplete, hstill, hx, hb, hp, hfail, hover, hheld, Bool.or_self, Bool.false_eq_true, if_false]
  rfl

end

/-- A picture that is used, with the unit's comparator free, arms its stream over its planes first. -/
theorem runPicture_arms {s : State} {c : Nat} {x : Chan} {p : Pic} (b : Batch) (huses : x.uses p.k ≠ [])
    (hout : s.outArmed c = false) (hunit : s.unitArmed c = false) :
    let f := x.picture (batchDesc b.desc) p.k
    let r := bounding ((batchDesc b.desc).slotAt c p.slot) (pictureSize f.w f.h f.depth) 0 0 0 0
    s.runPicture c x b p = { s with hubCmp := s.hubCmp ++ [(cmpReedbed c, r.1, r.2)] } := by
  simp only [State.runPicture, List.isEmpty_iff, huses, hout, hunit, Bool.not_false, Bool.false_eq_true, if_false, if_true]

/-! The permutation probe (R242, R243). -/

theorem exec_pqPos {s : State} (hs : Serving s) (hg : s.gather = []) (p : Word) (hw : HwErr) :
    exec (.pqPos p hw) s = .next (if hw = .unit then s.probeStopped else s.probe p.toNat) := by
  change execPqPos p s hw = _
  rw [execPqPos, written_of_drained hs hg]

/-- A probe shows its result and leaves the state, but for a free word that it may draw. -/
theorem probe_shows (s : State) (p : Nat) : (s.probe p).rd Pg.wharf Reg.Wharf.PQ_VALID = 1 ∧
    (p < s.rd Pg.wharf Reg.Wharf.PQ_NM1 + 1 → (s.probe p).rd Pg.wharf Reg.Wharf.PQ_OUT =
      shuffle (s.runKey 0) (s.rd Pg.wharf Reg.Wharf.PQ_EPOCH) (s.rd Pg.wharf Reg.Wharf.PQ_NM1 + 1) p % 2 ^ 32) ∧
    (s.probe p).mem = s.mem ∧ (s.probe p).chans = s.chans := by
  have result (t : State) (v : Nat) :
      ((t.wr Pg.wharf Reg.Wharf.PQ_OUT [] v).wr Pg.wharf Reg.Wharf.PQ_VALID [] 1).rd Pg.wharf Reg.Wharf.PQ_OUT = v % 2 ^ 32 :=
    (rd_wr_word_ne _ _ _ _ _ _ _ _ (by decide)).trans (rd_wr_self _ _ _ _ _ (by decide) (by decide))
  unfold State.probe
  dsimp only
  refine ⟨rd_wr_self _ _ _ _ _ (by decide) (by decide), fun hp => ?_, ?_, ?_⟩
  · rw [if_pos hp, result]
  · split <;> rfl
  · split <;> rfl

/-- A stopped probe shows no result, and the Wharf page records the permutation unit's error (log entry 32). -/
theorem probeStopped_shows (s : State) : s.probeStopped.rd Pg.wharf Reg.Wharf.PQ_VALID = 0 ∧
    (s.rd Pg.wharf Reg.Common.FC_VALID = 0 → s.probeStopped.rd Pg.wharf Reg.Common.FC_VALID = 1 ∧
      (s.probeStopped.word Pg.wharf 0x010).toNat % 256 = 0x49) ∧
    s.probeStopped.mem = s.mem ∧ s.probeStopped.chans = s.chans := by
  have stopped : s.probeStopped
      = (s.wr Pg.wharf Reg.Wharf.PQ_VALID [] 0).raise ⟨Pg.wharf, 0x49, 10, 0, 0, noPc, 0, none, false⟩ := rfl
  have valid : (s.wr Pg.wharf Reg.Wharf.PQ_VALID [] 0).rd Pg.wharf Reg.Common.FC_VALID = s.rd Pg.wharf Reg.Common.FC_VALID :=
    rd_wr_word_ne _ _ _ _ _ _ _ _ (by decide)
  rw [stopped]
  have fault := onlyFault_raise (s.wr Pg.wharf Reg.Wharf.PQ_VALID [] 0) ⟨Pg.wharf, 0x49, 10, 0, 0, noPc, 0, none, false⟩
  refine ⟨?_, fun h => raise_records _ (valid.trans h) (by decide) (by decide), fault.mem, fault.chans⟩
  rw [State.rd, word_raise _ _ (by decide) (eventLeaves_own (by decide) (by decide) (by decide))]
  exact rd_wr_self s _ _ _ _ (by decide) (by decide)

/-- Settles O45: each command's meaning in its case, with what a count, a stopped channel and a fault leave. That a permutation
unit's error stands in the Wharf page is the model's choice (log entry 32). -/
theorem ingestCommandsAct : Obligations.IngestCommandsAct := by
  unfold Obligations.IngestCommandsAct
  refine ⟨fun s p hstill hgranted hread => ⟨?_, fun hok hpolder hpatch => ?_⟩, fun s p f i hi => ?_,
    fun s p f => ⟨frameFate_bad, frameFate_filter⟩, fun s c tag x b r hf hx hb hr => ⟨?_, ?_⟩,
    fun s u hstill hmode => ⟨?_, fun c x b h hx hb => ?_⟩, fun s c x b p hstill hx hb hp hfail hover hheld => ?_,
    fun s p hs hg => ⟨?_, ?_⟩⟩
  · -- BATCH_DESCRIPTOR
    exact exec_batchDescriptor_unit hstill hgranted hread
  · exact exec_batchDescriptor_taken hstill hgranted hread hok hpolder hpatch
  · -- WHARF_DATA, WHARF_FAIL and FRAME_DROPPED
    rw [exec_frame hi]
    refine ⟨fun h hf => ⟨_, congrArg _ (frameIn_bad h hf), ?_⟩, fun h hf => ⟨_, congrArg _ (frameIn_filter h hf), ?_⟩,
      fun dg h => ⟨fun hs => congrArg _ (frameIn_accept h hs),
        fun hs hok => ⟨_, congrArg _ (frameIn_accept h hs), datagramIn_stray_shows s p hok⟩,
        fun hs hroom => congrArg _ (frameIn_waits h hs hroom), fun hs hfull => congrArg _ (frameIn_full h hs hfull)⟩⟩
    · exact count_ingest s p Reg.Ingest.RX_BAD (by decide) (by decide) (by decide) (by decide)
    · exact count_ingest s p Reg.Ingest.RX_FILTER (by decide) (by decide) (by decide) (by decide)
  · -- RTO_EXPIRY
    exact exec_rtoExpiry_again hf hx hb hr
  · exact rtoExpiry_stops hf hx hb hr
  · -- ENTROPY_TIME_SLICE
    exact exec_entropyTimeSlice_none hstill hmode
  · exact exec_entropyTimeSlice_some hstill hmode h hx hb
  · -- PICTURE_COMPLETE
    have runs := exec_pictureComplete hstill hx hb hp hfail hover hheld
    exact ⟨runs, fun huses hout hunit => runs.trans (congrArg _ (runPicture_arms b huses hout hunit))⟩
  · -- PQ_POS
    exact ⟨_, exec_pqPos hs hg p .none, probe_shows s p.toNat⟩
  · exact ⟨_, exec_pqPos hs hg p .unit, probeStopped_shows s⟩

end Sys2Proof.Proofs
end

section
/-! SUPPORT. Lists of the landing unit (R276, R289): scans of a wait list, the operations of a host line, and the statement about
scans. -/

namespace Sys2Proof.Proofs

open Sys2Proof.Machine Sys2Proof.Laws

/-! Scans (R276). -/

/-- COUNT has reached a value waiter's threshold. -/
def reached (c : Word) (e : Nat × Waiter) : Bool := decide ((c - e.2.v).toNat < 2 ^ 31)

section
variable {c : Word} {e : Nat × Waiter} (r : List (Nat × Waiter))

theorem scanWaiters_value_free (hkind : e.2.claim = false) (h : reached c e = true) :
    scanWaiters c (e :: r) = ((scanWaiters c r).1, (scanWaiters c r).2.1, e.2 :: (scanWaiters c r).2.2) := by
  unfold reached at h
  simp only [scanWaiters, hkind, h, Bool.false_eq_true, if_false, if_true]

theorem scanWaiters_value_held (hkind : e.2.claim = false) (h : reached c e = false) :
    scanWaiters c (e :: r) = ((scanWaiters c r).1, e :: (scanWaiters c r).2.1, (scanWaiters c r).2.2) := by
  unfold reached at h
  simp only [scanWaiters, hkind, h, Bool.false_eq_true, if_false]

theorem scanWaiters_claim_free (hkind : e.2.claim = true) (hc : c.toNat < 2 ^ 31) (h : 1 ≤ c.toNat) :
    scanWaiters c (e :: r)
      = ((scanWaiters (c - 1) r).1, (scanWaiters (c - 1) r).2.1, e.2 :: (scanWaiters (c - 1) r).2.2) := by
  simp only [scanWaiters, hkind, hc, h, decide_true, Bool.and_self, if_true]

theorem scanWaiters_claim_held (hkind : e.2.claim = true) (h : c.toNat = 0) :
    scanWaiters c (e :: r) = ((scanWaiters c r).1, e :: (scanWaiters c r).2.1, (scanWaiters c r).2.2) := by
  have none_left : decide (1 ≤ c.toNat) = false := by simp [h]
  simp only [scanWaiters, hkind, none_left, Bool.false_and, Bool.false_eq_true, if_true, if_false]

end

theorem scanWaiters_values (c : Word) (ws : List (Nat × Waiter)) (h : ∀ e ∈ ws, e.2.claim = false) :
    scanWaiters c ws = (c, ws.filter (fun e => !reached c e), (ws.filter (reached c)).map (·.2)) := by
  induction ws with
  | nil => rfl
  | cons e r ih =>
    obtain ⟨hkind, hr⟩ := List.forall_mem_cons.mp h
    rcases Bool.eq_false_or_eq_true (reached c e) with free | held
    · rw [scanWaiters_value_free r hkind free, ih hr, List.filter_cons_of_neg (by simp [free]),
        List.filter_cons_of_pos free, List.map_cons]
    · rw [scanWaiters_value_held r hkind held, ih hr, List.filter_cons_of_pos (by simp [held]),
        List.filter_cons_of_neg (by simp [held])]

/-- Claimers take what there is of COUNT, one unit each. -/
theorem scanWaiters_claims (c : Word) (ws : List (Nat × Waiter)) (h : ∀ e ∈ ws, e.2.claim = true) (hc : c.toNat < 2 ^ 31) :
    (scanWaiters c ws).1.toNat = c.toNat - ws.length ∧
      (scanWaiters c ws).2 = (ws.drop c.toNat, (ws.take c.toNat).map (·.2)) := by
  induction ws generalizing c with
  | nil => simp [scanWaiters]
  | cons e r ih =>
    obtain ⟨hkind, hr⟩ := List.forall_mem_cons.mp h
    obtain hzero | hpos := Nat.eq_zero_or_pos c.toNat
    · obtain ⟨count, lists⟩ := ih c hr hc
      rw [scanWaiters_claim_held r hkind hzero, count, lists, hzero]
      simp
    · have taken : (c - 1).toNat = c.toNat - 1 := by
        have one : (1 : Word).toNat = 1 := rfl
        exact (BitVec.toNat_sub_of_le (by rw [BitVec.le_def, one]; exact hpos)).trans (by rw [one])
      obtain ⟨count, lists⟩ := ih (c - 1) hr (by omega)
      rw [taken] at count lists
      obtain ⟨k, hk⟩ := Nat.exists_eq_succ_of_ne_zero (Nat.ne_of_gt hpos)
      rw [scanWaiters_claim_free r hkind hc hpos, lists, count, hk]
      refine ⟨?_, rfl⟩
      rw [List.length_cons]
      omega

/-- Settles O31: a scan of waiters of one kind, along its list. -/
theorem scanReleasesWaiters : Obligations.ScanReleasesWaiters := by
  unfold Obligations.ScanReleasesWaiters
  refine ⟨fun c ws h => ?_, fun c ws h hc => ?_⟩
  · rw [scanWaiters_values c ws h]
    exact ⟨rfl, rfl, rfl⟩
  · obtain ⟨count, lists⟩ := scanWaiters_claims c ws h hc
    exact ⟨count, congrArg Prod.fst lists, congrArg Prod.snd lists⟩

/-! The operations of a host line (R289). -/

/-- INC and ADV of a signal. -/
def incOf : LandingOp → Nat
  | .signal _ i _ _ => i
  | _ => 0

def advOf : LandingOp → Bool
  | .signal _ _ v _ => v
  | _ => false

/-- How many signals it takes to carry `d` increments. -/
def hostParts (d : Nat) : Nat := (d + 65534) / 65535

/-- The `i`-th of `k` signals that carry `d` increments; the last `a` of them advance the generation. -/
def hostPart (n d k a : Nat) (last : Word) (i : Nat) : LandingOp :=
  .signal n (if i + 1 = k then d - 65535 * (k - 1) else 65535) (k - min a k ≤ i) last

theorem hostOps_eq (n d a : Nat) (last : Word) : hostOps n d a last =
    (List.range (hostParts d)).map (hostPart n d (hostParts d) a last)
      ++ List.replicate (a - hostParts d) (.signal n 0 true last) := rfl

/-- Parts of 65,535 with a last one of `x`. -/
theorem sum_parts (k x : Nat) :
    ((List.range (k + 1)).map fun i => if i + 1 = k + 1 then x else 65535).sum = 65535 * k + x := by
  have full : (List.range k).map (fun i => if i + 1 = k + 1 then x else 65535) = List.replicate k 65535 := by
    rw [List.eq_replicate_iff]
    simp only [List.length_map, List.length_range, List.mem_map, List.mem_range, true_and]
    rintro b ⟨i, hi, rfl⟩
    exact if_neg (by omega)
  rw [List.range_succ, List.map_append, full, List.sum_append, List.sum_replicate_nat, List.map_singleton, if_pos rfl,
    List.sum_singleton, Nat.mul_comm]

theorem countP_range_ge (k b : Nat) : (List.range k).countP (fun i => decide (b ≤ i)) = k - b := by
  induction k with
  | zero => simp
  | succ k ih =>
    rw [List.range_succ, List.countP_append, ih, List.countP_singleton]
    split
    · next h => have := of_decide_eq_true h; omega
    · next h => have := of_decide_eq_false (Bool.eq_false_iff.mpr h); omega

section
variable (n d k a : Nat) (last : Word)

theorem sum_incOf_parts : (((List.range k).map (hostPart n d k a last)).map incOf).sum
    = ((List.range k).map fun i => if i + 1 = k then d - 65535 * (k - 1) else 65535).sum := by
  rw [List.map_map]
  rfl

theorem countP_advOf_parts : ((List.range k).map (hostPart n d k a last)).countP advOf = k - (k - min a k) := by
  rw [List.countP_map]
  exact countP_range_ge k (k - min a k)

theorem sum_incOf_advances : ((List.replicate k (LandingOp.signal n 0 true last)).map incOf).sum = 0 := by
  rw [List.map_replicate, List.sum_replicate_nat, incOf, Nat.mul_zero]

theorem countP_advOf_advances : (List.replicate k (LandingOp.signal n 0 true last)).countP advOf = k := by
  rw [List.countP_replicate, advOf, if_pos rfl]

/-- The increments add up to what the host's total grew by. -/
theorem sum_incOf_hostOps : ((hostOps n d a last).map incOf).sum = d := by
  rw [hostOps_eq, List.map_append, List.sum_append, sum_incOf_parts, sum_incOf_advances]
  have enough : d ≤ 65535 * hostParts d ∧ 65535 * hostParts d < d + 65535 := by
    unfold hostParts
    omega
  cases hk : hostParts d with
  | zero =>
    rw [List.range_zero, List.map_nil, List.sum_nil]
    omega
  | succ k =>
    rw [sum_parts, Nat.add_sub_cancel]
    omega

/-- As many of them advance the generation as the host's total of advances grew by. -/
theorem countP_advOf_hostOps : (hostOps n d a last).countP advOf = a := by
  rw [hostOps_eq, List.countP_append, countP_advOf_parts, countP_advOf_advances]
  omega

theorem mem_hostOps {o : LandingOp} (h : o ∈ hostOps n d a last) : ∃ i v, o = .signal n i v last ∧ i < 2 ^ 16 := by
  rw [hostOps_eq, List.mem_append] at h
  rcases h with part | advance
  · obtain ⟨i, -, rfl⟩ := List.mem_map.mp part
    refine ⟨_, _, rfl, ?_⟩
    have enough : d ≤ 65535 * hostParts d := by
      unfold hostParts
      omega
    split <;> omega
  · exact ⟨0, true, List.eq_of_mem_replicate advance, by decide⟩

end

end Sys2Proof.Proofs
end

section
/-! SUPPORT. What the landing unit changes beside its landings and its queue (R274, R276, R290, R358, R462, R482): registers,
messages, the freeze request, the records of inputs and the releases. -/

namespace Sys2Proof.Proofs

open Sys2Proof.Machine Sys2Proof.Laws

/-! TIMESTAMP. -/

/-- TIMESTAMP is two words of the clocks' page. -/
theorem timestamp_of_words {s t : State} (h : ∀ x, 0x100 ≤ x → x < 0x120 → t.word Pg.clocks x = s.word Pg.clocks x) :
    t.timestamp = s.timestamp := by
  have low : t.word Pg.clocks (Reg.Clocks.TIMESTAMP_LO.off []) = s.word Pg.clocks (Reg.Clocks.TIMESTAMP_LO.off []) :=
    h 0x118 (by decide) (by decide)
  have high : t.word Pg.clocks (Reg.Clocks.TIMESTAMP_HI.off []) = s.word Pg.clocks (Reg.Clocks.TIMESTAMP_HI.off []) :=
    h 0x11C (by decide) (by decide)
  simp only [State.timestamp, State.rd2, State.rd, low, high]

theorem eventLeaves_clocks (p : Nat) {x : Nat} (hx : 0x100 ≤ x) (hx' : x < 0x120) : EventLeaves p Pg.clocks x :=
  ⟨by omega, by omega, fun h => absurd h.1 (by decide)⟩

theorem timestamp_toHost (s : State) (m : HostMsg) : (s.toHost m).timestamp = s.timestamp :=
  timestamp_of_words fun _ hx hx' => word_toHost s m (eventLeaves_clocks 0 hx hx')

theorem timestamp_irqEdge (s t : State) (p : Nat) : (s.irqEdge p t).timestamp = t.timestamp :=
  timestamp_of_words fun _ hx hx' => word_irqEdge s t p (eventLeaves_clocks 0 hx hx')

theorem timestamp_event (s : State) (p code n : Nat) : (s.event p code n).timestamp = s.timestamp :=
  timestamp_of_words fun _ hx hx' => word_event s code n (eventLeaves_clocks p hx hx')

/-- The pages after the clocks' page leave TIMESTAMP. -/
theorem timestamp_wr (s : State) {p : Nat} (hp : Pg.clocks < p) (f : FieldSpec) (ix : List Nat) (v : Nat) :
    (s.wr p f ix v).timestamp = s.timestamp := by
  refine timestamp_of_words fun x _ hx' => word_wr_ne s p f ix v _ _ ?_
  unfold Pg.clocks regKey at *
  omega

theorem clocks_lt_core (c : Nat) : Pg.clocks < Pg.core c := by
  unfold Pg.clocks Pg.core
  omega

theorem clocks_lt_phase (p : Nat) : Pg.clocks < Pg.phase p := by
  unfold Pg.clocks Pg.phase
  omega

/-! The relation. -/

/-- A state that differs from another at most in what an operation of the landing unit changes beside landings and queue. -/
def BesideLandings (s t : State) : Prop :=
  { t with
    regs := s.regs, hostOut := s.hostOut, ports := s.ports, freeze := s.freeze, towpath := s.towpath, trace := s.trace
    traceSeq := s.traceSeq, releases := s.releases, hostLines := s.hostLines, granted := s.granted } = s

/-- Such a state, in the same SCLK and with every release still to post. -/
structure Aside (s t : State) : Prop where
  rest     : BesideLandings s t
  time     : t.timestamp = s.timestamp
  releases : ∀ x ∈ s.releases, x ∈ t.releases

section
variable {s t u : State}

theorem BesideLandings.trans (h : BesideLandings s t) (h' : BesideLandings t u) : BesideLandings s u := by
  unfold BesideLandings at h h' ⊢
  exact (congrArg (fun v : State => { v with
    regs := s.regs, hostOut := s.hostOut, ports := s.ports, freeze := s.freeze, towpath := s.towpath, trace := s.trace
    traceSeq := s.traceSeq, releases := s.releases, hostLines := s.hostLines, granted := s.granted }) h' :).trans h

theorem Aside.refl : Aside s s := ⟨rfl, rfl, fun _ h => h⟩

theorem Aside.trans (h : Aside s t) (h' : Aside t u) : Aside s u :=
  ⟨h.rest.trans h'.rest, h'.time.trans h.time, fun x hx => h'.releases x (h.releases x hx)⟩

theorem Aside.ite {p : Prop} [Decidable p] (h : Aside s t) (h' : Aside s u) : Aside s (if p then t else u) := by
  split
  · exact h
  · exact h'

theorem Aside.foldl {α : Type} {f : State → α → State} (hf : ∀ t x, Aside t (f t x)) (l : List α) (s : State) :
    Aside s (l.foldl f s) := by
  induction l generalizing s with
  | nil => exact .refl
  | cons x r ih => exact (hf s x).trans (ih _)

theorem OnlyRegsAndHost.aside (h : OnlyRegsAndHost s t) (htime : t.timestamp = s.timestamp) : Aside s t := by
  refine ⟨(congrArg (fun v : State => { v with
    ports := s.ports, freeze := s.freeze, towpath := s.towpath, trace := s.trace, traceSeq := s.traceSeq
    releases := s.releases, hostLines := s.hostLines, granted := s.granted }) h :), htime, fun x hx => ?_⟩
  rwa [show t.releases = s.releases from (congrArg State.releases h :)]

theorem Aside.landing (h : Aside s t) (n : Nat) : t.landing n = s.landing n := (congrArg (State.landing · n) h.rest :)
theorem Aside.landingQ (h : Aside s t) : t.landingQ = s.landingQ := (congrArg State.landingQ h.rest :)
theorem Aside.landingDone (h : Aside s t) : t.landingDone = s.landingDone := (congrArg State.landingDone h.rest :)
theorem Aside.words32 (h : Aside s t) : t.words32 = s.words32 := (congrArg State.words32 h.rest :)

end

variable (s : State)

/-! Registers, messages and events. -/

theorem aside_wr {p : Nat} (hp : Pg.clocks < p) (f : FieldSpec) (ix : List Nat) (v : Nat) : Aside s (s.wr p f ix v) :=
  (onlyRegs_wr s p f ix v).onlyRegsAndHost.aside (timestamp_wr s hp f ix v)

theorem aside_toHost (m : HostMsg) : Aside s (s.toHost m) := (onlyRegsAndHost_toHost s m).aside (timestamp_toHost s m)

theorem aside_setEvent {p : Nat} (hp : Pg.clocks < p) : Aside s (s.setEvent p) :=
  (aside_wr s hp _ _ _).trans ((onlyRegsAndHost_irqEdge s _ p).aside (timestamp_irqEdge s _ p))

theorem aside_count {p : Nat} (hp : Pg.clocks < p) (f : FieldSpec) (ix : List Nat) (n : Nat) : Aside s (s.count p f ix n) :=
  (aside_wr s hp _ _ _).trans ((onlyRegsAndHost_event _ p _ n).aside (timestamp_event _ p _ n))

/-! Requests for a freeze (R462). -/

theorem aside_setPort (p : Nat) (x : Port) : Aside s (s.setPort p x) := ⟨rfl, rfl, fun _ h => h⟩

theorem aside_flood (x : Crossing) (e : Option Nat) : Aside s (s.flood x e) :=
  .foldl (fun t _ => .ite (aside_setPort t _ _) .refl) _ s

theorem aside_setFreeze (x : FreezeSt) : Aside s { s with freeze := x } := ⟨rfl, rfl, fun _ h => h⟩

theorem aside_requestFreeze (src : Nat) : Aside s (s.requestFreeze src) := by
  have page : Pg.clocks < Pg.slack := by decide
  have asked (x : FreezeSt) :
      Aside s { (s.wr Pg.slack Reg.Slack.FSTATE [] 1).wr Pg.slack Reg.Slack.FSRC [] src with freeze := x } :=
    ((aside_wr s page _ _ _).trans (aside_wr _ page _ _ _)).trans (aside_setFreeze _ x)
  have known (t : State) (g : Nat) (x : FreezeSt) :
      Aside t { (t.wr Pg.slack Reg.Slack.FGEN [] g).wr Pg.slack Reg.Slack.FINIT [] t.modId with freeze := x } :=
    ((aside_wr t page _ _ _).trans (aside_wr _ page _ _ _)).trans (aside_setFreeze _ x)
  exact Aside.ite (aside_count s page _ _ _) (Aside.ite .refl (Aside.ite (((asked _).trans (known _ _ _)).trans (aside_flood _ _ none))
    (asked _)))

/-! Records of inputs (R479, R482, R488). -/

theorem clocks_lt_trace : Pg.clocks < Pg.trace := by decide

theorem aside_setTow (p : Nat) (x : Towpath) : Aside s (s.setTow p x) := ⟨rfl, rfl, fun _ h => h⟩

theorem aside_setTrace (l : List TraceRec) (n : Nat) : Aside s { s with trace := l, traceSeq := n } :=
  ⟨rfl, rfl, fun _ h => h⟩

theorem aside_traceAdd (tow : Bool) (type pol key : Nat) (pl : List Byte) : Aside s (s.traceAdd tow type pol key pl) :=
  (aside_setTrace s _ _).trans (aside_wr _ clocks_lt_trace _ _ _)

theorem aside_towLost (p : Nat) : Aside s (s.towLost p) := (aside_count s clocks_lt_trace _ _ _).trans (aside_setTow _ _ _)

theorem aside_towAdmit (p type key : Nat) (pl : List Byte) : Aside s (s.towAdmit p type key pl) := by
  have afterGap (gap : List Byte) (x : Towpath) : Aside s ((s.traceAdd true 0x09 p 0 gap).setTow p x) :=
    (aside_traceAdd s _ _ _ _ _).trans (aside_setTow _ p x)
  exact Aside.ite (aside_towLost s p) ((Aside.ite .refl (afterGap _ _)).trans (aside_traceAdd _ _ _ _ _ _))

theorem aside_useRecord (p : Nat) (r : Record) : Aside s (s.useRecord p r) :=
  (aside_setTow s p _).trans (aside_setTow _ p _)

theorem aside_diverge (p kind type seq key : Nat) : Aside s (s.diverge p kind type seq key) := by
  have wr (t : State) (f : FieldSpec) (v : Nat) : Aside t (t.wr Pg.trace f [p] v) := aside_wr t clocks_lt_trace f [p] v
  have shown (t : State) (step : Nat) := ((((((wr t Reg.Trace.DIVERGED 1).trans (wr _ Reg.Trace.DKIND kind)).trans
    (wr _ Reg.Trace.DTYPE type)).trans (wr _ Reg.Trace.DSEQ seq)).trans (wr _ Reg.Trace.DSTEP step)).trans
    (wr _ Reg.Trace.DKEY key)).trans (aside_setEvent _ clocks_lt_trace)
  exact (aside_count s clocks_lt_trace Reg.Trace.DCOUNT [p] 1).trans
    (Aside.ite .refl (Aside.ite ((shown _ _).trans (aside_requestFreeze _ 1)) (shown _ _)))

theorem aside_compare (p type key : Nat) (pl : List Byte) (r : Option Record) : Aside s (s.compare p type key pl r) := by
  cases r with
  | none => exact aside_diverge s _ _ _ _ _
  | some r =>
    exact (aside_useRecord s p r).trans (Aside.ite (aside_diverge _ _ _ _ _ _) (Aside.ite (aside_diverge _ _ _ _ _ _)
      (Aside.ite (aside_diverge _ _ _ _ _ _) .refl)))

theorem aside_inputInOrder (p type key : Nat) (pl : List Byte) (ts : List Nat) :
    Aside s (s.inputInOrder p type key pl ts) := by
  unfold State.inputInOrder
  split
  · exact .refl
  · exact aside_towAdmit s _ _ _ _
  · exact aside_compare s _ _ _ _ _

theorem aside_hostInput (p type : Nat) (pl : List Byte) : Aside s (s.hostInput p type pl) :=
  .ite .refl ((aside_setTow s p _).trans (.ite .refl (aside_inputInOrder _ _ _ _ _ _)))

theorem aside_remoteInput (p type key : Nat) (pl : List Byte) : Aside s (s.remoteInput p type key pl) := by
  unfold State.remoteInput
  split
  · exact .refl
  · exact aside_towAdmit s _ _ _ _
  · exact aside_setTow s _ _

/-! What follows a signal (R358, R482). -/

theorem aside_noteSignal (n inc : Nat) (adv : Bool) (last : Nat) : Aside s (s.noteSignal n inc adv last) :=
  .ite (.foldl (fun t _ => aside_remoteInput t _ _ _ _) _ s)
    (.ite (.foldl (fun t _ => aside_hostInput t _ _ _) _ s) .refl)

theorem aside_noteBackward (n : Nat) : Aside s (s.noteBackward n) :=
  .foldl (fun t p => .ite (aside_wr t (clocks_lt_phase p) _ _ _) .refl) _ s

/-! Mirror lines and releases (R276, R279, R288, R290). -/

theorem onlyRegsAndHost_mirror (n : Nat) : OnlyRegsAndHost s (s.mirror n) := by
  unfold State.mirror
  split
  · exact onlyRegsAndHost_toHost s _
  · exact .refl s

theorem aside_mirror (n : Nat) : Aside s (s.mirror n) := .ite (aside_toHost s _) .refl

theorem aside_post (x : Nat × Nat × Nat) : Aside s { s with releases := s.releases ++ [x] } :=
  ⟨rfl, rfl, fun _ h => List.mem_append_left _ h⟩

/-- A released gate shows its release and is to post 12 SCLK later. -/
theorem aside_release_gate (n : Nat) {w : Waiter} {c g : Nat} (hw : w.who = .gate c g) :
    Aside s (s.release n w) ∧ (s.timestamp + 12, c, g) ∈ (s.release n w).releases := by
  have shown := (aside_wr s (clocks_lt_core c) Reg.Core.GSTATE [g] 2).trans
    (aside_wr _ (clocks_lt_core c) Reg.Core.RELEASES [g] (s.rd (Pg.core c) Reg.Core.RELEASES [g] + 1))
  simp only [State.release, hw]
  refine ⟨shown.trans (aside_post _ _), ?_⟩
  rw [← shown.time]
  exact List.mem_append_right _ List.mem_cons_self

theorem aside_release (n : Nat) (w : Waiter) : Aside s (s.release n w) := by
  match hw : w.who with
  | .gate c g => exact (aside_release_gate s n hw).1
  | .host q v | .freeze | .sequencer | .commit | .workq q | .sluice q =>
    simp only [State.release, hw]
    exact ⟨rfl, rfl, fun _ h => h⟩

theorem aside_afterMirror (w : Waiter) : Aside s (s.afterMirror w) := by
  unfold State.afterMirror
  split
  · exact aside_toHost s _
  · exact .ite (aside_requestFreeze s 2) .refl
  · exact .refl

end Sys2Proof.Proofs
end

section
/-! SUPPORT. The landing unit (R274 to R277, R282, R313, R337): what a scan and a refused gate change, and the statements about
SIGNAL and REGISTRATION. -/

namespace Sys2Proof.Proofs

open Sys2Proof.Machine Sys2Proof.Laws

/-! Landings. -/

theorem landing_setLanding (s : State) (n m : Nat) (l : Landing) :
    (s.setLanding n l).landing m = if m = n then l else s.landing m := sget_sset _ _ _ _ _

/-- A landing after a scan of its wait list. -/
def scanned (l : Landing) : Landing :=
  { l with count := (scanWaiters l.count l.waiters).1, waiters := (scanWaiters l.count l.waiters).2.1 }

/-- The waiters that a scan of a landing releases. -/
def freed (l : Landing) : List Waiter := (scanWaiters l.count l.waiters).2.2

/-- The releases of a scan. -/
def released (s : State) (n : Nat) (ws : List Waiter) : State := ws.foldl (fun t w => t.release n w) s

theorem aside_released (s : State) (n : Nat) (ws : List Waiter) : Aside s (released s n ws) :=
  .foldl (fun t w => aside_release t n w) ws s

/-- Each gate among them is to post 12 SCLK later (R282). -/
theorem mem_releases_released (s : State) (n : Nat) {ws : List Waiter} {w : Waiter} (hw : w ∈ ws) {c g : Nat}
    (hwho : w.who = .gate c g) : (s.timestamp + 12, c, g) ∈ (released s n ws).releases := by
  obtain ⟨before, after, rfl⟩ := List.append_of_mem hw
  have earlier := aside_released s n before
  obtain ⟨-, posts⟩ := aside_release_gate (released s n before) n hwho
  rw [earlier.time] at posts
  rw [released, List.foldl_append, List.foldl_cons]
  exact (aside_released _ n after).releases _ posts

theorem scan_eq (s : State) (n : Nat) : s.scan n = (freed (s.landing n)).foldl State.afterMirror
    ((released (s.setLanding n (scanned (s.landing n))) n (freed (s.landing n))).mirror n) := rfl

/-- A scan changes its landing and, beside landings, what its releases act upon. -/
theorem aside_scan (s : State) (n : Nat) : Aside (s.setLanding n (scanned (s.landing n))) (s.scan n) := by
  rw [scan_eq]
  exact ((aside_released _ n _).trans (aside_mirror _ n)).trans (.foldl aside_afterMirror _ _)

theorem mem_releases_scan (s : State) (n : Nat) {w : Waiter} (hw : w ∈ freed (s.landing n)) {c g : Nat}
    (hwho : w.who = .gate c g) : (s.timestamp + 12, c, g) ∈ (s.scan n).releases := by
  rw [scan_eq]
  exact ((aside_mirror _ n).trans (.foldl aside_afterMirror _ _)).releases _
    (mem_releases_released (s.setLanding n (scanned (s.landing n))) n hw hwho)

/-- State `t` is `s` after landing `n`, set to `l`, has been scanned; the other landings, the queue and the tiles are as in
`s`. -/
structure ScanShown (s t : State) (n : Nat) (l : Landing) : Prop where
  landing : t.landing n = scanned l
  others  : ∀ m, m ≠ n → t.landing m = s.landing m
  queue   : t.landingQ = s.landingQ
  applied : t.landingDone = s.landingDone
  words32 : t.words32 = s.words32
  posts   : ∀ w ∈ freed l, ∀ c g, w.who = .gate c g → (s.timestamp + 12, c, g) ∈ t.releases

/-- Between the setting of the landing and its scan something may happen beside the landings. -/
theorem scanShown_scan (s : State) {n : Nat} {l : Landing} {u : State} (h : Aside (s.setLanding n l) u) :
    ScanShown s (u.scan n) n l := by
  have own : u.landing n = l := (h.landing n).trans ((landing_setLanding s n n l).trans (if_pos rfl))
  have scan := aside_scan u n
  have posts {w : Waiter} (hw : w ∈ freed l) {c g : Nat} (hwho : w.who = .gate c g) :=
    mem_releases_scan u n (own ▸ hw) hwho
  rw [own] at scan
  rw [h.time] at posts
  refine ⟨?_, fun m hm => ?_, scan.landingQ.trans h.landingQ, scan.landingDone.trans h.landingDone,
    scan.words32.trans h.words32, fun w hw c g hwho => posts hw hwho⟩
  · rw [scan.landing, landing_setLanding, if_pos rfl]
  · rw [scan.landing, landing_setLanding, if_neg hm, h.landing, landing_setLanding, if_neg hm]

/-! The operation of an SCLK (R277). -/

/-- The head of the queue, in its SCLK, where the unit has applied nothing yet. -/
theorem landingOp_head {s : State} {due rank : Nat} {op : LandingOp} {r : List QueuedOp}
    (hq : s.landingQ = ⟨due, rank, op⟩ :: r) (hdue : due ≤ s.timestamp) (hdone : s.landingDone = false) :
    s.landingOp = some (op, r) := by
  simp only [State.landingOp, hq, hdue, hdone, and_self, if_true]

/-- The unit has taken an operation, after which `r` is queued. -/
def opTaken (s : State) (r : List QueuedOp) : State := { s with landingQ := r, landingDone := true }

section
variable {s : State} {r : List QueuedOp} (hstill : s.still = false)
include hstill

theorem exec_signal {n inc : Nat} {adv : Bool} {last : Word} (hop : s.landingOp = some (.signal n inc adv last, r)) :
    exec .signal s = .next ((opTaken s r).applySignal n inc adv last) := by
  change execSignal s = _
  simp only [execSignal, hstill, hop, Bool.false_eq_true, if_false]
  rfl

theorem exec_registration {n slot : Nat} {w : Waiter} (hop : s.landingOp = some (.register n slot w, r)) :
    exec .registration s = .next ((opTaken s r).applyRegister n slot w) := by
  change execRegistration s = _
  simp only [execRegistration, hstill, hop, Bool.false_eq_true, if_false]
  rfl

end

/-! Signals (R274). -/

/-- A landing after a signal, before the scan. -/
def signalled (l : Landing) (inc : Nat) (adv : Bool) (last : Word) : Landing :=
  { l with
    count := l.count + BitVec.ofNat 32 inc
    gen := if adv then l.gen + 1 else l.gen
    last := last
    signals := l.signals + 1 }

theorem scanShown_applySignal (s : State) (n inc : Nat) (adv : Bool) (last : Word) :
    ScanShown s (s.applySignal n inc adv last) n (signalled (s.landing n) inc adv last) :=
  scanShown_scan s ((aside_noteSignal _ n inc adv last.toNat).trans (aside_noteBackward _ n))

/-- Settles O30: what follows the change of the landing before its scan is beside the landings, and so are the releases. -/
theorem signalAdvancesLanding : Obligations.SignalAdvancesLanding := by
  unfold Obligations.SignalAdvancesLanding
  intro s due rank n inc adv last r hstill hq hdue hdone
  obtain ⟨landing, others, queue, applied, words32, posts⟩ := scanShown_applySignal (opTaken s r) n inc adv last
  exact ⟨_, exec_signal hstill (landingOp_head hq hdue hdone), landing, others, words32, posts, queue, applied⟩

/-! Registrations (R275, R313, R337). -/

/-- A waiter that finds its slot free and its own kind waiting enters, and the list is scanned. -/
theorem applyRegister_free {s : State} {n slot : Nat} {w : Waiter} (hhub : (w.isGate && s.hubSlot n slot) = false)
    (hfree : ∀ e ∈ (s.landing n).waiters, e.1 ≠ slot ∧ e.2.claim = w.claim) :
    s.applyRegister n slot w
      = (s.setLanding n { s.landing n with waiters := insertWaiter slot w (s.landing n).waiters }).scan n := by
  have slots : ((s.landing n).waiters.any fun e => e.1 == slot) = false := by
    simpa using fun a b hab => (hfree (a, b) hab).1
  have kinds : ((s.landing n).waiters.any fun e => e.2.claim != w.claim) = false := by
    simpa using fun a b hab => (hfree (a, b) hab).2
  simp only [State.applyRegister, hhub, slots, kinds, Bool.or_self, Bool.false_eq_true, if_false]

/-- A gate's waiter is refused where its slot is occupied or a queue's. -/
theorem applyRegister_taken {s : State} {n slot : Nat} {w : Waiter} (hgate : w.isGate = true)
    (htaken : (∃ e ∈ (s.landing n).waiters, e.1 = slot) ∨ s.hubSlot n slot = true) :
    s.applyRegister n slot w = s.refuseWaiter n slot w 2 := by
  have taken : ((w.isGate && s.hubSlot n slot) || (s.landing n).waiters.any fun e => e.1 == slot) = true := by
    rcases htaken with ⟨e, he, hslot⟩ | hub
    · rw [Bool.or_eq_true]
      exact .inr (List.any_eq_true.mpr ⟨e, he, beq_iff_eq.mpr hslot⟩)
    · rw [hgate, hub]
      rfl
  simp only [State.applyRegister, taken, if_true]

/-! A landing fault of a gate (R275, R284, R502). -/

theorem OnlyFault.landing {s t : State} (h : OnlyFault s t) (n : Nat) : t.landing n = s.landing n :=
  (congrArg (State.landing · n) h :)
theorem OnlyFault.landingQ {s t : State} (h : OnlyFault s t) : t.landingQ = s.landingQ := (congrArg State.landingQ h :)
theorem OnlyFault.words32 {s t : State} (h : OnlyFault s t) : t.words32 = s.words32 := (congrArg State.words32 h :)

theorem OnlyRegs.onlyFault_trans {s t u : State} (h : OnlyRegs s t) (h' : OnlyFault t u) : OnlyFault s u :=
  (congrArg (fun v : State =>
    { v with regs := s.regs, hostOut := s.hostOut, faultAt := s.faultAt, polders := s.polders }) h' :).trans
    (congrArg (fun v : State => { v with hostOut := s.hostOut, faultAt := s.faultAt, polders := s.polders }) h :)

theorem onlyRegs_errReg (s : State) (p : Nat) (e m : FieldSpec) (fs : List (FieldSpec × Nat)) :
    OnlyRegs s (s.errReg p e m fs) := by
  unfold State.errReg
  split
  · exact onlyRegs_wr ..
  · exact (onlyRegs_wr ..).trans (onlyRegs_foldl _ (fun _ _ => onlyRegs_wr ..) _ _)

theorem onlyRegs_landingErr (s : State) (kind n slot : Nat) : OnlyRegs s (s.landingErr kind n slot) := onlyRegs_errReg ..

/-- A landing error changes one word of the hub landing page. -/
theorem word_landingErr (s : State) (kind n slot : Nat) {m x : Nat} (hm : m ≠ Pg.landings) (hx : x < 4096) :
    (s.landingErr kind n slot).word m x = s.word m x := by
  have kept (t : State) (f : FieldSpec) (v : Nat) (hf : f.off [] < 4096) :
      (t.wr Pg.landings f [] v).word m x = t.word m x := word_wr_of_ne t f [] v rfl hf hx fun h => hm h.1
  unfold State.landingErr State.errReg
  split
  · exact kept _ _ _ (by decide)
  · simp only [List.foldl_cons, List.foldl_nil]
    rw [kept _ _ _ (by decide), kept _ _ _ (by decide), kept _ _ _ (by decide), kept _ _ _ (by decide)]

theorem core_ne_landings (c : Nat) : Pg.core c ≠ Pg.landings := by
  unfold Pg.core Pg.landings
  omega

theorem gstate_off (g : Nat) : Reg.Core.GSTATE.off [g] = 0x600 + 8 * g := by simp [FieldSpec.off, Reg.Core.GSTATE]

/-- GSTATE stands in the gate's own word. -/
theorem word_setGate_of_ne (s : State) (c v : Nat) {g m x : Nat} (hg : g < 32) (hx : x < 4096)
    (h : ¬ (m = Pg.core c ∧ 0x600 ≤ x ∧ x < 0x700)) : (s.setGate c g v).word m x = s.word m x :=
  word_wr_of_ne s Reg.Core.GSTATE [g] v (gstate_off g) (by omega) hx (by omega)

theorem rd_gstate_setGate (s : State) (c g v : Nat) : (s.setGate c g v).rd (Pg.core c) Reg.Core.GSTATE [g] = v % 4 :=
  rd_wr_self s _ Reg.Core.GSTATE [g] v (by decide) (by decide)

/-- The state in which a gate's wait has ended with a landing error and a fault. -/
def gateFaulted (s : State) (kind n slot c g code : Nat) : State :=
  (s.landingErr kind n slot).waiterFault n (.gate c g) code false

section
variable (s : State) (kind n slot c g code : Nat)

theorem onlyFault_gateFaulted : OnlyFault s (gateFaulted s kind n slot c g code) :=
  ((onlyRegs_landingErr s kind n slot).trans (onlyRegs_wr ..)).onlyFault_trans (onlyFault_raise _ _)

variable {g code} (hg : g < 32)
include hg

/-- The gate is idle again. -/
theorem rd_gstate_gateFaulted : (gateFaulted s kind n slot c g code).rd (Pg.core c) Reg.Core.GSTATE [g] = 0 := by
  have off := gstate_off g
  have leaves : EventLeaves (Pg.core c) (Pg.core c) (Reg.Core.GSTATE.off [g]) :=
    eventLeaves_own (core_ne_cxl c) (by omega) (by omega)
  rw [gateFaulted, State.waiterFault, State.rd, word_raise _ _ (by omega) leaves]
  exact rd_gstate_setGate _ c g 0

/-- The waiting core's page records the fault, if it holds none. -/
theorem gateFaulted_records (hcode : code < 256) (hvalid : s.rd (Pg.core c) Reg.Common.FC_VALID = 0) :
    (gateFaulted s kind n slot c g code).rd (Pg.core c) Reg.Common.FC_VALID = 1 ∧
      ((gateFaulted s kind n slot c g code).word (Pg.core c) 0x010).toNat % 256 = code := by
  refine raise_records _ ?_ hcode (by decide : 8 < 16)
  have off : Reg.Common.FC_VALID.off [] = 0x010 := rfl
  rw [State.rd, off] at hvalid ⊢
  rwa [word_setGate_of_ne _ _ _ hg (by decide) (by omega), word_landingErr _ _ _ _ (core_ne_landings c) (by decide)]

end

theorem refuseWaiter_gate (s : State) (n slot : Nat) {w : Waiter} {c g : Nat} (hw : w.who = .gate c g) :
    s.refuseWaiter n slot w 2 = gateFaulted s 2 n slot c g 0x07 := by
  simp only [State.refuseWaiter, hw, if_true]
  rfl

/-- Settles O32: a waiter that may enter does, and the list is scanned; a gate that may not is refused with its fault. -/
theorem registrationEntersSlot : Obligations.RegistrationEntersSlot := by
  unfold Obligations.RegistrationEntersSlot
  refine ⟨fun s due rank n slot w r hstill hq hdue hdone hhub hfree => ?_,
    fun s due rank n slot w r c g hstill hq hdue hdone hwho _ hg htaken hvalid => ?_⟩
  · have shown := scanShown_scan (opTaken s r) (n := n)
      (l := { s.landing n with waiters := insertWaiter slot w (s.landing n).waiters }) .refl
    obtain ⟨landing, others, queue, -, words32, -⟩ := shown
    have entered : (opTaken s r).applyRegister n slot w = _ := applyRegister_free hhub hfree
    exact ⟨_, (exec_registration hstill (landingOp_head hq hdue hdone)).trans (congrArg _ entered), landing, others, queue,
      words32⟩
  · have gate : w.isGate = true := by rw [Waiter.isGate, hwho]
    have refused : (opTaken s r).applyRegister n slot w = gateFaulted (opTaken s r) 2 n slot c g 0x07 :=
      (applyRegister_taken (s := opTaken s r) gate htaken).trans (refuseWaiter_gate _ n slot hwho)
    have fault := onlyFault_gateFaulted (opTaken s r) 2 n slot c g 0x07
    obtain ⟨valid, code⟩ := gateFaulted_records (opTaken s r) 2 n slot c hg (show 0x07 < 256 by decide) hvalid
    exact ⟨_, (exec_registration hstill (landingOp_head hq hdue hdone)).trans (congrArg _ refused), fault.landing n, valid,
      code, rd_gstate_gateFaulted _ 2 n slot c hg, fault.landingQ⟩

end Sys2Proof.Proofs
end

section
/-! SUPPORT. Gates (R278, R279, R282): token counters, what a gate's firing and a release's post change, and the statement about
them. -/

namespace Sys2Proof.Proofs

open Sys2Proof.Machine Sys2Proof.Laws

/-! Token counters (R57). -/

/-- The field of token counter `t` within its word. -/
def tokenField (t : Nat) : FieldSpec := ⟨0x140, [(4, 16)], t % 4 * 8 + 7, t % 4 * 8, .ro, 0⟩

theorem tokenField_off (t : Nat) : (tokenField t).off [t / 4] = 0x140 + 4 * (t / 4) := by simp [FieldSpec.off, tokenField]

theorem token_eq_rd (s : State) (c t : Nat) : s.token c t = s.rd (Pg.core c) (tokenField t) [t / 4] := by
  rw [State.rd, tokenField_off]
  rfl

theorem token_le (s : State) (c t : Nat) : s.token c t ≤ 255 := by
  have width : t % 4 * 8 + 7 - t % 4 * 8 + 1 = 8 := by omega
  have := bits_lt (s.word (Pg.core c) (0x140 + 4 * (t / 4))).toNat (t % 4 * 8 + 7) (t % 4 * 8)
  rw [width] at this
  exact Nat.le_of_lt_succ this

theorem token_setToken_self (s : State) (c t : Nat) {v : Nat} (hv : v ≤ 255) : (s.setToken c t v).token c t = v := by
  have width : (tokenField t).width = 8 := by
    simp only [FieldSpec.width, tokenField]
    omega
  have bounds : (tokenField t).lo ≤ (tokenField t).hi ∧ (tokenField t).hi < 32 := by
    simp only [tokenField]
    omega
  rw [token_eq_rd]
  exact (rd_wr_self s _ (tokenField t) _ v bounds.1 bounds.2).trans (by rw [width]; omega)

/-- A counter whose token a firing has taken. -/
theorem token_taken (s : State) (c t : Nat) : (s.setToken c t (s.token c t - 1)).token c t = s.token c t - 1 :=
  token_setToken_self s c t (Nat.le_trans (Nat.sub_le _ 1) (token_le s c t))

/-- A word that is no token counter's. -/
theorem word_setToken_of_ne (s : State) (c v : Nat) {t m x : Nat} (ht : t < 64) (hx : x < 4096)
    (h : ¬ (m = Pg.core c ∧ 0x140 ≤ x ∧ x < 0x180)) : (s.setToken c t v).word m x = s.word m x :=
  word_wr_of_ne s (tokenField t) [t / 4] v (tokenField_off t) (by omega) hx (by omega)

theorem timestamp_setToken (s : State) (c t v : Nat) : (s.setToken c t v).timestamp = s.timestamp :=
  timestamp_wr s (clocks_lt_core c) _ _ _

/-- A counter's value is in its word. -/
theorem token_of_word {s u : State} {c t : Nat}
    (h : u.word (Pg.core c) (0x140 + 4 * (t / 4)) = s.word (Pg.core c) (0x140 + 4 * (t / 4))) : u.token c t = s.token c t := by
  rw [State.token, h, State.token]

theorem token_setGate (s : State) (c v : Nat) {g t : Nat} (hg : g < 32) (ht : t < 64) :
    (s.setGate c g v).token c t = s.token c t :=
  token_of_word (word_setGate_of_ne s c v hg (by omega) (by omega))

theorem modId_setToken (s : State) (c v : Nat) {t : Nat} (ht : t < 64) : (s.setToken c t v).modId = s.modId := by
  have page : Pg.routing ≠ Pg.core c := by
    unfold Pg.routing Pg.core
    omega
  rw [State.modId, State.rd, word_setToken_of_ne s c v ht (by decide) fun h => page h.1, State.modId, State.rd]

/-! Gates that fire (R279). -/

theorem firstGate_lt {s : State} {c g : Nat} (h : s.firstGate c = some g) : g < 32 :=
  List.mem_range.mp (List.mem_of_find?_eq_some h)

section
variable {s : State} {c : CoreId} {g : Nat} (hruns : s.agentRuns c = true) (hfirst : s.firstGate c = some g)
include hruns hfirst

theorem exec_signalGateFire (hkind : (s.gate c g).kind = 1) : exec (.signalGateFire c) s = .next
    ((s.setToken c (s.gate c g).tok (s.token c (s.gate c g).tok - 1)).gateSignal c g (s.gate c g)) := by
  change execSignalGateFire c s = _
  simp only [execSignalGateFire, hfirst, hruns, hkind, BEq.rfl, Bool.and_self, if_true]

theorem exec_waitGateFire (hkind : (s.gate c g).kind ≠ 1) : exec (.waitGateFire c) s = .next
    ((s.setToken c (s.gate c g).tok (s.token c (s.gate c g).tok - 1)).gateRegister c g (s.gate c g)) := by
  change execWaitGateFire c s = _
  simp only [execWaitGateFire, hfirst, hruns, bne_iff_ne.mpr hkind, Bool.and_self, if_true]

end

theorem releases_off (g : Nat) : Reg.Core.RELEASES.off [g] = 0x604 + 8 * g := by simp [FieldSpec.off, Reg.Core.RELEASES]

/-- The words of a gate stand apart from the token counters. -/
theorem rd_gate_setToken (s : State) (c v : Nat) {t g : Nat} (ht : t < 64) {f : FieldSpec}
    (hf : 0x600 ≤ f.off [g] ∧ f.off [g] < 0x700) :
    (s.setToken c t v).rd (Pg.core c) f [g] = s.rd (Pg.core c) f [g] := by
  rw [State.rd, word_setToken_of_ne s c v ht (by omega) (by omega), State.rd]

/-- The waiter that wait gate `g` registers as, after `n` releases. -/
def gateWaiter (c g n : Nat) (x : Gate) : Waiter :=
  ⟨.gate c g, x.kind == 3, BitVec.ofNat 32 (x.v + n * x.vstep), timeoutOf x.timeout⟩

theorem gateRegister_eq (s : State) (c g : Nat) (x : Gate) : s.gateRegister c g x = (s.setGate c g 1).queueOp 20 (rankGate c g)
    (.register x.landing x.widx (gateWaiter c g (s.rd (Pg.core c) Reg.Core.RELEASES [g]) x)) := rfl

theorem landingQ_queueOp (s : State) (wait rank : Nat) (op : LandingOp) :
    (s.queueOp wait rank op).landingQ = insertOp ⟨s.timestamp + wait, rank, op⟩ s.landingQ := rfl

/-- A crossing that is sent changes ports and the routing page's counts. -/
theorem word_send (s : State) (tc : Nat) (x : Crossing) (inp : Option (Nat × Bool)) {m o : Nat} (ho : o < 4096)
    (hcxl : m ≠ Pg.cxl) (hrouting : m ≠ Pg.routing) : (s.send tc x inp).word m o = s.word m o := by
  unfold State.send
  split
  · rfl
  · rfl
  · exact word_count s 1 (by decide) ⟨ho, fun h => hrouting h.1, fun h => hcxl h.1⟩ fun h => hrouting h.1

theorem gateSignal_local (s : State) (c g : Nat) {x : Gate} (h : x.remote = false) : s.gateSignal c g x =
    s.queueOp 20 (rankGate c g) (.signal x.landing x.inc x.adv
      (BitVec.ofNat 32 (lastWord s.modId (c / 64) (c / 8 % 8) (c % 8) g))) := by
  simp only [State.gateSignal, h, Bool.false_and, Bool.false_eq_true, if_false]

/-- The sending of a gate's signal takes no token. -/
theorem token_gateSignal (s : State) (c g : Nat) (x : Gate) {t : Nat} (ht : t < 64) :
    (s.gateSignal c g x).token c t = s.token c t := by
  have routing : Pg.core c ≠ Pg.routing := by
    unfold Pg.core Pg.routing
    omega
  unfold State.gateSignal
  dsimp only
  split
  · exact token_of_word (word_send s _ _ _ (by omega) (core_ne_cxl c) routing)
  · rfl

/-! Releases that post (R282). -/

section
variable {s : State} {due c g : Nat} {r : List (Nat × Nat × Nat)} (hstill : s.still = false)
  (hr : s.releases = (due, c, g) :: r)
include hstill hr

theorem exec_releasePost_early (h : s.timestamp < due) : exec .releasePost s = .next s := by
  change execReleasePost s = _
  simp only [execReleasePost, hstill, hr, h, Bool.false_eq_true, if_false, if_true]

theorem exec_releasePost (h : due ≤ s.timestamp) (hg : g < 32) (htok : (s.gate c g).rtok < 64)
    (hroom : s.token c (s.gate c g).rtok < 255) : exec .releasePost s = .next
      ((({ s with releases := r } : State).setGate c g 0).setToken c (s.gate c g).rtok (s.token c (s.gate c g).rtok + 1)) := by
  have same : (({ s with releases := r } : State).setGate c g 0).token c (s.gate c g).rtok = s.token c (s.gate c g).rtok :=
    token_setGate { s with releases := r } c 0 hg htok
  change execReleasePost s = _
  simp only [execReleasePost, hstill, hr, Nat.not_lt.mpr h, same, Nat.ne_of_lt hroom, Bool.false_eq_true, if_false]

end

/-- Settles O33: a firing is the token, then the signal or the registration; a post is the gate's state, then the token. -/
theorem gatesFireAndRelease : Obligations.GatesFireAndRelease := by
  unfold Obligations.GatesFireAndRelease
  refine ⟨fun s c g hruns hfirst hkind htok => ?_, fun s c g hruns hfirst hkind htok => ?_,
    fun s due c g r hstill hr h => exec_releasePost_early hstill hr h,
    fun s due c g r hstill hr h _ hg htok hroom => ?_⟩
  · refine ⟨_, exec_signalGateFire hruns hfirst hkind, (token_gateSignal _ c g _ htok).trans (token_taken s c _),
      fun hlocal => ?_⟩
    rw [gateSignal_local _ c g hlocal, modId_setToken s c _ htok, landingQ_queueOp, timestamp_setToken]
    exact ⟨rfl, rfl, rfl⟩
  · have hg := firstGate_lt hfirst
    have releases := rd_gate_setToken s c (s.token c (s.gate c g).tok - 1) htok (g := g) (f := Reg.Core.RELEASES) (by
      rw [releases_off]
      omega)
    refine ⟨_, exec_waitGateFire hruns hfirst hkind, (token_setGate _ c 1 hg htok).trans (token_taken s c _),
      rd_gstate_setGate _ c g 1, ?_, rfl, rfl⟩
    rw [gateRegister_eq, releases, landingQ_queueOp, State.setGate, timestamp_wr _ (clocks_lt_core c), timestamp_setToken]
    rfl
  · refine ⟨_, exec_releasePost hstill hr h hg htok hroom, rfl, ?_, token_setToken_self _ c _ hroom, rfl, rfl⟩
    rw [rd_gate_setToken _ c _ htok (by rw [gstate_off]; omega)]
    exact rd_gstate_setGate _ c g 0

end Sys2Proof.Proofs
end

section
/-! SUPPORT. Timeouts of waits and the host's lines (R284, R289, R290, R426), and the statements about them. -/

namespace Sys2Proof.Proofs

open Sys2Proof.Machine Sys2Proof.Laws

/-! Waits that time out (R284). -/

theorem exec_landingTimeout_released {s : State} {n : LandingId} {slot : SlotId} (h : s.releasedNow n slot = true) :
    exec (.landingTimeout n slot) s = .next s := by
  change execLandingTimeout n slot s = _
  simp only [execLandingTimeout, h, Bool.or_true, if_true]

theorem exec_landingTimeout {s : State} {n : LandingId} {slot : SlotId} {e : Nat × Waiter} (hstill : s.still = false)
    (hrel : s.releasedNow n slot = false)
    (he : ((s.landing n).waiters.find? fun e => e.1 == slot.val && e.2.left.isSome) = some e) :
    exec (.landingTimeout n slot) s = .next (s.waitTimesOut n slot e.2) := by
  change execLandingTimeout n slot s = _
  simp only [execLandingTimeout, hstill, hrel, he, Bool.or_self, Bool.false_eq_true, if_false]

/-- A landing whose slot the waiter has left. -/
def slotLeft (l : Landing) (slot : Nat) : Landing := { l with waiters := l.waiters.filter fun e => e.1 != slot }

/-- The state in which the waiter has left its slot, and nothing else has happened. -/
def waitLeft (s : State) (n slot : Nat) : State := s.setLanding n (slotLeft (s.landing n) slot)

section
variable (s : State) (n slot : Nat) {w : Waiter}

theorem waitTimesOut_gate {c g : Nat} (hw : w.who = .gate c g) : s.waitTimesOut n slot w
    = (gateFaulted (waitLeft s n slot) 0 n slot c g 0x0D).mirror n := by
  simp only [State.waitTimesOut, hw]
  rfl

theorem waitTimesOut_host {q v : Nat} (hw : w.who = .host q v) : s.waitTimesOut n slot w
    = ((((waitLeft s n slot).landingErr 0 n slot).hostWaitEnds n q 1).mirror n).toHost (.msix v) := by
  simp only [State.waitTimesOut, hw]
  rfl

end

/-- State `t` is `s` with landing `n` as `l`, the other landings, the memory and the tiles as they were. -/
structure LandingSet (s t : State) (n : Nat) (l : Landing) : Prop where
  landing : t.landing n = l
  others  : ∀ m, m ≠ n → t.landing m = s.landing m
  mem     : t.mem = s.mem
  words32 : t.words32 = s.words32

theorem landingSet_setLanding (s : State) (n : Nat) (l : Landing) : LandingSet s (s.setLanding n l) n l :=
  ⟨(landing_setLanding s n n l).trans (if_pos rfl), fun m hm => (landing_setLanding s n m l).trans (if_neg hm), rfl, rfl⟩

section
variable {s t u : State} {n : Nat} {l : Landing} (h : LandingSet s t n l)
include h

theorem LandingSet.regsAndHost (h' : OnlyRegsAndHost t u) : LandingSet s u n l := by
  have landing (m : Nat) : u.landing m = t.landing m := (congrArg (State.landing · m) h' :)
  exact ⟨(landing n).trans h.landing, fun m hm => (landing m).trans (h.others m hm), (congrArg State.mem h' :).trans h.mem,
    h'.words32.trans h.words32⟩

theorem LandingSet.fault (h' : OnlyFault t u) : LandingSet s u n l :=
  ⟨(h'.landing n).trans h.landing, fun m hm => (h'.landing m).trans (h.others m hm), h'.mem.trans h.mem,
    h'.words32.trans h.words32⟩

theorem LandingSet.hostWaitEnds (m q how : Nat) : LandingSet s (t.hostWaitEnds m q how) n l :=
  ⟨h.landing, h.others, h.mem, h.words32⟩

end

/-- A mirror line's write leaves the fault record of every page. -/
theorem low_word_mirror (s : State) (n : Nat) {m x : Nat} (hx : x < 0x20) : (s.mirror n).word m x = s.word m x := by
  unfold State.mirror
  split
  · exact low_word_toHost s hx _
  · rfl

theorem hostLinesOf_setHostLines (s : State) (n m : Nat) (h : HostLines) :
    (s.setHostLines n h).hostLinesOf m = if m = n then h else s.hostLinesOf m := sget_sset _ _ _ _ _

theorem OnlyRegsAndHost.hostLinesOf {s t : State} (h : OnlyRegsAndHost s t) (n : Nat) : t.hostLinesOf n = s.hostLinesOf n :=
  (congrArg (State.hostLinesOf · n) h :)

/-- Settles O34: a wait leaves its slot, with a fault for a gate and a word in the mirror line for the host. That the operation of
the SCLK comes before the timeout is `State.releasedNow` (log entry 54). -/
theorem timeoutLeavesSlot : Obligations.TimeoutLeavesSlot := by
  unfold Obligations.TimeoutLeavesSlot
  refine ⟨fun s n slot h => exec_landingTimeout_released h, fun s n slot e hstill hrel he c g q v hwho => ?_⟩
  have runs := exec_landingTimeout hstill hrel he
  have left : LandingSet s (waitLeft s n slot) n _ := landingSet_setLanding s n (slotLeft (s.landing n) slot)
  rcases hwho with ⟨gate, -, hg⟩ | host
  · have fault := onlyFault_gateFaulted (waitLeft s n slot) 0 n slot c g 0x0D
    obtain ⟨landing, others, mem, words32⟩ := (left.fault fault).regsAndHost (onlyRegsAndHost_mirror _ n)
    refine ⟨_, runs.trans (congrArg _ (waitTimesOut_gate s n slot gate)), landing, others, fun _ hvalid => ?_,
      fun host => ?_, mem, words32⟩
    · obtain ⟨valid, code⟩ := gateFaulted_records (waitLeft s n slot) 0 n slot c hg (show 0x0D < 256 by decide) hvalid
      rw [State.rd, low_word_mirror _ _ (by decide), low_word_mirror _ _ (by decide)]
      exact ⟨valid, code⟩
    · rw [gate] at host
      cases host
  · have ended := (onlyRegsAndHost_mirror (((waitLeft s n slot).landingErr 0 n slot).hostWaitEnds n q 1) n).trans
      (onlyRegsAndHost_toHost _ (.msix v))
    obtain ⟨landing, others, mem, words32⟩ :=
      ((left.regsAndHost (onlyRegs_landingErr _ 0 n slot).onlyRegsAndHost).hostWaitEnds n q 1).regsAndHost ended
    refine ⟨_, runs.trans (congrArg _ (waitTimesOut_host s n slot host)), landing, others, fun gate => ?_, fun _ => ?_, mem,
      words32⟩
    · rw [host] at gate
      cases gate
    · rw [ended.hostLinesOf, State.hostWaitEnds, hostLinesOf_setHostLines, if_pos rfl]
      exact ⟨rfl, rfl⟩

/-! Host lines (R289, R426). -/

/-- What the module keeps of a host-visible landing's lines once it has read line `x`. -/
def lineSeen (h : HostLines) (x : HostLine) : HostLines :=
  { h with based := true, cached := true, stotal := x.stotal.toNat, atotal := x.atotal.toNat, wseq := x.wseq.toNat }

/-- The host's operations on their way. -/
def hostQueued (s : State) (ops : List LandingOp) : State := ops.foldl (fun t op => t.queueOp 0 rankHost op) s

theorem timestamp_queueOp (s : State) (wait rank : Nat) (op : LandingOp) : (s.queueOp wait rank op).timestamp = s.timestamp := rfl

theorem landingQ_hostQueued (s : State) (ops : List LandingOp) : (hostQueued s ops).landingQ
    = ops.foldl (fun l op => insertOp ⟨s.timestamp, rankHost, op⟩ l) s.landingQ := by
  induction ops generalizing s with
  | nil => rfl
  | cons op r ih =>
    have rest := ih (s.queueOp 0 rankHost op)
    rw [timestamp_queueOp, landingQ_queueOp, Nat.add_zero] at rest
    rw [List.foldl_cons, ← rest, hostQueued, List.foldl_cons, hostQueued]

theorem hostQueued_frame (s : State) (ops : List LandingOp) : { hostQueued s ops with landingQ := s.landingQ } = s := by
  induction ops generalizing s with
  | nil => rfl
  | cons op r ih => exact congrArg (fun t : State => { t with landingQ := s.landingQ }) (ih (s.queueOp 0 rankHost op))

/-- No increments and no advances stand for no operation. -/
theorem hostOps_zero (n : Nat) (last : Word) : hostOps n 0 0 last = [] := rfl

/-- How far the host's totals have advanced. -/
def incsOf (h : HostLines) (x : HostLine) : Nat := (x.stotal.toNat + 2 ^ 32 - h.stotal) % 2 ^ 32
def advsOf (h : HostLines) (x : HostLine) : Nat := (x.atotal.toNat + 2 ^ 16 - h.atotal) % 2 ^ 16

/-- The host's wait, where its sequence number has changed. -/
def hostWait (n : Nat) (h : HostLines) (x : HostLine) : List LandingOp :=
  if x.wseq.toNat = h.wseq then []
  else [.register n 12 ⟨.host x.wseq.toNat x.vec.toNat, false, x.waitv, timeoutOf x.timeout.toNat⟩]

/-- The operations that a read of line `x` stands for: none where it takes the baseline. -/
def lineOps (n : Nat) (h : HostLines) (x : HostLine) (last : Word) : List LandingOp :=
  if h.based then hostOps n (incsOf h x) (advsOf h x) last ++ hostWait n h x else []

theorem lineOps_based {h : HostLines} (hb : h.based = true) (n : Nat) (x : HostLine) (last : Word) :
    lineOps n h x last = hostOps n (incsOf h x) (advsOf h x) last ++ hostWait n h x := if_pos hb

theorem lineOps_baseline {h : HostLines} (hb : h.based = false) (n : Nat) (x : HostLine) (last : Word) :
    lineOps n h x last = [] := if_neg (Bool.eq_false_iff.mp hb)

/-- A read finds something new on the line. -/
def lineChanged (h : HostLines) (x : HostLine) : Bool := incsOf h x != 0 || advsOf h x != 0 || x.wseq.toNat != h.wseq

/-- A line on which nothing has changed stands for no operation. -/
theorem lineOps_unchanged {h : HostLines} {x : HostLine} (hsame : lineChanged h x = false) (n : Nat) (last : Word) :
    lineOps n h x last = [] := by
  simp only [lineChanged, Bool.or_eq_false_iff, bne_eq_false_iff_eq] at hsame
  obtain ⟨⟨incs, advs⟩, wseq⟩ := hsame
  rw [lineOps, incs, advs, hostOps_zero, hostWait, if_pos wseq, List.append_nil, ite_self]

theorem hostQueued_append (s : State) (ops r : List LandingOp) : hostQueued s (ops ++ r) = hostQueued (hostQueued s ops) r :=
  List.foldl_append

theorem hostQueued_hostWait (s : State) (n : Nat) (h : HostLines) (x : HostLine) : hostQueued s (hostWait n h x) =
    if x.wseq.toNat = h.wseq then s
    else s.queueOp 0 rankHost (.register n 12
      ⟨.host x.wseq.toNat x.vec.toNat, false, x.waitv, timeoutOf x.timeout.toNat⟩) := by
  unfold hostWait
  split <;> rfl

section
variable {s : State} {n : HostLandingId} {x : HostLine} (hthawed : s.frozen = false)
  (hen : s.rd Pg.landings Reg.Landings.HOST_EN = 1) (hlost : (s.hostLinesOf n).cached = false)
  (htest : s.rd Pg.selfTest Reg.SelfTest.STSTATE ≠ 1) (hgather : s.gather = []) (hrecord : ∀ p, p < 4 → s.towMode p ≠ 3)
include hthawed hen hlost htest hgather hrecord

/-- Outside replay a read of a lost line caches it and queues what it stands for. -/
theorem exec_hostSignalLineRead : exec (.hostSignalLineRead n x) s = .next
    (hostQueued (s.setHostLines n (lineSeen (s.hostLinesOf n) x))
      (lineOps n (s.hostLinesOf n) x (BitVec.ofNat 32 (s.hubLast 8 0)))) := by
  have recording : ((s.setHostLines n (lineSeen (s.hostLinesOf n) x)).landingPolders n).any
      (fun p => (s.setHostLines n (lineSeen (s.hostLinesOf n) x)).towMode p == 3) = false := by
    refine List.any_eq_false.mpr fun p hp => ?_
    rw [beq_iff_eq]
    exact hrecord p (List.mem_range.mp (List.mem_filter.mp hp).1)
  change execHostSignalLineRead n x s = _
  simp only [execHostSignalLineRead, hthawed, hen, hlost, beq_eq_false_iff_ne.mpr htest, drainGather_of_empty hgather,
    bne_self_eq_false, Bool.or_self, Bool.false_eq_true, if_false]
  rcases Bool.eq_false_or_eq_true (s.hostLinesOf n).based with based | baseline
  · rcases Bool.eq_false_or_eq_true (lineChanged (s.hostLinesOf n) x) with changed | unchanged
    · rw [lineOps_based based, hostQueued_append, hostQueued_hostWait]
      refine congrArg Host.Outcome.next ((if_neg ?_).trans (if_neg (Bool.eq_false_iff.mp recording)))
      exact Bool.eq_false_iff.mp (show (!(s.hostLinesOf n).based || !lineChanged (s.hostLinesOf n) x) = false by
        rw [based, changed]
        rfl)
    · rw [lineOps_unchanged unchanged]
      refine congrArg Host.Outcome.next (if_pos ?_)
      exact (show (!(s.hostLinesOf n).based || !lineChanged (s.hostLinesOf n) x) = true by
        rw [unchanged, Bool.not_false, Bool.or_true])
  · rw [lineOps_baseline baseline, if_pos (by rw [baseline]; rfl)]
    rfl

end

/-- Settles O35: a snoop and a read are records of the host's lines; what a read queues is a list of
operations, empty where it takes the baseline (log entry 15). -/
theorem hostLinesFollowTheHost : Obligations.HostLinesFollowTheHost := by
  unfold Obligations.HostLinesFollowTheHost
  refine ⟨fun s n => ⟨_, rfl, ?_, fun m hm => ?_, rfl, rfl, rfl⟩, fun s n x hthawed hen hlost htest hgather hrecord => ?_,
    fun n d a last _ => ⟨sum_incOf_hostOps n d a last, countP_advOf_hostOps n d a last, fun o => mem_hostOps n d a last⟩⟩
  · rw [hostLinesOf_setHostLines, if_pos rfl]
  · rw [hostLinesOf_setHostLines, if_neg hm]
  · have frame := hostQueued_frame (s.setHostLines n (lineSeen (s.hostLinesOf n) x))
      (lineOps n (s.hostLinesOf n) x (BitVec.ofNat 32 (s.hubLast 8 0)))
    refine ⟨_, exec_hostSignalLineRead hthawed hen hlost htest hgather hrecord, ?_, fun baseline => ?_,
      fun based hwseq => ?_, (congrArg State.mem frame :), (congrArg State.words32 frame :)⟩
    · have seen : (s.setHostLines n (lineSeen (s.hostLinesOf n) x)).hostLinesOf n = lineSeen (s.hostLinesOf n) x := by
        rw [hostLinesOf_setHostLines, if_pos rfl]
      exact (congrArg (State.hostLinesOf · n) frame :).trans seen
    · rw [lineOps_baseline baseline]
      rfl
    · rw [lineOps_based based, hostWait, if_pos hwseq, List.append_nil, landingQ_hostQueued]
      rfl

end Sys2Proof.Proofs
end
